-- ==== Sys2Proof/Word.lean ====
section
/-!
DEFINITION. The words of the MKS-9640 and the widths of its operand fields (spec 00 R4, 02 R26 to R33).
-/
namespace Sys2Proof

/-- A scalar register, an address or a system register value. -/
abbrev Word := BitVec 64
/-- An instruction word, or one 32-bit element of a plane. -/
abbrev Word32 := BitVec 32
/-- The smallest addressable unit. -/
abbrev Byte := BitVec 8
/-- A Pliren register field: g0 to g15 (R28). -/
abbrev GReg := BitVec 4
/-- A native scalar register field: s0 to s31 (R32). -/
abbrev SReg := BitVec 5
/-- A plane field: p0 to p15 (R32). -/
abbrev PReg := BitVec 4
/-- A mask field: k0 to k7 (R32). -/
abbrev KReg := BitVec 3

end Sys2Proof
end

