-- ==== Sys2Proof/Config.lean ====
section
/-!
DEFINITION. What the spec leaves to the part or leaves open: constants without a value. Nothing in the model or in a
proof can evaluate one, so a statement that mentions one holds for every value of it.
-/
namespace Sys2Proof.Config

/-- The n-th free value: entropy, and every value the spec does not state. The counter is State.free. -/
opaque freeWord : Nat → Word

/-- The worst-case figure in clk of a key of the latency record (R14): an instruction id, or 0x8000_0000 and a path number. R116
states some figures; this is one that it leaves out. -/
opaque worstClk : Nat → BitVec 32

/-- The bytes of the SCTL's boot ROM (R310, R328). -/
opaque bootRom : Nat → Byte

/-- The fused device identifier (R365). -/
opaque devId : Word

/-- The vendor's RSA-4096 keys in ROM, exponent and modulus with the most significant byte first: 0 the debug authority key,
1 the image key (R365). -/
opaque vendorKey : Nat → Nat × List Byte

/-- ML-KEM-1024.Decaps under the decapsulation key that the part derives from its fused seed (R356, R361): the shared secret of a
ciphertext. -/
opaque decaps : List Byte → List Byte

/-- The flash of the controller images as the part is delivered (R326): controller kind, slot, offset. -/
opaque flashByte : Nat → Nat → Nat → Byte

/-- The certificate chain of slot 0, and the certificate of the ML-KEM key that slot 1 adds to it (R356). -/
opaque certChain : List Byte
opaque kemCert : List Byte

/-- The first word of a world's configuration record: its tag and binding state, in a layout that R359 does not give. -/
opaque recordHead : Nat → Nat → Word

/-- The signature that the device identity key makes over bytes (R356). -/
opaque identitySign : List Byte → List Byte

/-- The switches on the fabric paths among dies, by logical die number (R390). -/
opaque pathSwitches : List Nat → List Nat

end Sys2Proof.Config
end

