-- ==== Sys2Proof/Syntax.lean ====
section
/-!
DEFINITION. The instruction type: one constructor per row of the table of operations and events
(spec/opcode_table.json). The first 188 rows are encoded instructions, in the order of the opcode maps
(spec 02 R30, R34); the other 144 are the indivisible steps of the units of the package, which have no encoding
and carry as arguments the object they act on and what comes from outside the package.
A register number field keeps its encoded width.
-/
namespace Sys2Proof

/-- What an agent outside the package answers (a completer on the host link, another package): whether it performed
the access, and the bytes it returned (R249, R264). Not read for an access the package itself owns. -/
structure Ext where
  ok : Bool
  data : List (BitVec 8)
  deriving DecidableEq, Repr

/-- What a flit from another package carries (R249, R374, R379, R387): nothing that the model shows, a write to memory of
this package, a message for a context; for a view slot a heartbeat, the report of a failed member to the leader, or a member's reply
to PROPOSE with its installed tag. -/
inductive Flit where
  | other
  | write (va : BitVec 64) (data : List (BitVec 8))
  | message (rank cluster core slot : Nat) (sender : BitVec 32) (data : List (BitVec 8))
  | heartbeat (slot : Nat)
  | report (slot failed : Nat)
  | reply (slot member tag : Nat)
  deriving DecidableEq, Repr

/-- Where a register write without behaviour of its own comes from (R5): a `putx` of the running context, the host's
write to a world's register page (R276), an `st64` of the SCTL to a device register (R365), or the PF's write through
the mailbox window (R310, R353). -/
inductive RegWrite where
  | reg (a : GReg) (r : BitVec 12)
  | host (world die off : Nat) (v : BitVec 64)
  | device (v b : GReg) (i : BitVec 14)
  | mailbox (ctl off : Nat) (v : BitVec 64)
  deriving DecidableEq, Repr

/-- The operations and events of the table, in its order. -/
inductive Instr where
  /-- ADD (R85). -/
  | add (d a b : GReg)
  /-- SUB (R85). -/
  | sub (d a b : GReg)
  /-- AND (R85). -/
  | and (d a b : GReg)
  /-- OR (R85). -/
  | or (d a b : GReg)
  /-- XOR (R85). -/
  | xor (d a b : GReg)
  /-- SHL (R85). -/
  | shl (d a b : GReg)
  /-- SHR (R85). -/
  | shr (d a b : GReg)
  /-- SAR (R85). -/
  | sar (d a b : GReg)
  /-- MUL (R85). -/
  | mul (d a b : GReg)
  /-- MULH (R85). -/
  | mulh (d a b : GReg)
  /-- MULHZ (R85). -/
  | mulhz (d a b : GReg)
  /-- DIV (R86). -/
  | div (d a b : GReg)
  /-- DIVZ (R86). -/
  | divz (d a b : GReg)
  /-- REM (R86). -/
  | rem (d a b : GReg)
  /-- REMZ (R86). -/
  | remz (d a b : GReg)
  /-- SLT (R85). -/
  | slt (d a b : GReg)
  /-- SLTZ (R85). -/
  | sltz (d a b : GReg)
  /-- ADDI (R87). -/
  | addi (d a : GReg) (i : BitVec 17)
  /-- ANDI (R87). -/
  | andi (d a : GReg) (i : BitVec 17)
  /-- ORI (R87). -/
  | ori (d a : GReg) (i : BitVec 17)
  /-- XORI (R87). -/
  | xori (d a : GReg) (i : BitVec 17)
  /-- SHLI (R87). -/
  | shli (d a : GReg) (n : BitVec 6)
  /-- SHRI (R87). -/
  | shri (d a : GReg) (n : BitVec 6)
  /-- SARI (R87). -/
  | sari (d a : GReg) (n : BitVec 6)
  /-- SLTI (R87). -/
  | slti (d a : GReg) (i : BitVec 17)
  /-- SLTZI (R87). -/
  | sltzi (d a : GReg) (i : BitVec 17)
  /-- LIU (R88). -/
  | liu (d : GReg) (i : BitVec 21)
  /-- LD8S (R92). -/
  | ld8s (d b : GReg) (i : BitVec 14)
  /-- LD8Z (R92). -/
  | ld8z (d b : GReg) (i : BitVec 14)
  /-- LD16S (R92). -/
  | ld16s (d b : GReg) (i : BitVec 14)
  /-- LD16Z (R92). -/
  | ld16z (d b : GReg) (i : BitVec 14)
  /-- LD32S (R92). -/
  | ld32s (d b : GReg) (i : BitVec 14)
  /-- LD32Z (R92). -/
  | ld32z (d b : GReg) (i : BitVec 14)
  /-- LD64 (R92). -/
  | ld64 (d b : GReg) (i : BitVec 14)
  /-- ST8 (R93). -/
  | st8 (v b : GReg) (i : BitVec 14)
  /-- ST16 (R93). -/
  | st16 (v b : GReg) (i : BitVec 14)
  /-- ST32 (R93). -/
  | st32 (v b : GReg) (i : BitVec 14)
  /-- ST64 (R93). -/
  | st64 (v b : GReg) (i : BitVec 14)
  /-- BEQ (R96). -/
  | beq (a b : GReg) (o : BitVec 14)
  /-- BNE (R96). -/
  | bne (a b : GReg) (o : BitVec 14)
  /-- BLT (R96). -/
  | blt (a b : GReg) (o : BitVec 14)
  /-- BGE (R96). -/
  | bge (a b : GReg) (o : BitVec 14)
  /-- BBL (R96). -/
  | bbl (a b : GReg) (o : BitVec 14)
  /-- BAE (R96). -/
  | bae (a b : GReg) (o : BitVec 14)
  /-- JAL (R97). -/
  | jal (d : GReg) (o : BitVec 21)
  /-- JALR (R97). -/
  | jalr (d a : GReg) (i : BitVec 17)
  /-- SYS_CTRD (R98). -/
  | sysCtrd (d a : GReg)
  /-- SYS_ENTROPY (R98). -/
  | sysEntropy (d a : GReg)
  /-- SYS_WFI (R98). -/
  | sysWfi (d a : GReg)
  /-- SYS_CRET (R312). -/
  | sysCret
  /-- GETX (R99). -/
  | getx (d : GReg) (r : BitVec 12)
  /-- PUTX (R99). -/
  | putx (a : GReg) (r : BitVec 12)
  /-- ORDR (R100). -/
  | ordr
  /-- HALT (R101). -/
  | halt
  /-- BRK (R102). -/
  | brk (c : BitVec 12)
  /-- CLZ (R103). -/
  | clz (d a : SReg)
  /-- CTZ (R103). -/
  | ctz (d a : SReg)
  /-- POPC (R103). -/
  | popc (d a : SReg)
  /-- BITREV (R103). -/
  | bitrev (d a : SReg)
  /-- BSWAP (R103). -/
  | bswap (d a : SReg)
  /-- SEL (R103). -/
  | sel (d a b : SReg)
  /-- MKVA (R103). -/
  | mkva (d a b : SReg)
  /-- DIEOF (R103). -/
  | dieof (d a : SReg)
  /-- ADDVA (R103). -/
  | addva (d a b : SReg)
  /-- BFX (R104). -/
  | bfx (d a : SReg) (p l : BitVec 6)
  /-- BFI (R104). -/
  | bfi (d a : SReg) (p l : BitVec 6)
  /-- CALL (R106). -/
  | call (n : BitVec 5) (o : BitVec 20)
  /-- CALL_FAR (R106). -/
  | callFar (n : BitVec 5) (imm : BitVec 32)
  /-- CALLR (R106). -/
  | callr (n : BitVec 5) (a : SReg)
  /-- RET (R107). -/
  | ret
  /-- LDK (R105). -/
  | ldk (d : SReg) (imm : BitVec 32)
  /-- LDK_Z (R105). -/
  | ldkZ (d : SReg) (imm : BitVec 32)
  /-- LDK_HI (R105). -/
  | ldkHi (d : SReg) (imm : BitVec 32)
  /-- SETBA (R109). -/
  | setba (a : SReg)
  /-- LDBITS (R110). -/
  | ldbits (d : SReg) (s : BitVec 1) (w : BitVec 5)
  /-- STBITS (R110). -/
  | stbits (a : SReg) (w : BitVec 5)
  /-- WAITC (R112). -/
  | waitc (l s c t : BitVec 4)
  /-- RDCTR (R113). -/
  | rdctr (d : SReg) (n : BitVec 2)
  /-- HSTART (R84). -/
  | hstart (d a b : SReg)
  /-- HJOIN (R84). -/
  | hjoin (d a : SReg)
  /-- HQUIT (R84). -/
  | hquit (a : SReg)
  /-- HSTAT (R84). -/
  | hstat (d a : SReg)
  /-- TRAP (R176). -/
  | trap (a : SReg)
  /-- ERET (R177). -/
  | eret
  /-- YIELD (R181). -/
  | yield (d : SReg)
  /-- QUERY (R178). -/
  | query (d a : SReg)
  /-- PEND (R179). -/
  | pend (d : SReg)
  /-- XLAT (R295). -/
  | xlat (d a : SReg)
  /-- IINV (R294). -/
  | iinv (a b : SReg)
  /-- IPRF (R293). -/
  | iprf (a b : SReg)
  /-- SDONE (R288). -/
  | sdone (a : SReg)
  /-- AMO (R269). -/
  | amo (d a b : SReg) (o : BitVec 3) (w : BitVec 1) (r : BitVec 3)
  /-- CAS (R269). -/
  | cas (d a b : SReg) (w : BitVec 1) (r : BitVec 3)
  /-- LDSC (R272). -/
  | ldsc (d a : SReg) (w : BitVec 1)
  /-- STSC (R272). -/
  | stsc (a b : SReg) (w : BitVec 1)
  /-- AMOSC (R272). -/
  | amosc (d a b : SReg) (o : BitVec 3) (w : BitVec 1)
  /-- ARRIVE (R197). -/
  | arrive (d : SReg) (s : BitVec 3) (g : BitVec 4) (x : BitVec 1)
  /-- WAIT (R199). -/
  | wait (d : SReg) (s : BitVec 3) (g : BitVec 4)
  /-- PUBLISH (R204). -/
  | publish (s : BitVec 3)
  /-- BMASK (R200). -/
  | bmask (d a : SReg) (s : BitVec 3) (g : BitVec 4)
  /-- BSTEP (R201). -/
  | bstep (d a : SReg) (s : BitVec 3) (g : BitVec 4)
  /-- FFILL (R207). -/
  | ffill (d a : SReg)
  /-- FWAIT (R208). -/
  | fwait (d a : SReg)
  /-- FPOLL (R208). -/
  | fpoll (d a : SReg)
  /-- SEND (R381). -/
  | send (d a b : SReg) (l : BitVec 3)
  /-- RECV (R382). -/
  | recv (d a b : SReg)
  /-- RANKSET (R383). -/
  | rankset (d a b : SReg)
  /-- RANKMV (R383). -/
  | rankmv (d a b : SReg)
  /-- COLL (R393). -/
  | coll (d a : SReg)
  /-- CWAIT (R394). -/
  | cwait (d a : SReg)
  /-- VIEW (R395). -/
  | view (d a : SReg)
  /-- VACK (R396). -/
  | vack (d a : SReg)
  /-- VADD (R124). -/
  | vadd (d a b : PReg) (k : KReg) (r : BitVec 2) (t : BitVec 4)
  /-- VSUB (R124). -/
  | vsub (d a b : PReg) (k : KReg) (r : BitVec 2) (t : BitVec 4)
  /-- VMUL (R124). -/
  | vmul (d a b : PReg) (k : KReg) (r : BitVec 2) (t : BitVec 4)
  /-- VMULH (R124). -/
  | vmulh (d a b : PReg) (k : KReg) (r : BitVec 2) (t : BitVec 4)
  /-- VFMA (R124). -/
  | vfma (d a b : PReg) (k : KReg) (r : BitVec 2) (t : BitVec 4)
  /-- VMIN (R124). -/
  | vmin (d a b : PReg) (k : KReg) (r : BitVec 2) (t : BitVec 4)
  /-- VMAX (R124). -/
  | vmax (d a b : PReg) (k : KReg) (r : BitVec 2) (t : BitVec 4)
  /-- VABS (R124). -/
  | vabs (d a : PReg) (k : KReg) (r : BitVec 2) (t : BitVec 4)
  /-- VNEG (R124). -/
  | vneg (d a : PReg) (k : KReg) (r : BitVec 2) (t : BitVec 4)
  /-- VDIV (R124). -/
  | vdiv (d a b : PReg) (k : KReg) (r : BitVec 2) (t : BitVec 4)
  /-- VSQRT (R124). -/
  | vsqrt (d a : PReg) (k : KReg) (r : BitVec 2) (t : BitVec 4)
  /-- VADD_IMM (R36). -/
  | vaddImm (d a : PReg) (k : KReg) (r : BitVec 2) (t : BitVec 4) (imm : BitVec 32)
  /-- VSUB_IMM (R36). -/
  | vsubImm (d a : PReg) (k : KReg) (r : BitVec 2) (t : BitVec 4) (imm : BitVec 32)
  /-- VMUL_IMM (R36). -/
  | vmulImm (d a : PReg) (k : KReg) (r : BitVec 2) (t : BitVec 4) (imm : BitVec 32)
  /-- VMULH_IMM (R36). -/
  | vmulhImm (d a : PReg) (k : KReg) (r : BitVec 2) (t : BitVec 4) (imm : BitVec 32)
  /-- VMIN_IMM (R36). -/
  | vminImm (d a : PReg) (k : KReg) (r : BitVec 2) (t : BitVec 4) (imm : BitVec 32)
  /-- VMAX_IMM (R36). -/
  | vmaxImm (d a : PReg) (k : KReg) (r : BitVec 2) (t : BitVec 4) (imm : BitVec 32)
  /-- VDIV_IMM (R36). -/
  | vdivImm (d a : PReg) (k : KReg) (r : BitVec 2) (t : BitVec 4) (imm : BitVec 32)
  /-- VAND (R127). -/
  | vand (d a b : PReg) (k : KReg) (t : BitVec 4)
  /-- VOR (R127). -/
  | vor (d a b : PReg) (k : KReg) (t : BitVec 4)
  /-- VXOR (R127). -/
  | vxor (d a b : PReg) (k : KReg) (t : BitVec 4)
  /-- VSHL (R127). -/
  | vshl (d a b : PReg) (k : KReg) (t : BitVec 4)
  /-- VSHR (R127). -/
  | vshr (d a b : PReg) (k : KReg) (t : BitVec 4)
  /-- VSAR (R127). -/
  | vsar (d a b : PReg) (k : KReg) (t : BitVec 4)
  /-- VPOPC (R127). -/
  | vpopc (d a : PReg) (k : KReg) (t : BitVec 4)
  /-- VCLZ (R127). -/
  | vclz (d a : PReg) (k : KReg) (t : BitVec 4)
  /-- VAND_IMM (R36). -/
  | vandImm (d a : PReg) (k : KReg) (t : BitVec 4) (imm : BitVec 32)
  /-- VOR_IMM (R36). -/
  | vorImm (d a : PReg) (k : KReg) (t : BitVec 4) (imm : BitVec 32)
  /-- VXOR_IMM (R36). -/
  | vxorImm (d a : PReg) (k : KReg) (t : BitVec 4) (imm : BitVec 32)
  /-- VSHL_IMM (R36). -/
  | vshlImm (d a : PReg) (k : KReg) (t : BitVec 4) (imm : BitVec 32)
  /-- VSHR_IMM (R36). -/
  | vshrImm (d a : PReg) (k : KReg) (t : BitVec 4) (imm : BitVec 32)
  /-- VSAR_IMM (R36). -/
  | vsarImm (d a : PReg) (k : KReg) (t : BitVec 4) (imm : BitVec 32)
  /-- VCMP (R128). -/
  | vcmp (h : BitVec 1) (q : KReg) (a b : PReg) (k : KReg) (c : BitVec 2) (t : BitVec 4)
  /-- VCMP_IMM (R128). -/
  | vcmpImm (h : BitVec 1) (q : KReg) (a : PReg) (k : KReg) (c : BitVec 2) (t : BitVec 4) (imm : BitVec 32)
  /-- VSEL (R129). -/
  | vsel (d a b : PReg) (k : KReg) (t : BitVec 4)
  /-- VBCAST (R129). -/
  | vbcast (d : PReg) (s : SReg) (k : KReg) (t : BitVec 4)
  /-- VBCAST_IMM (R129). -/
  | vbcastImm (d : PReg) (k : KReg) (t : BitVec 4) (imm : BitVec 32)
  /-- VIDX (R129). -/
  | vidx (d : PReg) (k : KReg) (t : BitVec 4)
  /-- VRED (R130). -/
  | vred (d a : PReg) (x : BitVec 1) (o : BitVec 3) (k : KReg) (r : BitVec 2) (t : BitVec 4)
  /-- VSCAN (R130). -/
  | vscan (d a : PReg) (x : BitVec 1) (o : BitVec 3) (k : KReg) (r : BitVec 2) (t : BitVec 4)
  /-- VTRANS (R131). -/
  | vtrans (d a : PReg) (k : KReg) (t : BitVec 4)
  /-- VPERM (R131). -/
  | vperm (d a b : PReg) (k : KReg) (t : BitVec 4)
  /-- VCVT_TO (R132). -/
  | vcvtTo (d a : PReg) (f : BitVec 4) (k : KReg) (r : BitVec 2) (t : BitVec 4) (g : BitVec 1)
  /-- VCVT_FROM (R132). -/
  | vcvtFrom (d a : PReg) (f : BitVec 4) (k : KReg) (r : BitVec 2) (t : BitVec 4) (g : BitVec 1)
  /-- SHAPE (R133). -/
  | shape (d a b : SReg)
  /-- SHAPEQ (R133). -/
  | shapeq (d : SReg)
  /-- KAND (R133). -/
  | kand (d a b : KReg)
  /-- KOR (R133). -/
  | kor (d a b : KReg)
  /-- KXOR (R133). -/
  | kxor (d a b : KReg)
  /-- KNOT (R133). -/
  | knot (d a : KReg)
  /-- KEDGE (R133). -/
  | kedge (d a : KReg)
  /-- KPOP (R133). -/
  | kpop (d : SReg) (a : KReg)
  /-- VLD (R137). -/
  | vld (p : PReg) (b s : SReg) (k : KReg) (t : BitVec 4)
  /-- VST (R138). -/
  | vst (p : PReg) (b s : SReg) (k : KReg) (t : BitVec 4)
  /-- VLDI (R137). -/
  | vldi (p : PReg) (b : SReg) (i : PReg) (k : KReg) (t : BitVec 4)
  /-- VSTI (R138). -/
  | vsti (p : PReg) (b : SReg) (i : PReg) (k : KReg) (t : BitVec 4)
  /-- VLDB (R140). -/
  | vldb (p : PReg) (w : BitVec 5) (k : KReg) (t : BitVec 4)
  /-- VSTB (R140). -/
  | vstb (p : PReg) (w : BitVec 5) (k : KReg) (t : BitVec 4)
  /-- VAMO (R142). -/
  | vamo (p : PReg) (b : SReg) (i : PReg) (t : BitVec 4) (o : BitVec 3)
  /-- VRST (R142). -/
  | vrst (p : PReg) (b : SReg) (i : PReg) (t : BitVec 4) (o : BitVec 3)
  /-- TDEF_DEFINE (R219). -/
  | tdefDefine (d a b : SReg)
  /-- TDEF_STATUS (R219). -/
  | tdefStatus (d a b : SReg)
  /-- TDEF_CLEAR_STATUS (R219). -/
  | tdefClearStatus (d a b : SReg)
  /-- TDEF_UNDEFINE (R219). -/
  | tdefUndefine (d a b : SReg)
  /-- TTYPE_DEFINE (R240). -/
  | ttypeDefine (d a b : SReg)
  /-- TTYPE_UNDEFINE (R240). -/
  | ttypeUndefine (d a b : SReg)
  /-- FORCE (R157). -/
  | force (d a b : SReg)
  /-- TDROP (R158). -/
  | tdrop (d a : SReg)
  /-- SIDQ (R159). -/
  | sidq (d a : SReg)
  /-- TMUL (R225). -/
  | tmul (d a b : SReg)
  /-- TEW (R229). -/
  | tew (d a b : SReg)
  /-- TRED (R230). -/
  | tred (d a b : SReg)
  /-- TCVT (R231). -/
  | tcvt (d a b : SReg)
  /-- TMOVE (R233). -/
  | tmove (d a b : SReg)
  /-- TGATHER (R232). -/
  | tgather (d a b : SReg)
  /-- TENQ (R242). -/
  | tenq (d a : SReg)
  /-- ILLEGAL_WORD (R46). -/
  | illegalWord (w imm : BitVec 32)
  /-- HELPER_END (R82). -/
  | helperEnd (ctx : Nat)
  /-- LOAD_RETURN (R92). -/
  | loadReturn (id : Nat)
  /-- ACCESS_AT_OWNER (R404). -/
  | accessAtOwner (id : Nat) (ext : Ext)
  /-- WALK_END (R254). -/
  | walkEnd (id : Nat)
  /-- PAGE_REQUEST_DEFERRED_POST (R259). -/
  | pageRequestDeferredPost (world die : Nat)
  /-- PARK_REPLAY (R256). -/
  | parkReplay (id : Nat)
  /-- PARK_NOTICE_TIMEOUT (R258). -/
  | parkNoticeTimeout (id : Nat)
  /-- DRAIN_PERFORM (R148). -/
  | drainPerform (core entry : Nat) (ext : Ext)
  /-- DRAIN_ACK (R148). -/
  | drainAck (core entry : Nat)
  /-- ATOMIC_AT_HOME (R265). -/
  | atomicAtHome (id : Nat) (ext : Ext)
  /-- LEASE_WRITEBACK (R266). -/
  | leaseWriteback (cluster line : Nat)
  /-- SC_WINDOW_PERFORM (R271). -/
  | scWindowPerform (window : Nat)
  /-- SC_RESULT (R271). -/
  | scResult (id : Nat)
  /-- FUTURE_FILL_AT_BANK (R207). -/
  | futureFillAtBank (id : Nat)
  /-- FUTURE_WAKE (R209). -/
  | futureWake (cluster : Nat)
  /-- MERGE_READ (R238). -/
  | mergeRead (core entry : Nat)
  /-- MERGE_WRITEBACK (R238). -/
  | mergeWriteback (core entry : Nat)
  /-- PENDING_CAUSE_TAKE (R170). -/
  | pendingCauseTake (ctx : Nat)
  /-- UPFRAME_WRITE (R173). -/
  | upframeWrite (a : GReg)
  /-- POOL_INSERT (R220). -/
  | poolInsert (cluster : Nat)
  /-- ENGINE_ISSUE (R222). -/
  | engineIssue (cluster : Nat)
  /-- POOL_ENTRY_COMPLETE (R222). -/
  | poolEntryComplete (cluster seq : Nat)
  /-- LATE_FAULT (R161). -/
  | lateFault (cluster seq cause : Nat)
  /-- TASK_CONVERT (R243). -/
  | taskConvert (cluster : Nat)
  /-- PDEAD_EXPIRE (R182). -/
  | pdeadExpire (core : Nat)
  /-- FORCED_SAVE (R183). -/
  | forcedSave (core : Nat)
  /-- GANG_TABLE_SAVE (R285). -/
  | gangTableSave (slice : Nat)
  /-- TIMETABLE_RANK (R283). -/
  | timetableRank (die : Nat)
  /-- BARRIER_DRAIN_START (R198). -/
  | barrierDrainStart (node group : Nat)
  /-- BARRIER_COMPLETE (R198). -/
  | barrierComplete (node group : Nat)
  /-- BARRIER_WAIT_RELEASE (R199). -/
  | barrierWaitRelease (ctx : Nat)
  /-- BUDGET_EXHAUSTED (R287). -/
  | budgetExhausted (slice : Nat)
  /-- HELD_COMPLETION_POST (R280). -/
  | heldCompletionPost (world die : Nat)
  /-- RING_SERVE (R278). -/
  | ringServe (world die : Nat)
  /-- LAUNCH (R281). -/
  | launch (world die : Nat)
  /-- ADMIT (R296). -/
  | admitPacket (world die : Nat)
  /-- METER_EXHAUSTED (R299). -/
  | meterExhausted
  /-- CACHE_WAIT_RESOLVE (R25). -/
  | cacheWaitResolve (die : Nat)
  /-- SIGNAL_BOX_CHECK (R290). -/
  | signalBoxCheck (die : Nat)
  /-- WATCHDOG_EXPIRE (R291). -/
  | watchdogExpire (core : Nat)
  /-- FETCH_FILL (R292). -/
  | fetchFill (id : Nat)
  /-- RTAIL_WRITE (R276). -/
  | rtailWrite (world die tail : Nat) (hostWrites : List (Nat × BitVec 8))
  /-- RDOOR_WRITE (R277). -/
  | rdoorWrite (a : GReg)
  /-- RCTL_STOP_CLEAR (R278). -/
  | rctlStopClear (world die : Nat)
  /-- CTXCMD_RESUME (R276). -/
  | ctxcmdResume (world die cluster core slot : Nat)
  /-- CTXCMD_ABORT (R276). -/
  | ctxcmdAbort (world die cluster core slot : Nat)
  /-- DIE_MAP_WRITE (R250). -/
  | dieMapWrite (die n : Nat) (v : BitVec 32)
  /-- S1ROOT_WRITE (R261). -/
  | s1rootWrite (a : GReg)
  /-- TINV_WRITE (R262). -/
  | tinvWrite (a : GReg)
  /-- PRQ1_READ (R261). -/
  | prq1Read (d : GReg)
  /-- PRQREPLY_WRITE (R260). -/
  | prqreplyWrite (a : GReg)
  /-- PF_PAGE_REQUEST_READ (R259). -/
  | pfPageRequestRead (world die : Nat)
  /-- STAGE2_PAGE_REPLY (R260). -/
  | stage2PageReply (world die id page size : Nat) (perm : BitVec 3) (refuse : Bool)
  /-- MIGRATION (R263). -/
  | migration (world die page dest : Nat)
  /-- GROUP_REGISTER_WRITE (R196). -/
  | groupRegisterWrite (a : GReg) (r : BitVec 12)
  /-- TQCTL_WRITE (R241). -/
  | tqctlWrite (a : GReg)
  /-- GENERIC_REGISTER_WRITE (R5). -/
  | genericRegisterWrite (t : RegWrite)
  /-- CONTROLLER_INTERRUPT (R312). -/
  | controllerInterrupt (ctl : Nat)
  /-- CONTROLLER_RESTART (R313). -/
  | controllerRestart (ctl : Nat)
  /-- CALIVE_WRITE (R327). -/
  | caliveWrite (a : GReg)
  /-- CALIVE_TIMEOUT (R327). -/
  | caliveTimeout (ctl : Nat)
  /-- D2D_FLIT_UNCORRECTABLE (R308). -/
  | d2dFlitUncorrectable (die other : Nat) (ids : List Nat)
  /-- SCHCTL_ONLINE (R319). -/
  | schctlOnline (a : GReg) (n : BitVec 8)
  /-- SCHCTL_DRAIN (R319). -/
  | schctlDrain (a : GReg) (n : BitVec 8)
  /-- SCHCTL_OFFLINE (R318). -/
  | schctlOffline (a : GReg) (n : BitVec 8)
  /-- SCHCTL_FENCED (R319). -/
  | schctlFenced (a : GReg) (n : BitVec 8)
  /-- SCHEDULER_DRAIN_DONE (R319). -/
  | schedulerDrainDone (stack n : Nat)
  /-- TRNCTL_GO (R318). -/
  | trnctlGo (a : GReg) (n : BitVec 8)
  /-- TRAINING_DONE (R319). -/
  | trainingDone (stack n : Nat) (pass : Bool) (zq wldly eyel eyer vref : BitVec 8)
  /-- DATA_PATH_ERROR (R321). -/
  | dataPathError (stack n : Nat)
  /-- HBM_REFRESH_DUE (R316). -/
  | hbmRefreshDue (stack n : Nat)
  /-- RAIL_STABLE (R322). -/
  | railStable (rail : Nat)
  /-- RAIL_OUT_OF_TOLERANCE (R322). -/
  | railOutOfTolerance (rail : Nat)
  /-- CGATE_WRITE (R323). -/
  | cgateWrite (a : GReg) (die : BitVec 2)
  /-- UNGATE_DONE (R323). -/
  | ungateDone (die cluster : Nat)
  /-- GOVERNOR_INTERVAL (R324). -/
  | governorInterval (amps : Nat)
  /-- LNCTL_GO (R325). -/
  | lnctlGo (a : GReg) (l : BitVec 4)
  /-- LANE_TRAIN_DONE (R325). -/
  | laneTrainDone (die link : Nat) (pass : Bool)
  /-- BOOT (R328). -/
  | boot (ok : Bool)
  /-- STRIKE_REPORT (R331). -/
  | strikeReport (unit : Nat)
  /-- EFFECT_REVOKE (R332). -/
  | effectRevoke (unit : Nat)
  /-- ELSEL_WRITE (R335). -/
  | elselWrite (a : GReg)
  /-- ELREAD_READ (R335). -/
  | elreadRead (d : GReg)
  /-- ROLLBACK (R341). -/
  | rollback (slice : Nat)
  /-- TWIN_RESOLVE (R344). -/
  | twinResolve (slice : Nat)
  /-- SPARE_WRITE (R345). -/
  | spareWrite (a : GReg)
  /-- SPARE_UM_COPY_DONE (R345). -/
  | spareUmCopyDone (die cluster : Nat)
  /-- EINJC_INJECT (R346). -/
  | einjcInject (a : GReg)
  /-- SEEDED_INJECT_STEP (R347). -/
  | seededInjectStep (world die : Nat)
  /-- XCTL_WRITE (R347). -/
  | xctlWrite (a : GReg)
  /-- PARTITION (R353). -/
  | partition
  /-- SETTINGS (R354). -/
  | settings
  /-- PAGEFREE (R353). -/
  | pagefree
  /-- TEARDOWN (R355). -/
  | teardown
  /-- DBGCHAL (R368). -/
  | dbgchal
  /-- DBGUNLOCK (R368). -/
  | dbgunlock
  /-- IMAGE (R327). -/
  | image
  /-- MAILBOX_GO_CLEAR (R372). -/
  | mailboxGoClear
  /-- LOCK_INTERFACE_REQUEST (R350). -/
  | lockInterfaceRequest (world : Nat)
  /-- TDISP_ERROR (R355). -/
  | tdispError (world : Nat)
  /-- IDE_KM (R351). -/
  | ideKm (world : Nat)
  /-- SPDM_GET_MEASUREMENTS (R358). -/
  | spdmGetMeasurements (world index : Nat)
  /-- SPDM_REQUEST (R356): the request code, and 256 times its first parameter, which names a certificate slot. -/
  | spdmRequest (world version code : Nat)
  /-- KEY_WRAP (R361). -/
  | keyWrap (world : Nat) (record : List (BitVec 8))
  /-- KEY_REGISTRATION (R362). -/
  | keyRegistration (world : Nat) (record : List (BitVec 8))
  /-- FPROG_GO (R364). -/
  | fprogGo (v b : GReg) (i : BitVec 14)
  /-- FUSE_PROGRAM_DONE (R365). -/
  | fuseProgramDone (ok : Bool)
  /-- RSACMD_GO (R365). -/
  | rsacmdGo (v b : GReg) (i : BitVec 14)
  /-- RSA_VERIFY_DONE (R365). -/
  | rsaVerifyDone
  /-- WTEAR_GO (R365). -/
  | wtearGo (v b : GReg) (i : BitVec 14)
  /-- TEARDOWN_DONE (R355). -/
  | teardownDone (world : Nat)
  /-- KZERO_GO (R365). -/
  | kzeroGo (v b : GReg) (i : BitVec 14)
  /-- ZEROISE_DONE (R365). -/
  | zeroiseDone
  /-- MCMD_GO (R357). -/
  | mcmdGo (v b : GReg) (i : BitVec 14)
  /-- DBGCTL_OPEN (R366). -/
  | dbgctlOpen (v b : GReg) (i : BitVec 14)
  /-- DEBUG_STOP (R369). -/
  | debugStop (ctx : Nat)
  /-- FLIT_RECEIVE (R374): at fabric link l of die d, by 8 d + l. -/
  | flitReceive (port world : Nat) (ok : Bool) (payload : Flit)
  /-- TIME_EXCHANGE (R375). -/
  | timeExchange (forward : Bool)
  /-- MESSAGE_ARRIVAL (R379). -/
  | messageArrival (id : Nat)
  /-- MESSAGE_RETRY (R379). -/
  | messageRetry (id : Nat)
  /-- MESSAGE_REPLY (R379). -/
  | messageReply (id : Nat)
  /-- RTBASE_WRITE (R377). -/
  | rtbaseWrite (a : GReg)
  /-- RTLEN_WRITE (R377). -/
  | rtlenWrite (a : GReg)
  /-- VCFG_INSTALL (R386). -/
  | vcfgInstall (a : GReg) (v : BitVec 2)
  /-- VCFG_CLEAR (R386). -/
  | vcfgClear (a : GReg) (v : BitVec 2)
  /-- HEARTBEAT_SEND (R387). -/
  | heartbeatSend (world die slot : Nat)
  /-- HEARTBEAT_TIMEOUT (R387). -/
  | heartbeatTimeout (world die slot : Nat)
  /-- PROPOSE (R387). -/
  | propose (world die slot tag : Nat) (members : List Nat) (join : Bool)
  /-- PROPOSE_REPLY_TIMEOUT (R387). -/
  | proposeReplyTimeout (world die slot member : Nat)
  /-- COMMIT (R387). -/
  | commit (world die slot tag : Nat) (members : List Nat)
  /-- JOIN_REQ (R389). -/
  | joinReq (world die slot member : Nat)
  /-- JOIN_ACK (R389). -/
  | joinAck (world die slot member : Nat)
  /-- COLLECTIVE_PACKET (R388). -/
  | collectivePacket (world die slot tag member n : Nat) (desc data : List (BitVec 64))
  /-- COLLECTIVE_END (R393). -/
  | collectiveEnd (world die slot n : Nat)
  /-- SWITCH_ATTEST (R390). -/
  | switchAttest (world die slot switch : Nat)
  /-- SWITCH_LEAVES_DOMAIN (R390). -/
  | switchLeavesDomain (world die slot switch : Nat)
  /-- GANG_JOIN_REPORT (R397). -/
  | gangJoinReport (slice pkg : Nat)
  /-- JOIN_WINDOW_EXPIRE (R397). -/
  | joinWindowExpire (slice : Nat)
  /-- RECV_LIMIT_EXPIRY (R382). -/
  | recvLimitExpiry (ctx : Nat)
  /-- TSTART_REACHED (R397). -/
  | tstartReached (slice : Nat)
  /-- TDISP_RUN (R350). -/
  | tdispRun (world : Nat)
  /-- RAIL_BELOW_10_PERCENT (R322). -/
  | railBelow10Percent (rail : Nat)
  /-- POWER_FAILURE (R364). -/
  | powerFailure
  deriving DecidableEq, Repr

end Sys2Proof
end

