-- ==== Sys2Proof/Decode.lean ====
section
/-!
DEFINITION. The encodings of spec 02: the decoder, total on every word and on every list of bytes, which rejects
by name (R28 to R36, R44, R46), the form checks that a decoded instruction may still fail (reserved type codes,
types not accepted, scopes: R37 to R39), and the encoder, written from the same strips.
-/
namespace Sys2Proof

/-- A trap cause (class and index, R163). -/
abbrev Cause := BitVec 9

/-- Why a word is not an instruction, in the order of R46. The checks that depend on the context (0x006, 0x007,
0x00E, 0x00F) come between them and are made when the word is run. -/
inductive DecodeError where
  /-- Cause 0x001: major 0x00. -/
  | majorZero
  /-- Cause 0x002: a reserved major (R27). -/
  | reservedMajor
  /-- Cause 0x00D: major 0x30 with class 6 or 7. -/
  | reservedClass
  /-- Cause 0x003: a reserved selector or sub-code. -/
  | reservedCode
  /-- Cause 0x005: L = 1 without a long form, or L = 0 on major 0x14. -/
  | badLong
  /-- Cause 0x004: the word is this instruction but for a nonzero field that must be zero. -/
  | mustBeZero (i : Instr)
  /-- Fewer bytes than the instruction has (no cause: the fetch reads on). -/
  | truncated
  deriving DecidableEq, Repr

/-- Bits lo to lo + len - 1 of a word. -/
def fld (w : Word32) (lo len : Nat) : BitVec len := w.extractLsb' lo len

/-- The major opcode, bits 30:25 (R26). -/
def majorOf (w : Word32) : BitVec 6 := fld w 25 6

/-- An instruction without a long form: `mask` holds the bits that must be zero (R28, R35). -/
def shortForm (w mask : Word32) (i : Instr) : Except DecodeError Instr :=
  if fld w 31 1 = 1#1 then .error .badLong
  else if w &&& mask = 0#32 then .ok i else .error (.mustBeZero i)

/-- An instruction with a short and a long form (R26, R36). -/
def bothForms (w sMask lMask : Word32) (i l : Instr) : Except DecodeError Instr :=
  if fld w 31 1 = 1#1 then
    if w &&& lMask = 0#32 then .ok l else .error (.mustBeZero l)
  else if w &&& sMask = 0#32 then .ok i else .error (.mustBeZero i)

/-- The functions of major 0x01 (R30). -/
def decodeBR (w : Word32) : Except DecodeError Instr :=
  let d := fld w 21 4; let a := fld w 17 4; let b := fld w 13 4
  let r := shortForm w 0x000000FF#32
  match (fld w 8 5).toNat with
  | 0 => r (.add d a b) | 1 => r (.sub d a b) | 2 => r (.and d a b) | 3 => r (.or d a b)
  | 4 => r (.xor d a b) | 5 => r (.shl d a b) | 6 => r (.shr d a b) | 7 => r (.sar d a b)
  | 8 => r (.mul d a b) | 9 => r (.mulh d a b) | 10 => r (.mulhz d a b) | 11 => r (.div d a b)
  | 12 => r (.divz d a b) | 13 => r (.rem d a b) | 14 => r (.remz d a b) | 15 => r (.slt d a b)
  | 16 => r (.sltz d a b)
  | _ => .error .reservedCode

/-- The shifts of major 0x06 (R29, R30). -/
def decodeShiftI (w : Word32) : Except DecodeError Instr :=
  let d := fld w 21 4; let a := fld w 17 4; let n := fld w 0 6
  let r := shortForm w 0x0001FF00#32
  match (fld w 6 2).toNat with
  | 0 => r (.shli d a n) | 1 => r (.shri d a n) | 2 => r (.sari d a n)
  | _ => .error .reservedCode

/-- The loads of major 0x0A (R30). -/
def decodeLoad (w : Word32) : Except DecodeError Instr :=
  let d := fld w 21 4; let b := fld w 17 4; let i := fld w 0 14
  let r := shortForm w 0#32
  match (fld w 14 3).toNat with
  | 0 => r (.ld8s d b i) | 1 => r (.ld8z d b i) | 2 => r (.ld16s d b i) | 3 => r (.ld16z d b i)
  | 4 => r (.ld32s d b i) | 5 => r (.ld32z d b i) | 6 => r (.ld64 d b i)
  | _ => .error .reservedCode

/-- The stores of major 0x0B (R30). -/
def decodeStore (w : Word32) : Except DecodeError Instr :=
  let v := fld w 21 4; let b := fld w 17 4; let i := fld w 0 14
  let r := shortForm w 0#32
  match (fld w 14 3).toNat with
  | 0 => r (.st8 v b i) | 2 => r (.st16 v b i) | 4 => r (.st32 v b i) | 6 => r (.st64 v b i)
  | _ => .error .reservedCode

/-- The branches of major 0x0C (R30). -/
def decodeBranch (w : Word32) : Except DecodeError Instr :=
  let a := fld w 21 4; let b := fld w 17 4; let o := fld w 0 14
  let r := shortForm w 0#32
  match (fld w 14 3).toNat with
  | 0 => r (.beq a b o) | 1 => r (.bne a b o) | 2 => r (.blt a b o) | 3 => r (.bge a b o)
  | 4 => r (.bbl a b o) | 5 => r (.bae a b o)
  | _ => .error .reservedCode

/-- The `sys` functions (R31). -/
def decodeSys (w : Word32) : Except DecodeError Instr :=
  let d := fld w 21 4; let a := fld w 17 4
  match (fld w 0 12).toNat with
  | 1 => shortForm w 0#32 (.sysCtrd d a)
  | 2 => shortForm w 0#32 (.sysEntropy d a)
  | 3 => shortForm w 0#32 (.sysWfi d a)
  | 4 => shortForm w 0x01FE0000#32 .sysCret
  | _ => .error .reservedCode

/-- The functions of major 0x0F (R30). -/
def decodeBS (w : Word32) : Except DecodeError Instr :=
  match (fld w 12 5).toNat with
  | 0 => decodeSys w
  | 1 => shortForm w 0x001E0000#32 (.getx (fld w 21 4) (fld w 0 12))
  | 2 => shortForm w 0x01E00000#32 (.putx (fld w 17 4) (fld w 0 12))
  | 3 => shortForm w 0x01FE0FFF#32 .ordr
  | 4 => shortForm w 0x01FE0FFF#32 .halt
  | 5 => shortForm w 0x01FE0000#32 (.brk (fld w 0 12))
  | _ => .error .reservedCode

/-- Major 0x10: scalar functions (R34). -/
def decode10 (w : Word32) : Except DecodeError Instr :=
  let d := fld w 20 5; let a := fld w 15 5; let b := fld w 10 5
  let r2 := shortForm w 0x00007C00#32
  let r3 := shortForm w 0#32
  match (fld w 0 10).toNat with
  | 0 => r2 (.clz d a) | 1 => r2 (.ctz d a) | 2 => r2 (.popc d a) | 3 => r2 (.bitrev d a)
  | 4 => r2 (.bswap d a) | 5 => r3 (.sel d a b) | 6 => r3 (.mkva d a b) | 7 => r2 (.dieof d a)
  | 8 => r3 (.addva d a b)
  | _ => .error .reservedCode

/-- Major 0x11: bit fields (R35). -/
def decode11 (w : Word32) : Except DecodeError Instr :=
  let d := fld w 20 5; let a := fld w 15 5; let p := fld w 6 6; let l := fld w 0 6
  shortForm w 0x00003000#32 (if fld w 14 1 = 0#1 then .bfx d a p l else .bfi d a p l)

/-- Major 0x13: `callr` and `ret` (R35). -/
def decode13 (w : Word32) : Except DecodeError Instr :=
  match (fld w 0 10).toNat with
  | 0 => shortForm w 0x00007C00#32 (.callr (fld w 20 5) (fld w 15 5))
  | 1 => shortForm w 0x01FFFC00#32 .ret
  | _ => .error .reservedCode

/-- Major 0x14: `ldk`, which has only a long form (R33, R35). -/
def decode14 (w imm : Word32) : Except DecodeError Instr :=
  let d := fld w 20 5
  let r (i : Instr) : Except DecodeError Instr :=
    if fld w 31 1 = 0#1 then .error .badLong
    else if w &&& 0x000F9FFF#32 = 0#32 then .ok i else .error (.mustBeZero i)
  match (fld w 13 2).toNat with
  | 0 => r (.ldk d imm) | 1 => r (.ldkZ d imm) | 2 => r (.ldkHi d imm)
  | _ => .error .reservedCode

/-- Major 0x15: bit access (R35). -/
def decode15 (w : Word32) : Except DecodeError Instr :=
  match (fld w 13 2).toNat with
  | 0 => shortForm w 0x01F01FFF#32 (.setba (fld w 15 5))
  | 1 => shortForm w 0x000F8FE0#32 (.ldbits (fld w 20 5) (fld w 12 1) (fld w 0 5))
  | 2 => shortForm w 0x01F01FE0#32 (.stbits (fld w 15 5) (fld w 0 5))
  | _ => .error .reservedCode

/-- Major 0x16: waits, counters and helpers (R34, R35). -/
def decode16 (w : Word32) : Except DecodeError Instr :=
  let d := fld w 20 5; let a := fld w 15 5; let b := fld w 10 5
  match (fld w 0 9).toNat with
  | 0 => shortForm w 0#32 (.waitc (fld w 21 4) (fld w 17 4) (fld w 13 4) (fld w 9 4))
  | 1 => shortForm w 0x000E7E00#32 (.rdctr d (fld w 15 2))
  | 2 => shortForm w 0x00000200#32 (.hstart d a b)
  | 3 => shortForm w 0x00007E00#32 (.hjoin d a)
  | 4 => shortForm w 0x01F07E00#32 (.hquit a)
  | 5 => shortForm w 0x00007E00#32 (.hstat d a)
  | _ => .error .reservedCode

/-- Major 0x17: traps and supervision (R34). -/
def decode17 (w : Word32) : Except DecodeError Instr :=
  let d := fld w 20 5; let a := fld w 15 5; let b := fld w 10 5
  match (fld w 0 10).toNat with
  | 0 => shortForm w 0x01F07C00#32 (.trap a)
  | 1 => shortForm w 0x01FFFC00#32 .eret
  | 2 => shortForm w 0x000FFC00#32 (.yield d)
  | 3 => shortForm w 0x00007C00#32 (.query d a)
  | 4 => shortForm w 0x000FFC00#32 (.pend d)
  | 5 => shortForm w 0x00007C00#32 (.xlat d a)
  | 6 => shortForm w 0x01F00000#32 (.iinv a b)
  | 7 => shortForm w 0x01F00000#32 (.iprf a b)
  | 8 => shortForm w 0x01F07C00#32 (.sdone a)
  | _ => .error .reservedCode

/-- Major 0x18: scalar atomics (R35). -/
def decode18 (w : Word32) : Except DecodeError Instr :=
  let d := fld w 20 5; let a := fld w 15 5; let b := fld w 10 5
  let o := fld w 4 3; let wd := fld w 3 1; let r := fld w 0 3
  match (fld w 7 3).toNat with
  | 0 => if o = 7#3 then .error .reservedCode else shortForm w 0#32 (.amo d a b o wd r)
  | 1 => shortForm w 0x00000070#32 (.cas d a b wd r)
  | 2 => shortForm w 0x00007C77#32 (.ldsc d a wd)
  | 3 => shortForm w 0x01F00077#32 (.stsc a b wd)
  | 4 => if o = 7#3 then .error .reservedCode else shortForm w 0x00000007#32 (.amosc d a b o wd)
  | _ => .error .reservedCode

/-- Major 0x19: barriers and publication (R35). `publish` has no group: a nonzero field there is a field that must be zero (R204,
cause 0x004), not a group outside R39 (cause 0x00B). DESIGN CHOICE (log 101). -/
def decode19 (w : Word32) : Except DecodeError Instr :=
  let d := fld w 20 5; let a := fld w 15 5; let s := fld w 12 3; let g := fld w 8 4
  match (fld w 0 4).toNat with
  | 0 => shortForm w 0x000F8070#32 (.arrive d s g (fld w 7 1))
  | 1 => shortForm w 0x000F80F0#32 (.wait d s g)
  | 2 => shortForm w 0x01FF8FF0#32 (.publish s)
  | 3 => shortForm w 0x000000F0#32 (.bmask d a s g)
  | 4 => shortForm w 0x000000F0#32 (.bstep d a s g)
  | _ => .error .reservedCode

/-- Major 0x1A: futures (R35). -/
def decode1A (w : Word32) : Except DecodeError Instr :=
  let d := fld w 20 5; let a := fld w 15 5
  match (fld w 0 8).toNat with
  | 0 => shortForm w 0x00007F00#32 (.ffill d a)
  | 1 => shortForm w 0x00007F00#32 (.fwait d a)
  | 2 => shortForm w 0x00007F00#32 (.fpoll d a)
  | _ => .error .reservedCode

/-- Major 0x1B: messages (R35). -/
def decode1B (w : Word32) : Except DecodeError Instr :=
  let d := fld w 20 5; let a := fld w 15 5; let b := fld w 10 5
  match (fld w 0 2).toNat with
  | 0 => shortForm w 0x000003E0#32 (.send d a b (fld w 2 3))
  | 1 => shortForm w 0x000003FC#32 (.recv d a b)
  | 2 => shortForm w 0x000003FC#32 (.rankset d a b)
  | _ => shortForm w 0x000003FC#32 (.rankmv d a b)

/-- Major 0x1C: collectives and views (R35). -/
def decode1C (w : Word32) : Except DecodeError Instr :=
  let d := fld w 20 5; let a := fld w 15 5
  match (fld w 0 2).toNat with
  | 0 => shortForm w 0x00007FFC#32 (.coll d a)
  | 1 => shortForm w 0x00007FFC#32 (.cwait d a)
  | 2 => shortForm w 0x00007FFC#32 (.view d a)
  | _ => shortForm w 0x00007FFC#32 (.vack d a)

/-- Major 0x20: plane arithmetic (R34, R36). -/
def decode20 (w imm : Word32) : Except DecodeError Instr :=
  let d := fld w 21 4; let a := fld w 17 4; let b := fld w 13 4
  let k := fld w 10 3; let r := fld w 8 2; let t := fld w 4 4
  let both := bothForms w 0#32 0x0001E000#32
  match (fld w 0 4).toNat with
  | 0 => both (.vadd d a b k r t) (.vaddImm d a k r t imm)
  | 1 => both (.vsub d a b k r t) (.vsubImm d a k r t imm)
  | 2 => both (.vmul d a b k r t) (.vmulImm d a k r t imm)
  | 3 => both (.vmulh d a b k r t) (.vmulhImm d a k r t imm)
  | 4 => shortForm w 0#32 (.vfma d a b k r t)
  | 5 => both (.vmin d a b k r t) (.vminImm d a k r t imm)
  | 6 => both (.vmax d a b k r t) (.vmaxImm d a k r t imm)
  | 7 => shortForm w 0x0001E000#32 (.vabs d a k r t)
  | 8 => shortForm w 0x0001E000#32 (.vneg d a k r t)
  | 9 => both (.vdiv d a b k r t) (.vdivImm d a k r t imm)
  | 10 => shortForm w 0x0001E000#32 (.vsqrt d a k r t)
  | _ => .error .reservedCode

/-- Major 0x21: plane logic and shifts (R34, R36, R38: rnd must be zero). -/
def decode21 (w imm : Word32) : Except DecodeError Instr :=
  let d := fld w 21 4; let a := fld w 17 4; let b := fld w 13 4; let k := fld w 10 3; let t := fld w 4 4
  let both := bothForms w 0x00000300#32 0x0001E300#32
  match (fld w 0 4).toNat with
  | 0 => both (.vand d a b k t) (.vandImm d a k t imm)
  | 1 => both (.vor d a b k t) (.vorImm d a k t imm)
  | 2 => both (.vxor d a b k t) (.vxorImm d a k t imm)
  | 3 => both (.vshl d a b k t) (.vshlImm d a k t imm)
  | 4 => both (.vshr d a b k t) (.vshrImm d a k t imm)
  | 5 => both (.vsar d a b k t) (.vsarImm d a k t imm)
  | 6 => shortForm w 0x0001E300#32 (.vpopc d a k t)
  | 7 => shortForm w 0x0001E300#32 (.vclz d a k t)
  | _ => .error .reservedCode

/-- The `vcmp` conditions that are not reserved (R35, R46): 7 never, 6 only on a float type code. -/
def vcmpCodeOk (h : BitVec 1) (c : BitVec 2) (t : BitVec 4) : Bool :=
  let q := h ++ c
  if q = 7#3 then false else if q = 6#3 then t = 0#4 || t = 3#4 || t = 4#4 else true

/-- Major 0x22: comparison, selection and movement (R34, R35, R36). -/
def decode22 (w imm : Word32) : Except DecodeError Instr :=
  let d := fld w 21 4; let a := fld w 17 4; let b := fld w 13 4
  let k := fld w 10 3; let r := fld w 8 2; let t := fld w 4 4
  match (fld w 0 4).toNat with
  | 0 =>
    if vcmpCodeOk (fld w 24 1) r t then
      bothForms w 0#32 0x0001E000#32 (.vcmp (fld w 24 1) (fld w 21 3) a b k r t)
        (.vcmpImm (fld w 24 1) (fld w 21 3) a k r t imm)
    else .error .reservedCode
  | 1 => shortForm w 0x00000300#32 (.vsel d a b k t)
  | 2 => bothForms w 0x0000E300#32 0x001FE300#32 (.vbcast d (fld w 16 5) k t) (.vbcastImm d k t imm)
  | 3 => shortForm w 0x001FE300#32 (.vidx d k t)
  | 4 =>
    if 6 ≤ (fld w 13 3).toNat then .error .reservedCode
    else shortForm w 0#32 (.vred d a (fld w 16 1) (fld w 13 3) k r t)
  | 5 =>
    if 6 ≤ (fld w 13 3).toNat then .error .reservedCode
    else shortForm w 0#32 (.vscan d a (fld w 16 1) (fld w 13 3) k r t)
  | 6 => shortForm w 0x0001E300#32 (.vtrans d a k t)
  | 7 => shortForm w 0x00000300#32 (.vperm d a b k t)
  | _ => .error .reservedCode

/-- Major 0x23: conversion (R35). -/
def decode23 (w : Word32) : Except DecodeError Instr :=
  let d := fld w 21 4; let a := fld w 17 4; let f := fld w 13 4
  let k := fld w 10 3; let r := fld w 8 2; let t := fld w 4 4; let g := fld w 0 1
  if fld w 2 2 = 0#2 then
    shortForm w 0#32 (if fld w 1 1 = 0#1 then .vcvtTo d a f k r t g else .vcvtFrom d a f k r t g)
  else .error .reservedCode

/-- Major 0x24: shapes and masks (R33, R35). -/
def decode24 (w : Word32) : Except DecodeError Instr :=
  let s := fld w 20 5; let d := fld w 20 3; let a := fld w 15 3; let b := fld w 10 3
  match (fld w 0 10).toNat with
  | 0 => shortForm w 0#32 (.shape s (fld w 15 5) (fld w 10 5))
  | 1 => shortForm w 0x000FFC00#32 (.shapeq s)
  | 2 => shortForm w 0x018C6000#32 (.kand d a b)
  | 3 => shortForm w 0x018C6000#32 (.kor d a b)
  | 4 => shortForm w 0x018C6000#32 (.kxor d a b)
  | 5 => shortForm w 0x018C7C00#32 (.knot d a)
  | 6 => shortForm w 0x018C7C00#32 (.kedge d a)
  | 7 => shortForm w 0x000C7C00#32 (.kpop s a)
  | _ => .error .reservedCode

/-- Major 0x25: plane memory (R35). -/
def decode25 (w : Word32) : Except DecodeError Instr :=
  let p := fld w 21 4; let b := fld w 16 5; let s := fld w 11 5; let i := fld w 11 4
  let k := fld w 8 3; let t := fld w 4 4
  match (fld w 0 4).toNat with
  | 0 => shortForm w 0#32 (.vld p b s k t)
  | 1 => shortForm w 0#32 (.vst p b s k t)
  | 2 => shortForm w 0x00008000#32 (.vldi p b i k t)
  | 3 => shortForm w 0x00008000#32 (.vsti p b i k t)
  | 4 => shortForm w 0x001F0000#32 (.vldb p s k t)
  | 5 => shortForm w 0x001F0000#32 (.vstb p s k t)
  | _ => .error .reservedCode

/-- Major 0x26: vector atomics (R35, R142: k must be zero). -/
def decode26 (w : Word32) : Except DecodeError Instr :=
  let p := fld w 21 4; let b := fld w 16 5; let i := fld w 11 4; let t := fld w 4 4; let o := fld w 0 3
  if fld w 3 1 = 0#1 then
    if o = 7#3 then .error .reservedCode else shortForm w 0x00008700#32 (.vamo p b i t o)
  else if 6 ≤ o.toNat then .error .reservedCode
  else shortForm w 0x00008700#32 (.vrst p b i t o)

/-- Major 0x30: engine instructions (R34). The four functions of `tdef` share one word, and so do the two of `ttype`:
the word decodes to the first, whose meaning is chosen by the operand word s[a] (R219, R240). -/
def decode30 (w : Word32) : Except DecodeError Instr :=
  let d := fld w 20 5; let a := fld w 15 5; let b := fld w 10 5
  let r3 := shortForm w 0#32
  let r2 := shortForm w 0x00007C00#32
  match (fld w 7 3).toNat, (fld w 0 7).toNat with
  | 0, 0 => r3 (.tdefDefine d a b) | 0, 1 => r3 (.ttypeDefine d a b) | 0, 2 => r3 (.force d a b)
  | 0, 3 => r2 (.tdrop d a) | 0, 4 => r2 (.sidq d a)
  | 1, 0 => r3 (.tmul d a b)
  | 2, 0 => r3 (.tew d a b) | 2, 1 => r3 (.tred d a b) | 2, 2 => r3 (.tcvt d a b)
  | 3, 0 => r3 (.tmove d a b)
  | 4, 0 => r3 (.tgather d a b)
  | 5, 0 => r2 (.tenq d a)
  | 6, _ => .error .reservedClass
  | 7, _ => .error .reservedClass
  | _, _ => .error .reservedCode

/-- The instruction that a first word and, in a long form, its second word make (R26 to R36). `imm` is read only when
`longForm w`. -/
def decode (w imm : Word32) : Except DecodeError Instr :=
  let d := fld w 21 4; let a := fld w 17 4; let i17 := fld w 0 17
  match (majorOf w).toNat with
  | 0x00 => .error .majorZero
  | 0x01 => decodeBR w
  | 0x02 => shortForm w 0#32 (.addi d a i17)
  | 0x03 => shortForm w 0#32 (.andi d a i17)
  | 0x04 => shortForm w 0#32 (.ori d a i17)
  | 0x05 => shortForm w 0#32 (.xori d a i17)
  | 0x06 => decodeShiftI w
  | 0x07 => shortForm w 0#32 (.slti d a i17)
  | 0x08 => shortForm w 0#32 (.sltzi d a i17)
  | 0x09 => shortForm w 0#32 (.liu d (fld w 0 21))
  | 0x0A => decodeLoad w
  | 0x0B => decodeStore w
  | 0x0C => decodeBranch w
  | 0x0D => shortForm w 0#32 (.jal d (fld w 0 21))
  | 0x0E => shortForm w 0#32 (.jalr d a i17)
  | 0x0F => decodeBS w
  | 0x10 => decode10 w
  | 0x11 => decode11 w
  | 0x12 => bothForms w 0#32 0x000FFFFF#32 (.call (fld w 20 5) (fld w 0 20)) (.callFar (fld w 20 5) imm)
  | 0x13 => decode13 w
  | 0x14 => decode14 w imm
  | 0x15 => decode15 w
  | 0x16 => decode16 w
  | 0x17 => decode17 w
  | 0x18 => decode18 w
  | 0x19 => decode19 w
  | 0x1A => decode1A w
  | 0x1B => decode1B w
  | 0x1C => decode1C w
  | 0x20 => decode20 w imm
  | 0x21 => decode21 w imm
  | 0x22 => decode22 w imm
  | 0x23 => decode23 w
  | 0x24 => decode24 w
  | 0x25 => decode25 w
  | 0x26 => decode26 w
  | 0x30 => decode30 w
  | _ => .error .reservedMajor

/-- L = 1 on a word whose major and selector have a long form: the second word is fetched (R26, R46). Under a reserved sub-code
(an `ldk` placement 3, a `vcmp` condition 6 or 7) no second word is fetched before cause 0x003. DESIGN CHOICE (log 102). -/
def longForm (w : Word32) : Bool :=
  let f := (fld w 0 4).toNat
  fld w 31 1 = 1#1 &&
    match (majorOf w).toNat with
    | 0x12 => true
    | 0x14 => fld w 13 2 ≠ 3#2
    | 0x20 => f ≤ 9 && !(f = 4 || f = 7 || f = 8)
    | 0x21 => f ≤ 5
    | 0x22 => (f = 0 && vcmpCodeOk (fld w 24 1) (fld w 8 2) (fld w 4 4)) || f = 2
    | _ => false

/-- The cause of a decode error, when no check that depends on the context comes before it (R44). -/
def DecodeError.causeOf : DecodeError → Cause
  | .majorZero => 0x001#9
  | .reservedMajor => 0x002#9
  | .reservedClass => 0x00D#9
  | .reservedCode => 0x003#9
  | .badLong => 0x005#9
  | .mustBeZero _ => 0x004#9
  | .truncated => 0x000#9

/-! ## Bytes and words -/

/-- Four bytes, lowest address first, as one word (R4, R26: little-endian). -/
def wordOfBytes (b0 b1 b2 b3 : Byte) : Word32 := b3 ++ b2 ++ b1 ++ b0

/-- The four bytes of a word, lowest address first. -/
def bytesOfWord (w : Word32) : List Byte :=
  [w.extractLsb' 0 8, w.extractLsb' 8 8, w.extractLsb' 16 8, w.extractLsb' 24 8]

/-- One instruction from the front of a byte string, and the rest. -/
def decodeBytes : List Byte → Except DecodeError (Instr × List Byte)
  | b0 :: b1 :: b2 :: b3 :: rest =>
    let w := wordOfBytes b0 b1 b2 b3
    if longForm w then
      match rest with
      | c0 :: c1 :: c2 :: c3 :: rest' => (decode w (wordOfBytes c0 c1 c2 c3)).map (fun i => (i, rest'))
      | _ => .error .truncated
    else (decode w 0#32).map (fun i => (i, rest))
  | _ => .error .truncated

/-- The instruction whose first word is bits 31:0 and second word bits 63:32 of `w`; the table gives a row at most 32
bits, and the bits above are zero. -/
def decodeTableWord (nbits w : Nat) : Option Instr :=
  let v := w % 2 ^ nbits
  match decodeBytes (bytesOfWord (BitVec.ofNat 32 v) ++ bytesOfWord (BitVec.ofNat 32 (v / 2 ^ 32))) with
  | .ok (i, _) => some i
  | .error _ => none

/-! ## Form checks on a decoded instruction -/

/-- The plane type codes of R37 as a bit set: F32 0, I32 1, N32 2, F16 3, W16 4, I16 5, M8 6. -/
def typeIn (t : BitVec 4) (set : BitVec 7) : Bool := set.getLsbD t.toNat

/-- 0x009 for a reserved type code, 0x00A for one not accepted (R44, R46). -/
def typeCause (t : BitVec 4) (set : BitVec 7) : Option Cause :=
  if 7 ≤ t.toNat then some 0x009#9 else if typeIn t set then none else some 0x00A#9

/-- A rounding field that must be zero (R38). -/
def rndCause (r : BitVec 2) (t : BitVec 4) : Option Cause :=
  if r = 0#2 || t = 0#4 || t = 3#4 || t = 4#4 then none else some 0x004#9

/-- In a long form with type M8, imm32 bits 31:25 must be zero (R36). -/
def immCause (t : BitVec 4) (imm : Word32) : Option Cause :=
  if t = 6#4 && imm.extractLsb' 25 7 ≠ 0#7 then some 0x004#9 else none

/-- R37: and, or and xor accept I32 and N32 only, the other operators F32 too. -/
def opTypes (o : BitVec 3) : BitVec 7 := if 3 ≤ o.toNat ∧ o.toNat ≤ 5 then 0b0000110#7 else 0b0000111#7

/-- R39: scopes 1 to 3; groups 0 to 3 at cluster. -/
def groupCause (s : BitVec 3) (g : BitVec 4) : Option Cause :=
  if s = 1#3 then (if g.toNat < 4 then none else some 0x00B#9)
  else if s = 2#3 || s = 3#3 then none else some 0x00B#9

/-- R132: no conversion between a pair type and F64, F32, W24 or M8. -/
def cvtCause (t : BitVec 4) (f : BitVec 5) : Option Cause :=
  if 7 ≤ t.toNat ∨ 20 ≤ f.toNat then some 0x009#9
  else if (t = 3#4 || t = 4#4 || t = 5#4) && (f = 0#5 || f = 1#5 || f = 2#5 || f = 13#5) then some 0x00A#9
  else none

/-- R38: the rounding field of `vred` and `vscan`. -/
def redRnd (o : BitVec 3) (r : BitVec 2) (t : BitVec 4) : Option Cause :=
  if r = 0#2 || (t = 0#4 && o = 0#3) then none else some 0x004#9

/-- R35: the operator codes of `vred`, `vscan` and `vrst`. -/
def opCause (o : BitVec 3) (bound : Nat) : Option Cause := if o.toNat < bound then none else some 0x003#9

/-- The first of the causes 0x003, 0x004, 0x009, 0x00A and 0x00B that the operand fields of an instruction raise
(R44, R46). None: the instruction is well formed. -/
def formCause : Instr → Option Cause
  | .amo _ _ _ o _ _ | .amosc _ _ _ o _ => opCause o 7
  | .arrive _ s g _ | .wait _ s g | .bmask _ _ s g | .bstep _ _ s g => groupCause s g
  | .publish s => if 1 ≤ s.toNat ∧ s.toNat ≤ 5 then none else some 0x00B#9
  | .vadd _ _ _ _ r t | .vsub _ _ _ _ r t | .vmul _ _ _ _ r t => rndCause r t <|> typeCause t 0b1111111#7
  | .vmulh _ _ _ _ r t => rndCause r t <|> typeCause t 0b0100110#7
  | .vfma _ _ _ _ r t => rndCause r t <|> typeCause t 0b0011001#7
  | .vmin _ _ _ _ r t | .vmax _ _ _ _ r t => rndCause r t <|> typeCause t 0b0111111#7
  | .vabs _ _ _ r t | .vneg _ _ _ r t => rndCause r t <|> typeCause t 0b0111011#7
  | .vdiv _ _ _ _ r t => rndCause r t <|> typeCause t 0b0000111#7
  | .vsqrt _ _ _ r t => rndCause r t <|> typeCause t 0b0000001#7
  | .vaddImm _ _ _ r t m | .vsubImm _ _ _ r t m | .vmulImm _ _ _ r t m =>
      rndCause r t <|> immCause t m <|> typeCause t 0b1111111#7
  | .vmulhImm _ _ _ r t m => rndCause r t <|> immCause t m <|> typeCause t 0b0100110#7
  | .vminImm _ _ _ r t m | .vmaxImm _ _ _ r t m => rndCause r t <|> immCause t m <|> typeCause t 0b0111111#7
  | .vdivImm _ _ _ r t m => rndCause r t <|> immCause t m <|> typeCause t 0b0000111#7
  | .vand _ _ _ _ t | .vor _ _ _ _ t | .vxor _ _ _ _ t => typeCause t 0b0000110#7
  | .vshl _ _ _ _ t | .vshr _ _ _ _ t | .vsar _ _ _ _ t | .vpopc _ _ _ t | .vclz _ _ _ t => typeCause t 0b0100110#7
  | .vandImm _ _ _ t m | .vorImm _ _ _ t m | .vxorImm _ _ _ t m => immCause t m <|> typeCause t 0b0000110#7
  | .vshlImm _ _ _ t m | .vshrImm _ _ _ t m | .vsarImm _ _ _ t m => immCause t m <|> typeCause t 0b0100110#7
  | .vcmp h _ _ _ _ c t => if vcmpCodeOk h c t then typeCause t 0b0111111#7 else some 0x003#9
  | .vcmpImm h _ _ _ c t m =>
      if vcmpCodeOk h c t then immCause t m <|> typeCause t 0b0111111#7 else some 0x003#9
  | .vsel _ _ _ _ t | .vbcast _ _ _ t | .vtrans _ _ _ t | .vperm _ _ _ _ t => typeCause t 0b1111111#7
  | .vbcastImm _ _ t m => immCause t m <|> typeCause t 0b1111111#7
  | .vidx _ _ t => typeCause t 0b0000110#7
  | .vred _ _ _ o _ r t | .vscan _ _ _ o _ r t => opCause o 6 <|> redRnd o r t <|> typeCause t (opTypes o)
  | .vcvtTo _ _ f _ _ t g | .vcvtFrom _ _ f _ _ t g => cvtCause t (g ++ f)
  | .vld _ _ _ _ t | .vst _ _ _ _ t | .vldi _ _ _ _ t | .vsti _ _ _ _ t => typeCause t 0b1111111#7
  | .vldb _ _ _ t | .vstb _ _ _ t => typeCause t 0b0000110#7
  | .vamo _ _ _ t o => opCause o 7 <|> typeCause t (opTypes o)
  | .vrst _ _ _ t o => opCause o 6 <|> typeCause t (opTypes o)
  | _ => none

/-! ## The encoder -/

/-- Format BR (R28). -/
def encBR (d a b : GReg) (f : BitVec 5) : Word32 := 0#1 ++ 0x01#6 ++ d ++ a ++ b ++ f ++ 0#8
/-- Format BI (R28). -/
def encBI (m : BitVec 6) (d a : GReg) (i : BitVec 17) : Word32 := 0#1 ++ m ++ d ++ a ++ i
/-- Format BU and BJ (R28). -/
def encBU (m : BitVec 6) (d : GReg) (i : BitVec 21) : Word32 := 0#1 ++ m ++ d ++ i
/-- Format BM and BB (R28). -/
def encBM (m : BitVec 6) (d b : GReg) (c : BitVec 3) (i : BitVec 14) : Word32 := 0#1 ++ m ++ d ++ b ++ c ++ i
/-- Format BS (R28). -/
def encBS (d a : GReg) (f : BitVec 5) (i : BitVec 12) : Word32 := 0#1 ++ 0x0F#6 ++ d ++ a ++ f ++ i
/-- Format NR (R32). -/
def encNR (m : BitVec 6) (d a b : SReg) (f : BitVec 10) : Word32 := 0#1 ++ m ++ d ++ a ++ b ++ f
/-- Format NI (R32). -/
def encNI (l : BitVec 1) (m : BitVec 6) (d a : SReg) (i : BitVec 15) : Word32 := l ++ m ++ d ++ a ++ i
/-- Format NC (R32). -/
def encNC (l : BitVec 1) (n : BitVec 5) (o : BitVec 20) : Word32 := l ++ 0x12#6 ++ n ++ o
/-- Format NP (R32). -/
def encNP (l : BitVec 1) (m : BitVec 6) (d a b : PReg) (k : KReg) (r : BitVec 2) (t f : BitVec 4) : Word32 :=
  l ++ m ++ d ++ a ++ b ++ k ++ r ++ t ++ f
/-- Format NM (R32). -/
def encNM (m : BitVec 6) (p : PReg) (b s : SReg) (k : KReg) (t f : BitVec 4) : Word32 :=
  0#1 ++ m ++ p ++ b ++ s ++ k ++ t ++ f
/-- Format NE (R32). -/
def encNE (d a b : SReg) (c : BitVec 3) (f : BitVec 7) : Word32 := 0#1 ++ 0x30#6 ++ d ++ a ++ b ++ c ++ f
/-- Format NS (R32). -/
def encNS (m : BitVec 6) (d a : SReg) (s : BitVec 3) (g : BitVec 4) (f : BitVec 8) : Word32 :=
  0#1 ++ m ++ d ++ a ++ s ++ g ++ f

/-- The system register numbers that a row of the table names by itself (spec 02 R42 and the chapters that give them). -/
def regUPFRAME : BitVec 12 := 0x008#12
def regTQCTL : BitVec 12 := 0x211#12
def regSPARE : BitVec 12 := 0x214#12
def regS1ROOT : BitVec 12 := 0x340#12
def regTINV : BitVec 12 := 0x341#12
def regPRQ1 : BitVec 12 := 0x342#12
def regPRQREPLY : BitVec 12 := 0x343#12
def regRDOOR : BitVec 12 := 0x345#12
def regELSEL : BitVec 12 := 0x346#12
def regELREAD : BitVec 12 := 0x347#12
def regEINJC : BitVec 12 := 0x34A#12
def regXCTL : BitVec 12 := 0x34D#12
def regRTBASE : BitVec 12 := 0x34E#12
def regRTLEN : BitVec 12 := 0x34F#12
def regCALIVE : BitVec 12 := 0x804#12
def regVCFG (v : BitVec 2) : BitVec 12 := 0x350#12 + (v.zeroExtend 12) * 2#12
def regCGATE (d : BitVec 2) : BitVec 12 := 0x820#12 + d.zeroExtend 12
def regLNCTL (l : BitVec 4) : BitVec 12 := 0x840#12 + l.zeroExtend 12
def regSCHCTL (n : BitVec 8) : BitVec 12 := 0x900#12 + 4#12 * n.zeroExtend 12
def regTRNCTL (n : BitVec 8) : BitVec 12 := 0x902#12 + 4#12 * n.zeroExtend 12

/-- The first word of an instruction. Rows of the table that name the same word as another row (a function of `tdef`, or
a write of one register) have that word. The rows without an encoding have none. -/
def encodeFirst : Instr → Option Word32
  | .add d a b => some (encBR d a b 0) | .sub d a b => some (encBR d a b 1)
  | .and d a b => some (encBR d a b 2) | .or d a b => some (encBR d a b 3)
  | .xor d a b => some (encBR d a b 4) | .shl d a b => some (encBR d a b 5)
  | .shr d a b => some (encBR d a b 6) | .sar d a b => some (encBR d a b 7)
  | .mul d a b => some (encBR d a b 8) | .mulh d a b => some (encBR d a b 9)
  | .mulhz d a b => some (encBR d a b 10) | .div d a b => some (encBR d a b 11)
  | .divz d a b => some (encBR d a b 12) | .rem d a b => some (encBR d a b 13)
  | .remz d a b => some (encBR d a b 14) | .slt d a b => some (encBR d a b 15)
  | .sltz d a b => some (encBR d a b 16)
  | .addi d a i => some (encBI 0x02 d a i) | .andi d a i => some (encBI 0x03 d a i)
  | .ori d a i => some (encBI 0x04 d a i) | .xori d a i => some (encBI 0x05 d a i)
  | .shli d a n => some (encBI 0x06 d a (0#9 ++ 0#2 ++ n))
  | .shri d a n => some (encBI 0x06 d a (0#9 ++ 1#2 ++ n))
  | .sari d a n => some (encBI 0x06 d a (0#9 ++ 2#2 ++ n))
  | .slti d a i => some (encBI 0x07 d a i) | .sltzi d a i => some (encBI 0x08 d a i)
  | .liu d i => some (encBU 0x09 d i)
  | .ld8s d b i => some (encBM 0x0A d b 0 i) | .ld8z d b i => some (encBM 0x0A d b 1 i)
  | .ld16s d b i => some (encBM 0x0A d b 2 i) | .ld16z d b i => some (encBM 0x0A d b 3 i)
  | .ld32s d b i => some (encBM 0x0A d b 4 i) | .ld32z d b i => some (encBM 0x0A d b 5 i)
  | .ld64 d b i => some (encBM 0x0A d b 6 i)
  | .st8 v b i => some (encBM 0x0B v b 0 i) | .st16 v b i => some (encBM 0x0B v b 2 i)
  | .st32 v b i => some (encBM 0x0B v b 4 i) | .st64 v b i => some (encBM 0x0B v b 6 i)
  | .beq a b o => some (encBM 0x0C a b 0 o) | .bne a b o => some (encBM 0x0C a b 1 o)
  | .blt a b o => some (encBM 0x0C a b 2 o) | .bge a b o => some (encBM 0x0C a b 3 o)
  | .bbl a b o => some (encBM 0x0C a b 4 o) | .bae a b o => some (encBM 0x0C a b 5 o)
  | .jal d o => some (encBU 0x0D d o) | .jalr d a i => some (encBI 0x0E d a i)
  | .sysCtrd d a => some (encBS d a 0 1) | .sysEntropy d a => some (encBS d a 0 2)
  | .sysWfi d a => some (encBS d a 0 3) | .sysCret => some (encBS 0 0 0 4)
  | .getx d r => some (encBS d 0 1 r) | .putx a r => some (encBS 0 a 2 r)
  | .ordr => some (encBS 0 0 3 0) | .halt => some (encBS 0 0 4 0) | .brk c => some (encBS 0 0 5 c)
  | .clz d a => some (encNR 0x10 d a 0 0) | .ctz d a => some (encNR 0x10 d a 0 1)
  | .popc d a => some (encNR 0x10 d a 0 2) | .bitrev d a => some (encNR 0x10 d a 0 3)
  | .bswap d a => some (encNR 0x10 d a 0 4) | .sel d a b => some (encNR 0x10 d a b 5)
  | .mkva d a b => some (encNR 0x10 d a b 6) | .dieof d a => some (encNR 0x10 d a 0 7)
  | .addva d a b => some (encNR 0x10 d a b 8)
  | .bfx d a p l => some (encNI 0 0x11 d a (0#1 ++ 0#2 ++ p ++ l))
  | .bfi d a p l => some (encNI 0 0x11 d a (1#1 ++ 0#2 ++ p ++ l))
  | .call n o => some (encNC 0 n o) | .callFar n _ => some (encNC 1 n 0)
  | .callr n a => some (encNR 0x13 n a 0 0) | .ret => some (encNR 0x13 0 0 0 1)
  | .ldk d _ => some (encNI 1 0x14 d 0 (0#2 ++ 0#13)) | .ldkZ d _ => some (encNI 1 0x14 d 0 (1#2 ++ 0#13))
  | .ldkHi d _ => some (encNI 1 0x14 d 0 (2#2 ++ 0#13))
  | .setba a => some (encNI 0 0x15 0 a (0#2 ++ 0#13))
  | .ldbits d s w => some (encNI 0 0x15 d 0 (1#2 ++ s ++ 0#7 ++ w))
  | .stbits a w => some (encNI 0 0x15 0 a (2#2 ++ 0#8 ++ w))
  | .waitc l s c t => some (0#1 ++ 0x16#6 ++ l ++ s ++ c ++ t ++ 0#9)
  | .rdctr d n => some (encNR 0x16 d (0#3 ++ n) 0 1) | .hstart d a b => some (encNR 0x16 d a b 2)
  | .hjoin d a => some (encNR 0x16 d a 0 3) | .hquit a => some (encNR 0x16 0 a 0 4)
  | .hstat d a => some (encNR 0x16 d a 0 5)
  | .trap a => some (encNR 0x17 0 a 0 0) | .eret => some (encNR 0x17 0 0 0 1)
  | .yield d => some (encNR 0x17 d 0 0 2) | .query d a => some (encNR 0x17 d a 0 3)
  | .pend d => some (encNR 0x17 d 0 0 4) | .xlat d a => some (encNR 0x17 d a 0 5)
  | .iinv a b => some (encNR 0x17 0 a b 6) | .iprf a b => some (encNR 0x17 0 a b 7)
  | .sdone a => some (encNR 0x17 0 a 0 8)
  | .amo d a b o w r => some (encNR 0x18 d a b (0#3 ++ o ++ w ++ r))
  | .cas d a b w r => some (encNR 0x18 d a b (1#3 ++ 0#3 ++ w ++ r))
  | .ldsc d a w => some (encNR 0x18 d a 0 (2#3 ++ 0#3 ++ w ++ 0#3))
  | .stsc a b w => some (encNR 0x18 0 a b (3#3 ++ 0#3 ++ w ++ 0#3))
  | .amosc d a b o w => some (encNR 0x18 d a b (4#3 ++ o ++ w ++ 0#3))
  | .arrive d s g x => some (encNS 0x19 d 0 s g (x ++ 0#7)) | .wait d s g => some (encNS 0x19 d 0 s g 1)
  | .publish s => some (encNS 0x19 0 0 s 0 2) | .bmask d a s g => some (encNS 0x19 d a s g 3)
  | .bstep d a s g => some (encNS 0x19 d a s g 4)
  | .ffill d a => some (encNS 0x1A d a 0 0 0) | .fwait d a => some (encNS 0x1A d a 0 0 1)
  | .fpoll d a => some (encNS 0x1A d a 0 0 2)
  | .send d a b l => some (encNR 0x1B d a b (0#5 ++ l ++ 0#2)) | .recv d a b => some (encNR 0x1B d a b 1)
  | .rankset d a b => some (encNR 0x1B d a b 2) | .rankmv d a b => some (encNR 0x1B d a b 3)
  | .coll d a => some (encNR 0x1C d a 0 0) | .cwait d a => some (encNR 0x1C d a 0 1)
  | .view d a => some (encNR 0x1C d a 0 2) | .vack d a => some (encNR 0x1C d a 0 3)
  | .vadd d a b k r t => some (encNP 0 0x20 d a b k r t 0) | .vsub d a b k r t => some (encNP 0 0x20 d a b k r t 1)
  | .vmul d a b k r t => some (encNP 0 0x20 d a b k r t 2) | .vmulh d a b k r t => some (encNP 0 0x20 d a b k r t 3)
  | .vfma d a b k r t => some (encNP 0 0x20 d a b k r t 4) | .vmin d a b k r t => some (encNP 0 0x20 d a b k r t 5)
  | .vmax d a b k r t => some (encNP 0 0x20 d a b k r t 6) | .vabs d a k r t => some (encNP 0 0x20 d a 0 k r t 7)
  | .vneg d a k r t => some (encNP 0 0x20 d a 0 k r t 8) | .vdiv d a b k r t => some (encNP 0 0x20 d a b k r t 9)
  | .vsqrt d a k r t => some (encNP 0 0x20 d a 0 k r t 10)
  | .vaddImm d a k r t _ => some (encNP 1 0x20 d a 0 k r t 0) | .vsubImm d a k r t _ => some (encNP 1 0x20 d a 0 k r t 1)
  | .vmulImm d a k r t _ => some (encNP 1 0x20 d a 0 k r t 2)
  | .vmulhImm d a k r t _ => some (encNP 1 0x20 d a 0 k r t 3)
  | .vminImm d a k r t _ => some (encNP 1 0x20 d a 0 k r t 5) | .vmaxImm d a k r t _ => some (encNP 1 0x20 d a 0 k r t 6)
  | .vdivImm d a k r t _ => some (encNP 1 0x20 d a 0 k r t 9)
  | .vand d a b k t => some (encNP 0 0x21 d a b k 0 t 0) | .vor d a b k t => some (encNP 0 0x21 d a b k 0 t 1)
  | .vxor d a b k t => some (encNP 0 0x21 d a b k 0 t 2) | .vshl d a b k t => some (encNP 0 0x21 d a b k 0 t 3)
  | .vshr d a b k t => some (encNP 0 0x21 d a b k 0 t 4) | .vsar d a b k t => some (encNP 0 0x21 d a b k 0 t 5)
  | .vpopc d a k t => some (encNP 0 0x21 d a 0 k 0 t 6) | .vclz d a k t => some (encNP 0 0x21 d a 0 k 0 t 7)
  | .vandImm d a k t _ => some (encNP 1 0x21 d a 0 k 0 t 0) | .vorImm d a k t _ => some (encNP 1 0x21 d a 0 k 0 t 1)
  | .vxorImm d a k t _ => some (encNP 1 0x21 d a 0 k 0 t 2) | .vshlImm d a k t _ => some (encNP 1 0x21 d a 0 k 0 t 3)
  | .vshrImm d a k t _ => some (encNP 1 0x21 d a 0 k 0 t 4) | .vsarImm d a k t _ => some (encNP 1 0x21 d a 0 k 0 t 5)
  | .vcmp h q a b k c t => some (encNP 0 0x22 (h ++ q) a b k c t 0)
  | .vcmpImm h q a k c t _ => some (encNP 1 0x22 (h ++ q) a 0 k c t 0)
  | .vsel d a b k t => some (encNP 0 0x22 d a b k 0 t 1)
  | .vbcast d s k t => some (0#1 ++ 0x22#6 ++ d ++ s ++ 0#3 ++ k ++ 0#2 ++ t ++ 2#4)
  | .vbcastImm d k t _ => some (encNP 1 0x22 d 0 0 k 0 t 2)
  | .vidx d k t => some (encNP 0 0x22 d 0 0 k 0 t 3)
  | .vred d a x o k r t => some (encNP 0 0x22 d a (x ++ o) k r t 4)
  | .vscan d a x o k r t => some (encNP 0 0x22 d a (x ++ o) k r t 5)
  | .vtrans d a k t => some (encNP 0 0x22 d a 0 k 0 t 6) | .vperm d a b k t => some (encNP 0 0x22 d a b k 0 t 7)
  | .vcvtTo d a f k r t g => some (encNP 0 0x23 d a f k r t (0#2 ++ 0#1 ++ g))
  | .vcvtFrom d a f k r t g => some (encNP 0 0x23 d a f k r t (0#2 ++ 1#1 ++ g))
  | .shape d a b => some (encNR 0x24 d a b 0) | .shapeq d => some (encNR 0x24 d 0 0 1)
  | .kand d a b => some (encNR 0x24 (0#2 ++ d) (0#2 ++ a) (0#2 ++ b) 2)
  | .kor d a b => some (encNR 0x24 (0#2 ++ d) (0#2 ++ a) (0#2 ++ b) 3)
  | .kxor d a b => some (encNR 0x24 (0#2 ++ d) (0#2 ++ a) (0#2 ++ b) 4)
  | .knot d a => some (encNR 0x24 (0#2 ++ d) (0#2 ++ a) 0 5) | .kedge d a => some (encNR 0x24 (0#2 ++ d) (0#2 ++ a) 0 6)
  | .kpop d a => some (encNR 0x24 d (0#2 ++ a) 0 7)
  | .vld p b s k t => some (encNM 0x25 p b s k t 0) | .vst p b s k t => some (encNM 0x25 p b s k t 1)
  | .vldi p b i k t => some (encNM 0x25 p b (0#1 ++ i) k t 2) | .vsti p b i k t => some (encNM 0x25 p b (0#1 ++ i) k t 3)
  | .vldb p w k t => some (encNM 0x25 p 0 w k t 4) | .vstb p w k t => some (encNM 0x25 p 0 w k t 5)
  | .vamo p b i t o => some (encNM 0x26 p b (0#1 ++ i) 0 t (0#1 ++ o))
  | .vrst p b i t o => some (encNM 0x26 p b (0#1 ++ i) 0 t (1#1 ++ o))
  | .tdefDefine d a b | .tdefStatus d a b | .tdefClearStatus d a b | .tdefUndefine d a b => some (encNE d a b 0 0)
  | .ttypeDefine d a b | .ttypeUndefine d a b => some (encNE d a b 0 1)
  | .force d a b => some (encNE d a b 0 2) | .tdrop d a => some (encNE d a 0 0 3) | .sidq d a => some (encNE d a 0 0 4)
  | .tmul d a b => some (encNE d a b 1 0) | .tew d a b => some (encNE d a b 2 0) | .tred d a b => some (encNE d a b 2 1)
  | .tcvt d a b => some (encNE d a b 2 2) | .tmove d a b => some (encNE d a b 3 0)
  | .tgather d a b => some (encNE d a b 4 0) | .tenq d a => some (encNE d a 0 5 0)
  | .illegalWord w _ => some w
  | .upframeWrite a => some (encBS 0 a 2 regUPFRAME) | .rdoorWrite a => some (encBS 0 a 2 regRDOOR)
  | .s1rootWrite a => some (encBS 0 a 2 regS1ROOT) | .tinvWrite a => some (encBS 0 a 2 regTINV)
  | .prq1Read d => some (encBS d 0 1 regPRQ1) | .prqreplyWrite a => some (encBS 0 a 2 regPRQREPLY)
  | .groupRegisterWrite a r => some (encBS 0 a 2 r) | .tqctlWrite a => some (encBS 0 a 2 regTQCTL)
  | .genericRegisterWrite (.reg a r) => some (encBS 0 a 2 r)
  | .genericRegisterWrite (.device v b i) => some (encBM 0x0B v b 6 i)
  | .caliveWrite a => some (encBS 0 a 2 regCALIVE)
  | .schctlOnline a n | .schctlDrain a n | .schctlOffline a n | .schctlFenced a n => some (encBS 0 a 2 (regSCHCTL n))
  | .trnctlGo a n => some (encBS 0 a 2 (regTRNCTL n)) | .cgateWrite a d => some (encBS 0 a 2 (regCGATE d))
  | .lnctlGo a l => some (encBS 0 a 2 (regLNCTL l))
  | .elselWrite a => some (encBS 0 a 2 regELSEL) | .elreadRead d => some (encBS d 0 1 regELREAD)
  | .spareWrite a => some (encBS 0 a 2 regSPARE) | .einjcInject a => some (encBS 0 a 2 regEINJC)
  | .xctlWrite a => some (encBS 0 a 2 regXCTL)
  | .fprogGo v b i | .rsacmdGo v b i | .wtearGo v b i | .kzeroGo v b i | .mcmdGo v b i | .dbgctlOpen v b i =>
      some (encBM 0x0B v b 6 i)
  | .rtbaseWrite a => some (encBS 0 a 2 regRTBASE) | .rtlenWrite a => some (encBS 0 a 2 regRTLEN)
  | .vcfgInstall a v | .vcfgClear a v => some (encBS 0 a 2 (regVCFG v))
  | _ => none

/-- The second word of a long form (R26). -/
def encodeSecond : Instr → Option Word32
  | .callFar _ m | .ldk _ m | .ldkZ _ m | .ldkHi _ m => some m
  | .vaddImm _ _ _ _ _ m | .vsubImm _ _ _ _ _ m | .vmulImm _ _ _ _ _ m | .vmulhImm _ _ _ _ _ m
  | .vminImm _ _ _ _ _ m | .vmaxImm _ _ _ _ _ m | .vdivImm _ _ _ _ _ m => some m
  | .vandImm _ _ _ _ m | .vorImm _ _ _ _ m | .vxorImm _ _ _ _ m | .vshlImm _ _ _ _ m | .vshrImm _ _ _ _ m
  | .vsarImm _ _ _ _ m => some m
  | .vcmpImm _ _ _ _ _ _ m => some m
  | .vbcastImm _ _ _ m => some m
  | .illegalWord w m => if longForm w then some m else none
  | _ => none

/-- The words of an instruction: none for the steps that have no encoding. -/
def encode (i : Instr) : Option (List Word32) :=
  match encodeFirst i with
  | none => none
  | some w => some (w :: (encodeSecond i).toList)

/-- The length of an instruction in bytes (R26). -/
def instrBytes (i : Instr) : Nat := if (encodeSecond i).isSome then 8 else 4

end Sys2Proof
end

