-- ==== Sys2Proof/Machine/Table.lean ====
section
/-!
DEFINITION. Sparse tables: a list of pairs of a key and a value, where a key that is not listed has a default value.
Tables written only by `put` are in one canonical form: keys strictly rising, no pair holding the default.
-/
namespace Sys2Proof.Machine

/-- A sparse table over Nat keys. -/
abbrev Tbl (α : Type) := List (Nat × α)

/-- The value at a key: the first pair with that key, or the default. -/
def Tbl.get {α : Type} (d : α) : Tbl α → Nat → α
  | [], _ => d
  | (a, v) :: t, k => if a = k then v else Tbl.get d t k

/-- Insertion before the first larger key, or in place of the key. -/
def Tbl.insert {α : Type} (k : Nat) (v : α) : Tbl α → Tbl α
  | [] => [(k, v)]
  | (a, w) :: t => if k < a then (k, v) :: (a, w) :: t else if k = a then (k, v) :: t else (a, w) :: Tbl.insert k v t

/-- A write: storing the default removes the key. -/
def Tbl.put {α : Type} [DecidableEq α] (d : α) (t : Tbl α) (k : Nat) (v : α) : Tbl α :=
  if v = d then t.filter (fun p => p.1 ≠ k) else Tbl.insert k v t

/-- Keys strictly rising. -/
def Tbl.rising {α : Type} : Tbl α → Bool
  | [] => true
  | [_] => true
  | (a, _) :: (b, w) :: t => a < b && Tbl.rising ((b, w) :: t)

/-- The canonical form. -/
def Tbl.wf {α : Type} [DecidableEq α] (d : α) (t : Tbl α) : Bool :=
  Tbl.rising t && t.all (fun p => p.2 ≠ d)

/-- The keys listed. -/
def Tbl.keys {α : Type} (t : Tbl α) : List Nat := t.map (·.1)

/-! ## Bytes and bits -/

/-- n bytes of a value, the lowest first (R4). -/
def leBytes (v : Nat) : Nat → List Byte
  | 0 => []
  | n + 1 => BitVec.ofNat 8 v :: leBytes (v / 256) n

/-- The value of bytes, the lowest first (R4). -/
def leValue : List Byte → Nat
  | [] => 0
  | b :: t => b.toNat + 256 * leValue t

/-- Bits hi:lo of a word, as a number. -/
def bits (v : Word) (hi lo : Nat) : Nat := v.toNat / 2 ^ lo % 2 ^ (hi + 1 - lo)

/-- One bit of a word. -/
def bit (v : Word) (i : Nat) : Bool := v.getLsbD i

/-- A field placed at bit lo. -/
def putAt (x lo : Nat) : Word := BitVec.ofNat 64 (x * 2 ^ lo)

/-- A word with bits hi:lo replaced by the same bits of another. -/
def setBits (old new : Word) (hi lo : Nat) : Word :=
  let m : Word := BitVec.ofNat 64 ((2 ^ (hi + 1 - lo) - 1) * 2 ^ lo)
  (old &&& ~~~m) ||| (new &&& m)

/-- A value saturating at a largest one. -/
def satTo (n max : Nat) : Nat := if max < n then max else n

/-- True when two byte ranges (start, length) share a byte. -/
def rangesMeet (a b : Nat × Nat) : Bool := a.1 < b.1 + b.2 && b.1 < a.1 + a.2

/-- True when two footprints share a byte (R153). -/
def footsMeet (f g : List (Nat × Nat)) : Bool := f.any (fun a => g.any (fun b => rangesMeet a b))

end Sys2Proof.Machine
end

