-- ==== Sys2Proof/Machine/Crypto.lean ====
section
/-!
DEFINITION. The cryptographic functions that the spec names by their standards: SHA-512 and its HMAC and HKDF, MGF1 and the
verification of RSASSA-PSS (R19, R25, R356, R361, R365), AES-256-GCM (R361). PRESUMED (log 8).
-/
namespace Sys2Proof.Machine

/-! ## SHA-512 -/

/-- A big-endian number of n bytes, and back. -/
def beBytes (v n : Nat) : List Byte := (leBytes v n).reverse
def beValue (l : List Byte) : Nat := leValue l.reverse

/-- The first hash value. -/
def shaStart : List Word :=
  [0x6A09E667F3BCC908, 0xBB67AE8584CAA73B, 0x3C6EF372FE94F82B, 0xA54FF53A5F1D36F1,
    0x510E527FADE682D1, 0x9B05688C2B3E6C1F, 0x1F83D9ABFB41BD6B, 0x5BE0CD19137E2179]

/-- The constant of each round. -/
def shaK : List Word :=
  [0x428A2F98D728AE22, 0x7137449123EF65CD, 0xB5C0FBCFEC4D3B2F, 0xE9B5DBA58189DBBC,
    0x3956C25BF348B538, 0x59F111F1B605D019, 0x923F82A4AF194F9B, 0xAB1C5ED5DA6D8118,
    0xD807AA98A3030242, 0x12835B0145706FBE, 0x243185BE4EE4B28C, 0x550C7DC3D5FFB4E2,
    0x72BE5D74F27B896F, 0x80DEB1FE3B1696B1, 0x9BDC06A725C71235, 0xC19BF174CF692694] ++
  [0xE49B69C19EF14AD2, 0xEFBE4786384F25E3, 0x0FC19DC68B8CD5B5, 0x240CA1CC77AC9C65,
    0x2DE92C6F592B0275, 0x4A7484AA6EA6E483, 0x5CB0A9DCBD41FBD4, 0x76F988DA831153B5,
    0x983E5152EE66DFAB, 0xA831C66D2DB43210, 0xB00327C898FB213F, 0xBF597FC7BEEF0EE4,
    0xC6E00BF33DA88FC2, 0xD5A79147930AA725, 0x06CA6351E003826F, 0x142929670A0E6E70] ++
  [0x27B70A8546D22FFC, 0x2E1B21385C26C926, 0x4D2C6DFC5AC42AED, 0x53380D139D95B3DF,
    0x650A73548BAF63DE, 0x766A0ABB3C77B2A8, 0x81C2C92E47EDAEE6, 0x92722C851482353B,
    0xA2BFE8A14CF10364, 0xA81A664BBC423001, 0xC24B8B70D0F89791, 0xC76C51A30654BE30,
    0xD192E819D6EF5218, 0xD69906245565A910, 0xF40E35855771202A, 0x106AA07032BBD1B8] ++
  [0x19A4C116B8D2D0C8, 0x1E376C085141AB53, 0x2748774CDF8EEB99, 0x34B0BCB5E19B48A8,
    0x391C0CB3C5C95A63, 0x4ED8AA4AE3418ACB, 0x5B9CCA4F7763E373, 0x682E6FF3D6B2B8A3,
    0x748F82EE5DEFB2FC, 0x78A5636F43172F60, 0x84C87814A1F0AB72, 0x8CC702081A6439EC,
    0x90BEFFFA23631E28, 0xA4506CEBDE82BDE9, 0xBEF9A3F7B2C67915, 0xC67178F2E372532B] ++
  [0xCA273ECEEA26619C, 0xD186B8C721C0C207, 0xEADA7DD6CDE0EB1E, 0xF57D4F7FEE6ED178,
    0x06F067AA72176FBA, 0x0A637DC5A2C898A6, 0x113F9804BEF90DAE, 0x1B710B35131C471B,
    0x28DB77F523047D84, 0x32CAAB7B40C72493, 0x3C9EBE0A15C9BEBC, 0x431D67C49C100D4C,
    0x4CC5D4BECB3E42B6, 0x597F299CFC657E2A, 0x5FCB6FAB3AD6FAEC, 0x6C44198C4A475817]

/-- One round: the eight working variables, and K + W. -/
def shaRound (v : List Word) (kw : Word) : List Word :=
  match v with
  | [a, b, c, d, e, f, g, h] =>
    let s1 := e.rotateRight 14 ^^^ e.rotateRight 18 ^^^ e.rotateRight 41
    let t1 := h + s1 + ((e &&& f) ^^^ (~~~e &&& g)) + kw
    let s0 := a.rotateRight 28 ^^^ a.rotateRight 34 ^^^ a.rotateRight 39
    let t2 := s0 + ((a &&& b) ^^^ (a &&& c) ^^^ (b &&& c))
    [t1 + t2, a, b, c, d + t1, e, f, g]
  | _ => v

/-- The window of sixteen words of the message schedule moves on by one. -/
def shaNext (w : List Word) : List Word :=
  let x (i : Nat) : Word := (w[i]?).getD 0
  let s0 := (x 1).rotateRight 1 ^^^ (x 1).rotateRight 8 ^^^ (x 1 >>> 7)
  let s1 := (x 14).rotateRight 19 ^^^ (x 14).rotateRight 61 ^^^ (x 14 >>> 6)
  w.tail ++ [s1 + x 9 + s0 + x 0]

def shaRounds : List Word → List Word → List Word → List Word
  | [], _, v => v
  | k :: ks, w, v => shaRounds ks (shaNext w) (shaRound v (k + w.headD 0))

/-- One block of sixteen words. -/
def shaBlock (h w : List Word) : List Word := List.zipWith (· + ·) h (shaRounds shaK w h)

/-- A message with its padding: a one bit, zeros, and its length in bits. -/
def shaPadded (m : List Byte) : List Byte :=
  m ++ [0x80#8] ++ List.replicate ((239 - m.length % 128) % 128) 0#8 ++ beBytes (8 * m.length) 16

/-- The 64-bit words of a block, the most significant byte first. -/
def beWords : Nat → List Byte → List Word
  | 0, _ => []
  | n + 1, l => BitVec.ofNat 64 (beValue (l.take 8)) :: beWords n (l.drop 8)

def shaBlocks : Nat → List Byte → List Word → List Word
  | 0, _, h => h
  | n + 1, l, h => shaBlocks n (l.drop 128) (shaBlock h (beWords 16 l))

/-- SHA-512 of a byte string: 64 bytes. -/
def sha512Bytes (m : List Byte) : List Byte :=
  let p := shaPadded m
  (shaBlocks (p.length / 128) p shaStart).flatMap (fun w => beBytes w.toNat 8)

/-- SHA-512 as one number of 512 bits, byte 0 lowest. -/
def sha512 (m : List Byte) : BitVec 512 := BitVec.ofNat 512 (leValue (sha512Bytes m))

/-- HMAC with SHA-512. -/
def hmac (key m : List Byte) : List Byte :=
  let k0 := if 128 < key.length then sha512Bytes key else key
  let k := k0 ++ List.replicate (128 - k0.length) 0#8
  sha512Bytes (k.map (· ^^^ 0x5C#8) ++ sha512Bytes (k.map (· ^^^ 0x36#8) ++ m))

/-- HKDF with SHA-512, for at most 64 bytes of output. -/
def hkdf (salt ikm info : List Byte) (n : Nat) : List Byte := (hmac (hmac salt ikm) (info ++ [0x01#8])).take n

/-! ## RSASSA-PSS -/

/-- The mask generation function MGF1 with SHA-512, n blocks of 64 bytes. -/
def mgf1 (seed : List Byte) (n : Nat) : List Byte := (List.range n).flatMap (fun i => sha512Bytes (seed ++ beBytes i 4))

/-- b to the power e modulo m, for an exponent below 2 to the power n. -/
def modPow (b m : Nat) : Nat → Nat → Nat
  | 0, _ => 1 % m
  | n + 1, e => (let h := modPow (b * b % m) m n (e / 2); if e % 2 = 1 then b * h % m else h)

/-- The encoded message of 512 bytes fits the message: the hash of 64 bytes, a salt of 64 bytes, a leading bit of zero. -/
def pssEncodes (em m : List Byte) : Bool :=
  let masked := em.take 447
  let h := (em.drop 447).take 64
  let db0 := List.zipWith (· ^^^ ·) masked (mgf1 h 7)
  let db := (db0.headD 0 &&& 0x7F#8) :: db0.tail
  em.length = 512 && em[511]? = some 0xBC#8 && masked.headD 0 &&& 0x80#8 = 0 &&
    (db.take 382).all (· = 0) && db[382]? = some 0x01#8 &&
    h = sha512Bytes (List.replicate 8 0#8 ++ sha512Bytes m ++ db.drop 383)

/-- RSASSA-PSS under a key of 4,096 bits, exponent and modulus with the most significant byte first: message, signature. -/
def pssVerify (e : Nat) (modulus m sig : List Byte) : Bool :=
  let n := beValue modulus
  let s := beValue sig
  sig.length = 512 && s < n && pssEncodes (beBytes (modPow s n 32 e) 512) m

/-- The same under one of the vendor's keys (R365). -/
def vendorVerify (n : Nat) (m sig : List Byte) : Bool := pssVerify (Config.vendorKey n).1 (Config.vendorKey n).2 m sig

/-! ## AES-256-GCM -/

/-- Multiplication by x in the field of AES, and a product of two bytes. -/
def aesDouble (b : Byte) : Byte := (b <<< 1) ^^^ (if b.getLsbD 7 then 0x1B#8 else 0)
def aesMul (a b : Byte) : Byte :=
  ((List.range 8).foldl (fun (p : Byte × Byte) i => (if b.getLsbD i then p.1 ^^^ p.2 else p.1, aesDouble p.2)) (0, a)).1

/-- The inverse of a byte: its power 254, and 0 for 0. -/
def aesInv (b : Byte) : Byte := ((List.range 7).foldl (fun (p : Byte × Byte) _ =>
  (let q := aesMul p.2 p.2; (aesMul p.1 q, q))) ((1 : Byte), b)).1

/-- The substitution. -/
def aesSub (b : Byte) : Byte :=
  let x := aesInv b
  x ^^^ x.rotateLeft 1 ^^^ x.rotateLeft 2 ^^^ x.rotateLeft 3 ^^^ x.rotateLeft 4 ^^^ 0x63#8

def xorBytes (a b : List Byte) : List Byte := List.zipWith (· ^^^ ·) a b

/-- The word after the last eight of the key schedule, by its number. -/
def aesWord (last : List (List Byte)) (i : Nat) : List Byte :=
  let t := (last[7]?).getD []
  let u := if i % 8 = 0 then
             (let r := (t.tail ++ t.take 1).map aesSub
              (r.headD 0 ^^^ (List.range (i / 8 - 1)).foldl (fun c _ => aesDouble c) 1) :: r.tail)
           else if i % 8 = 4 then t.map aesSub else t
  xorBytes (last.headD []) u

/-- The words of the schedule, of four bytes each, from a number on. -/
def aesSchedule : Nat → Nat → List (List Byte) → List (List Byte)
  | 0, _, _ => []
  | n + 1, i, last => (let w := aesWord last i; w :: aesSchedule n (i + 1) (last.tail ++ [w]))

/-- The fifteen round keys. -/
def aesKeys (key : List Byte) : List (List Byte) :=
  let k := (List.range 8).map (fun i => (key.drop (4 * i)).take 4)
  let all := (k ++ aesSchedule 52 8 k).flatten
  (List.range 15).map (fun r => (all.drop (16 * r)).take 16)

def aesShift (s : List Byte) : List Byte := (List.range 16).map (fun i => (s[(i + 4 * (i % 4)) % 16]?).getD 0)

def aesMix (s : List Byte) : List Byte :=
  (List.range 16).map (fun i =>
    let x (k : Nat) : Byte := (s[i / 4 * 4 + (i + k) % 4]?).getD 0
    aesDouble (x 0) ^^^ aesDouble (x 1) ^^^ x 1 ^^^ x 2 ^^^ x 3)

def aesRounds : List (List Byte) → List Byte → List Byte
  | [], s => s
  | [k], s => xorBytes (aesShift (s.map aesSub)) k
  | k :: ks, s => aesRounds ks (xorBytes (aesMix (aesShift (s.map aesSub))) k)

/-- One block of 16 bytes. -/
def aesBlock (key b : List Byte) : List Byte :=
  match aesKeys key with
  | k :: ks => aesRounds ks (xorBytes b k)
  | [] => b

/-- The product of GCM's field: bit 0 is the most significant. -/
def gcmMul (x y : BitVec 128) : BitVec 128 :=
  ((List.range 128).foldl (fun (p : BitVec 128 × BitVec 128) i =>
    (if x.getLsbD (127 - i) then p.1 ^^^ p.2 else p.1,
     (p.2 >>> 1) ^^^ (if p.2.getLsbD 0 then (0xE1#128) <<< 120 else 0))) (0, y)).1

/-- Blocks of 16 bytes, the last filled with zeros. -/
def gcmBlocks (l : List Byte) : List (BitVec 128) :=
  (List.range ((l.length + 15) / 16)).map (fun i =>
    (let b := (l.drop (16 * i)).take 16; BitVec.ofNat 128 (beValue (b ++ List.replicate (16 - b.length) 0#8))))

def ghash (h : BitVec 128) (l : List (BitVec 128)) : BitVec 128 := l.foldl (fun y x => gcmMul (y ^^^ x) h) 0

/-- The tag of a ciphertext with its additional data, under an IV of 12 bytes. -/
def gcmTag (key iv aad c : List Byte) : List Byte :=
  let h : BitVec 128 := BitVec.ofNat 128 (beValue (aesBlock key (List.replicate 16 0#8)))
  let lens : BitVec 128 := BitVec.ofNat 128 (8 * aad.length * 2 ^ 64 + 8 * c.length)
  xorBytes (beBytes (ghash h (gcmBlocks aad ++ gcmBlocks c ++ [lens])).toNat 16) (aesBlock key (iv ++ beBytes 1 4))

/-- AES-256-GCM: the plaintext, when the tag verifies. -/
def gcmDecrypt (key iv aad c tag : List Byte) : Option (List Byte) :=
  if tag ≠ gcmTag key iv aad c then none
  else some (xorBytes c ((List.range ((c.length + 15) / 16)).flatMap (fun i => aesBlock key (iv ++ beBytes (i + 2) 4))))

end Sys2Proof.Machine
end

