-- ==== Sys2Proof/Machine/Chip.lean ====
section
/-!
DEFINITION. The chip table (R11 to R16): its records in the order of their kinds. The worst-case figures of its latency record that
R116 does not give are the part's own.
-/
namespace Sys2Proof.Machine

/-- A record of kind version 1 (R12). -/
def chipRecord (kind : Nat) (l : List Word) : List Word := (putAt l.length 32 ||| putAt 1 16 ||| putAt kind 0) :: l

/-- n successive selector values of a major of the opcode map, without their ids: major, func, format, engine class and
feature leaf (R14). Where the selector is only a part of a major's func field, the func bits hold the selector's value, not its
bits in place. DESIGN CHOICE (log 100). -/
def mapRow (major fmt cls leaf first n : Nat) : List Word :=
  (List.range n).map (fun k => putAt major 0 ||| putAt (first + k) 6 ||| putAt fmt 16 ||| putAt cls 20 ||| putAt leaf 23)

/-- The native instructions in the reading order of the maps (R34). -/
def mapRows : List Word :=
  mapRow 0x10 0 0 1 0 9 ++ mapRow 0x11 1 0 1 0 2 ++ mapRow 0x12 1 0 2 0 1 ++ mapRow 0x13 0 0 2 0 2 ++ mapRow 0x14 7 0 1 0 1 ++
    mapRow 0x15 1 0 3 0 3 ++ mapRow 0x16 5 0 0 0 1 ++ mapRow 0x16 0 0 4 1 5 ++ mapRow 0x17 0 0 0 0 9 ++ mapRow 0x18 0 0 5 0 2 ++
    mapRow 0x18 0 0 6 2 3 ++ mapRow 0x19 6 0 7 0 2 ++ mapRow 0x19 6 0 0 2 1 ++ mapRow 0x19 6 0 7 3 2 ++ mapRow 0x1A 6 0 8 0 3 ++
    mapRow 0x1B 0 0 9 0 4 ++ mapRow 0x1C 0 0 10 0 4 ++ mapRow 0x20 2 0 11 0 11 ++ mapRow 0x21 2 0 12 0 8 ++
    mapRow 0x22 2 0 13 0 8 ++ mapRow 0x23 2 0 14 0 1 ++ mapRow 0x24 0 0 15 0 8 ++ mapRow 0x25 3 0 16 0 6 ++
    mapRow 0x26 3 0 17 0 2 ++ mapRow 0x30 4 0 18 0 5 ++ mapRow 0x30 4 1 19 0 1 ++ mapRow 0x30 4 2 20 0 3 ++
    mapRow 0x30 4 3 21 0 1 ++ mapRow 0x30 4 4 22 0 1 ++ mapRow 0x30 4 5 23 0 1

/-- The native opcode map (R14): the instructions take ids from 101 (R41). -/
def opcodeMap : List Word := ((List.range mapRows.length).zip mapRows).map (fun p => p.2 ||| putAt (101 + p.1) 32)

/-- Successive selector values of a Pliren major: major and selector (R30). -/
def plirenRow (major n : Nat) : List (Nat × Nat) := (List.range n).map (fun k => (major, k))

/-- The Pliren instructions in the reading order of the map (R30): `st8`, `st16`, `st32` and `st64` have even size codes. -/
def plirenRows : List (Nat × Nat) :=
  plirenRow 0x01 17 ++ plirenRow 0x02 1 ++ plirenRow 0x03 1 ++ plirenRow 0x04 1 ++ plirenRow 0x05 1 ++ plirenRow 0x06 3 ++
    plirenRow 0x07 1 ++ plirenRow 0x08 1 ++ plirenRow 0x09 1 ++ plirenRow 0x0A 7 ++ [(0x0B, 0), (0x0B, 2), (0x0B, 4), (0x0B, 6)] ++
    plirenRow 0x0C 6 ++ plirenRow 0x0D 1 ++ plirenRow 0x0E 1 ++ plirenRow 0x0F 6

/-- The id of the Pliren instruction of a major and selector: 1 for `add` to 52 for `brk` (R41). -/
def plirenId (major sel : Nat) : Option Nat := (plirenRows.findIdx? (· = (major, sel))).map (· + 1)

/-- The ids of all instructions: the Pliren ones from 1, the native ones from 101 (R41). -/
def instrIds : List Nat := (List.range plirenRows.length).map (· + 1) ++ (List.range mapRows.length).map (· + 101)

/-- The shortest figures of the paths 1 to 19, in clk (R3). -/
def pathClk : List Nat := [1, 3, 8, 10, 40, 42, 36, 120, 330, 420, 1900, 4, 3, 9, 36, 28, 2, 400, 30]

/-- The worst-case figure of a path: not below its shortest one; the SC operation's is fixed (R3). -/
def pathWorst (n shortest : Nat) : Nat := if n = 16 then shortest else max shortest (Config.worstClk (0x80000000 + n)).toNat

/-- The worst-case figures of R116 by id, where it gives one: `add` to `remz`, the immediates and `liu`, loads and stores, branches and
jumps, `sys`, `getx`, `putx`. -/
def plirenWorst : List (Option Nat) :=
  List.replicate 8 (some 1) ++ [some 3, some 4, some 4] ++ List.replicate 4 (some 20) ++ List.replicate 12 (some 1) ++
    List.replicate 11 none ++ List.replicate 8 (some 2) ++ [some 40, some 24, some 1]

/-- Those of the native instructions from id 101: major 0x10, `bfx` and `bfi`, `call` and `callr` that spill four granules, `ret` that fills
four, `ldk`, `setba`, `rdctr`. -/
def nativeWorst : List (Option Nat) :=
  List.replicate 11 (some 1) ++ [some 10, some 10, some 14, some 1, some 1, none, none, none, some 1]

def worstFigure (id : Nat) : Option Nat := (if id ≤ 100 then plirenWorst[id - 1]? else nativeWorst[id - 101]?).join

/-- The latency record (R14): a word for each instruction by its id, then a word for each path. DESIGN CHOICE (log 9). -/
def latencies : List Word :=
  instrIds.map (fun n => putAt ((worstFigure n).getD (Config.worstClk n).toNat) 32 ||| putAt n 0) ++
    ((List.range pathClk.length).zip pathClk).map (fun p => putAt (pathWorst (p.1 + 1) p.2) 32 ||| putAt (0x80000000 + (p.1 + 1)) 0)

/-- The capacities of R15. -/
def capacities : List Word := [32, 64, 32, 512, 32, 10, 128, 256, 64, 4096, 64, 64]

/-- Words 12 to LEN − 1. -/
def chipBody : List Word :=
  chipRecord 1 opcodeMap ++ chipRecord 2 latencies ++ chipRecord 3 capacities ++ chipRecord 4 [0x000FFFFF, 0x7F] ++
    chipRecord 5 [0x3F] ++ chipRecord 6 [1, 1, 1, 1] ++ chipRecord 7 [1, 2, 3, 4, 5, 6, 7, 8]

/-- The DIGEST of the table. -/
def chipDigest : BitVec 512 := sha512 (chipBody.flatMap (fun w => leBytes w.toNat 8))

/-- The whole table. -/
def chipTable : List Word :=
  [0x4C4254434F4C4953, putAt 3 16 ||| putAt 1 0, BitVec.ofNat 64 (12 + chipBody.length), 7] ++
    (List.range 8).map (fun i => chipDigest.extractLsb' (64 * i) 64) ++ chipBody

/-- The word that a read with an index returns (R13). -/
def chipWord (i : Word) : Word := if i.toNat < chipTable.length then (chipTable[i.toNat]?).getD 0 else 0

end Sys2Proof.Machine
end

