-- ==== Sys2Proof/Machine/Flags.lean ====
section
/-!
DEFINITION. Numbers and arithmetic flags (spec 03, R49 to R70): exact values, rounding and its flags, the floating-point
operations, the operand formats and every conversion.
-/
namespace Sys2Proof.Machine

/-- The seven flags, in the bit order of AST bits 6:0 (R60): INV 0, DVZ 1, OFL 2, UFL 3, INX 4, SAT 5, PSN 6. -/
abbrev FlagSet := BitVec 7

def fINV : FlagSet := 0b0000001#7
def fDVZ : FlagSet := 0b0000010#7
def fOFL : FlagSet := 0b0000100#7
def fUFL : FlagSet := 0b0001000#7
def fINX : FlagSet := 0b0010000#7
def fSAT : FlagSet := 0b0100000#7
def fPSN : FlagSet := 0b1000000#7

/-- A flag set when a condition holds. -/
def flagIf (c : Bool) (f : FlagSet) : FlagSet := if c then f else 0#7

/-- The rounding modes (R38, R59). -/
inductive Rnd where
  | rne | rtz | rdn | rup
  deriving DecidableEq, Repr

/-- The mode a rounding field names (R38). -/
def Rnd.ofCode (r : BitVec 2) : Rnd :=
  match r.toNat with
  | 0 => .rne | 1 => .rtz | 2 => .rdn | _ => .rup

/-- A value of an operand format: m · 2^e with m nonzero, a signed zero, an infinity, a NaN, or poison. -/
inductive FVal where
  | fin (m e : Int)
  | zero (neg : Bool)
  | inf (neg : Bool)
  | nan
  | poison
  deriving DecidableEq, Repr

/-- An exact integer. -/
def FVal.ofInt (x : Int) : FVal := if x = 0 then .zero false else .fin x 0

/-- m · 2^e, where m may be zero: `neg` is the sign of the zero. -/
def FVal.ofDyadic (neg : Bool) (m e : Int) : FVal := if m = 0 then .zero neg else .fin m e

/-! ## Rounding -/

/-- n · 2^(−sh) to an integer, for a magnitude n of a value of sign `neg`; true where it is inexact (R59). -/
def shiftRound (mode : Rnd) (neg : Bool) (n : Nat) (sh : Int) : Nat × Bool :=
  if sh ≤ 0 then (n * 2 ^ (-sh).toNat, false)
  else
    let k := sh.toNat
    let q := n / 2 ^ k
    let r := n % 2 ^ k
    let half := 2 ^ (k - 1)
    let up := match mode with
      | .rne => half < r || (r = half && q % 2 = 1)
      | .rtz => false
      | .rdn => neg && r ≠ 0
      | .rup => !neg && r ≠ 0
    (if up then q + 1 else q, r ≠ 0)

/-- m · 2^e to an integer under the mode; true where it is inexact. -/
def roundInt (mode : Rnd) (m e : Int) : Int × Bool :=
  let neg := m < 0
  let (q, x) := shiftRound mode neg m.natAbs (-e)
  (if neg then -(q : Int) else q, x)

/-- A binary floating-point layout: sign, exponent, fraction (R51). -/
structure FloatFmt where
  ebits : Nat
  fbits : Nat
  deriving DecidableEq, Repr

def fmtF64 : FloatFmt := { ebits := 11, fbits := 52 }
def fmtF32 : FloatFmt := { ebits := 8, fbits := 23 }
def fmtW24 : FloatFmt := { ebits := 8, fbits := 15 }
def fmtF16 : FloatFmt := { ebits := 5, fbits := 10 }
def fmtW16 : FloatFmt := { ebits := 8, fbits := 7 }

/-- The exponent bias (R51). -/
def FloatFmt.bias (f : FloatFmt) : Nat := 2 ^ (f.ebits - 1) - 1
/-- The sign bit. -/
def FloatFmt.sign (f : FloatFmt) (neg : Bool) : Nat := if neg then 2 ^ (f.ebits + f.fbits) else 0
/-- Infinity without its sign. -/
def FloatFmt.infBits (f : FloatFmt) : Nat := (2 ^ f.ebits - 1) * 2 ^ f.fbits
/-- The canonical NaN (R52): the quiet bit alone. -/
def FloatFmt.nanBits (f : FloatFmt) : Nat := f.infBits + 2 ^ (f.fbits - 1)

/-- The value that the bits of a floating-point element encode (R51). -/
def FloatFmt.value (f : FloatFmt) (bits : Nat) : FVal :=
  let frac := bits % 2 ^ f.fbits
  let ex := bits / 2 ^ f.fbits % 2 ^ f.ebits
  let neg := bits / 2 ^ (f.ebits + f.fbits) % 2 = 1
  let sg (n : Nat) : Int := if neg then -(n : Int) else n
  if ex = 2 ^ f.ebits - 1 then (if frac = 0 then .inf neg else .nan)
  else if ex = 0 then FVal.ofDyadic neg (sg frac) (1 - (f.bias : Int) - f.fbits)
  else .fin (sg (2 ^ f.fbits + frac)) ((ex : Int) - f.bias - f.fbits)

/-- What a value too large rounds to (R59). -/
def FloatFmt.overflowBits (f : FloatFmt) (mode : Rnd) (neg : Bool) : Nat :=
  let toInf := match mode with
    | .rne => true | .rtz => false | .rdn => neg | .rup => !neg
  f.sign neg + (if toInf then f.infBits else f.infBits - 1)

/-- ROUND.mode of the nonzero value m · 2^e to a floating-point format, and the flags (R59). -/
def FloatFmt.roundFin (f : FloatFmt) (mode : Rnd) (m e : Int) : Nat × FlagSet :=
  let neg : Bool := m < 0
  let n := m.natAbs
  let top : Int := e + Nat.log2 n
  let emin : Int := 1 - (f.bias : Int)
  let lsb : Int := max (top - f.fbits) (emin - f.fbits)
  let (q, inx) := shiftRound mode neg n (lsb - e)
  let mag : Int := (lsb + f.fbits + f.bias - 1) * 2 ^ f.fbits + q
  let (qu, _) := shiftRound mode neg n (top - f.fbits - e)
  let tiny := top < emin && !(top = emin - 1 && qu = 2 ^ (f.fbits + 1))
  if (f.infBits : Int) ≤ mag then (f.overflowBits mode neg, fOFL ||| fINX)
  else (f.sign neg + mag.toNat, flagIf inx fINX ||| flagIf (tiny && inx) fUFL)

/-- ROUND.mode of any value; NaN and poison give the canonical NaN (R52, R59, R70). -/
def FloatFmt.round (f : FloatFmt) (mode : Rnd) : FVal → Nat × FlagSet
  | .fin m e => f.roundFin mode m e
  | .zero neg => (f.sign neg, 0)
  | .inf neg => (f.sign neg + f.infBits, 0)
  | .nan => (f.nanBits, 0)
  | .poison => (f.nanBits, fPSN)

/-! ## Exact operations -/

def FVal.isNeg : FVal → Bool
  | .fin m _ => m < 0
  | .zero neg => neg
  | .inf neg => neg
  | _ => false

def FVal.neg : FVal → FVal
  | .fin m e => .fin (-m) e
  | .zero n => .zero !n
  | .inf n => .inf !n
  | x => x

def FVal.abs : FVal → FVal
  | .fin m e => .fin (m.natAbs : Int) e
  | .zero _ => .zero false
  | .inf _ => .inf false
  | x => x

/-- m1 · 2^e1 + m2 · 2^e2 as one dyadic. -/
def dyAdd (m1 e1 m2 e2 : Int) : Int × Int :=
  let e := min e1 e2
  (m1 * 2 ^ (e1 - e).toNat + m2 * 2 ^ (e2 - e).toNat, e)

/-- The exact sum: a zero of cancellation is −0 under RDN and +0 otherwise; ∞ − ∞ is invalid (R52, R59). -/
def FVal.add (mode : Rnd) : FVal → FVal → FVal × FlagSet
  | .poison, _ => (.poison, 0)
  | _, .poison => (.poison, 0)
  | .nan, _ => (.nan, 0)
  | _, .nan => (.nan, 0)
  | .inf a, .inf b => if a = b then (.inf a, 0) else (.nan, fINV)
  | .inf a, _ => (.inf a, 0)
  | _, .inf b => (.inf b, 0)
  | .zero a, .zero b => (.zero (if a = b then a else mode = .rdn), 0)
  | .zero _, y => (y, 0)
  | x, .zero _ => (x, 0)
  | .fin m1 e1, .fin m2 e2 =>
    let (m, e) := dyAdd m1 e1 m2 e2
    (FVal.ofDyadic (mode = .rdn) m e, 0)

/-- The exact product: 0 × ∞ is invalid (R59). -/
def FVal.mul : FVal → FVal → FVal × FlagSet
  | .poison, _ => (.poison, 0)
  | _, .poison => (.poison, 0)
  | .nan, _ => (.nan, 0)
  | _, .nan => (.nan, 0)
  | .inf _, .zero _ => (.nan, fINV)
  | .zero _, .inf _ => (.nan, fINV)
  | .inf a, y => (.inf (a != y.isNeg), 0)
  | x, .inf b => (.inf (x.isNeg != b), 0)
  | .zero a, y => (.zero (a != y.isNeg), 0)
  | x, .zero b => (.zero (x.isNeg != b), 0)
  | .fin m1 e1, .fin m2 e2 => (.fin (m1 * m2) (e1 + e2), 0)

/-- A quotient kept to 200 bits below its leading bit, with every bit below them gathered into the last one, so that any
format rounds it as it rounds the exact quotient; 0 ÷ 0 and ∞ ÷ ∞ are invalid, x ÷ 0 is a division by zero (R59). -/
def FVal.div : FVal → FVal → FVal × FlagSet
  | .poison, _ => (.poison, 0)
  | _, .poison => (.poison, 0)
  | .nan, _ => (.nan, 0)
  | _, .nan => (.nan, 0)
  | .inf _, .inf _ => (.nan, fINV)
  | .zero _, .zero _ => (.nan, fINV)
  | .inf a, y => (.inf (a != y.isNeg), 0)
  | x, .inf b => (.zero (x.isNeg != b), 0)
  | .zero a, y => (.zero (a != y.isNeg), 0)
  | x, .zero b => (.inf (x.isNeg != b), fDVZ)
  | .fin m1 e1, .fin m2 e2 =>
    let k := 200 + Nat.log2 m2.natAbs
    let q := m1.natAbs * 2 ^ k / m2.natAbs
    let r := m1.natAbs * 2 ^ k % m2.natAbs
    let n : Int := 2 * q + (if r = 0 then 0 else 1)
    (.fin (if (m1 < 0) = (m2 < 0) then n else -n) (e1 - e2 - k - 1), 0)

/-- The integer square root, by bits from `fuel` down. -/
def isqrtBits (n : Nat) : Nat → Nat → Nat
  | 0, r => r
  | fuel + 1, r =>
    let c := r + 2 ^ fuel
    isqrtBits n fuel (if c * c ≤ n then c else r)

/-- A square root kept to 200 bits with a gathered last bit; below −0 it is invalid (R59). -/
def FVal.sqrt : FVal → FVal × FlagSet
  | .poison => (.poison, 0)
  | .nan => (.nan, 0)
  | .zero neg => (.zero neg, 0)
  | .inf false => (.inf false, 0)
  | .inf true => (.nan, fINV)
  | .fin m e =>
    if m < 0 then (.nan, fINV)
    else
      let k : Nat := 400 + (e % 2).toNat
      let n := m.natAbs * 2 ^ k
      let r := isqrtBits n (Nat.log2 n / 2 + 1) 0
      (.fin (2 * r + (if r * r = n then 0 else 1)) ((e - k) / 2 - 1), 0)

/-- Order of two values that are neither NaN nor poison: a < b. -/
def FVal.lt : FVal → FVal → Bool
  | .inf a, .inf b => a && !b
  | .inf a, _ => a
  | _, .inf b => !b
  | .zero _, .zero _ => false
  | .zero _, .fin m _ => 0 < m
  | .fin m _, .zero _ => m < 0
  | .fin m1 e1, .fin m2 e2 => let (d, _) := dyAdd m1 e1 (-m2) e2; d < 0
  | _, _ => false

/-- Equality of two values that are neither NaN nor poison: the zeros are equal. -/
def FVal.eqv (a b : FVal) : Bool := !(a.lt b) && !(b.lt a)

/-- The smaller value (R126): −0 is below +0, a NaN gives way to the other operand. Poison stays. -/
def FVal.minOf (a b : FVal) : FVal :=
  match a, b with
  | .poison, _ => .poison
  | _, .poison => .poison
  | .nan, y => y
  | x, .nan => x
  | .zero p, .zero q => .zero (p || q)
  | x, y => if y.lt x then y else x

/-- The larger value (R126). -/
def FVal.maxOf (a b : FVal) : FVal :=
  match a, b with
  | .poison, _ => .poison
  | _, .poison => .poison
  | .nan, y => y
  | x, .nan => x
  | .zero p, .zero q => .zero (p && q)
  | x, y => if x.lt y then y else x

/-- v · 2^e. -/
def FVal.scale (v : FVal) (e : Int) : FVal :=
  match v with
  | .fin m pe => .fin m (pe + e)
  | x => x

/-! ## Operand formats (R40, R49) -/

/-- What a format code is. Codes 0 to 19 are R40's; 32 is I32 (R69); 33 names the plane type N32. -/
inductive FmtClass where
  | float (f : FloatFmt)
  | int (w : Nat)
  | nat (w : Nat)
  | m8
  | t2
  | b1
  | none
  deriving DecidableEq, Repr

/-- The class of a format code (R49, R69). -/
def fmtClass : Nat → FmtClass
  | 0 => .float fmtF64 | 1 => .float fmtF32 | 2 => .float fmtW24 | 3 => .float fmtF16 | 4 => .float fmtW16
  | 5 => .int 16 | 6 => .nat 16 | 7 => .int 12 | 8 => .int 8 | 9 => .nat 8 | 10 => .int 6 | 11 => .nat 6
  | 12 => .int 5 | 13 => .m8 | 14 => .int 4 | 15 => .nat 4 | 16 => .int 3 | 17 => .int 2 | 18 => .t2 | 19 => .b1
  | 32 => .int 32 | 33 => .nat 32
  | _ => .none

/-- The width of a format in bits (R49). -/
def fmtWidth (c : Nat) : Nat :=
  match fmtClass c with
  | .float f => 1 + f.ebits + f.fbits
  | .int w => w | .nat w => w | .m8 => 25 | .t2 => 2 | .b1 => 1 | .none => 0

/-- The three digits of an M8 element (R54). -/
structure Digits where
  d0 : Nat
  d1 : Nat
  d2 : Nat
  deriving DecidableEq, Repr

/-- The digits that an element holds, canonical or not. -/
def digitsOf (bits : Nat) : Digits := { d0 := bits % 256, d1 := bits / 256 % 256, d2 := bits / 65536 % 512 }

/-- Poison (R55): the first digit is 255 or the third is 257 or more. -/
def Digits.poison (d : Digits) : Bool := 255 ≤ d.d0 || 257 ≤ d.d2

/-- The bits of an element of three digits. -/
def Digits.bits (d : Digits) : Nat := d.d0 + 256 * d.d1 + 65536 * d.d2

/-- The digits of an integer (R54). -/
def Digits.ofInt (x : Int) : Digits :=
  { d0 := (x % 255).toNat, d1 := (x % 256).toNat, d2 := (x % 257).toNat }

/-- CRT of three canonical digits (R56). -/
def crt (d : Digits) : Int :=
  let u := (d.d0 * 8421376 + d.d1 * 16711425 + d.d2 * 8421120) % 16776960
  if 8388480 ≤ u then (u : Int) - 16776960 else u

/-- The canonical poison of M8 (R55). -/
def poisonM8 : Nat := 0x01FFFFFF

/-- Two's complement of a w-bit pattern. -/
def signedOf (w bits : Nat) : Int := if bits < 2 ^ (w - 1) then (bits : Int) else (bits : Int) - 2 ^ w

/-- The value that an element's bits hold in a format (R49, R53, R54). -/
def fmtValue (c bits : Nat) : FVal :=
  let b := bits % 2 ^ fmtWidth c
  match fmtClass c with
  | .float f => f.value b
  | .int w => FVal.ofInt (signedOf w b)
  | .nat _ => FVal.ofInt b
  | .m8 => if (digitsOf b).poison then .poison else FVal.ofInt (crt (digitsOf b))
  | .t2 => if b = 0 then .zero false else if b = 1 then .fin 1 0 else if b = 3 then .fin (-1) 0 else .poison
  | .b1 => if b = 0 then .fin (-1) 0 else .fin 1 0
  | .none => .zero false

/-- The integer that a value rounds to, clamped to lo..hi, with the flags of R70. -/
def toIntClamp (mode : Rnd) (lo hi : Int) : FVal → Int × FlagSet
  | .fin m e =>
    let (x, inx) := roundInt mode m e
    if hi < x then (hi, fSAT) else if x < lo then (lo, fSAT) else (x, flagIf inx fINX)
  | .zero _ => (0, 0)
  | .inf neg => (if neg then lo else hi, fSAT)
  | .nan => (0, fINV)
  | .poison => (0, fPSN)

/-- R70: a value converted to a format, as bits, with the flags. A NaN converted to B1 sets INV and not INX.
DESIGN CHOICE (log 104). -/
def convert (mode : Rnd) (c : Nat) (v : FVal) : Nat × FlagSet :=
  let clampTo (w : Nat) (lo hi : Int) (pois : Nat) : Nat × FlagSet :=
    if v = .poison then (pois, fPSN)
    else
      let (x, fl) := toIntClamp mode lo hi v
      ((x % 2 ^ w).toNat, fl)
  match fmtClass c with
  | .float f => f.round mode v
  | .int w => clampTo w (-(2 ^ (w - 1))) (2 ^ (w - 1) - 1) (2 ^ (w - 1))
  | .nat w => clampTo w 0 (2 ^ w - 1) 0
  | .m8 =>
    if v = .poison then (poisonM8, fPSN)
    else
      let (x, fl) := toIntClamp mode (-8388480) 8388479 v
      ((Digits.ofInt x).bits, fl)
  | .t2 => clampTo 2 (-1) 1 2
  | .b1 =>
    match v with
    | .poison => (0, fPSN)
    | .nan => (1, fINV)
    | .inf neg => (if neg then 0 else 1, fINX)
    | .zero _ => (1, fINX)
    | .fin m e =>
      let (x, _) := roundInt mode m e
      (if 0 ≤ x then 1 else 0, flagIf (!(FVal.eqv v (.fin 1 0) || FVal.eqv v (.fin (-1) 0))) fINX)
  | .none => (0, 0)

/-- A digit-wise operation on two M8 elements: 0 add, 1 subtract, 2 multiply (R58); poison gives the canonical poison. -/
def m8Op (op : Nat) (a b : Nat) : Nat × FlagSet :=
  let x := digitsOf a
  let y := digitsOf b
  if x.poison || y.poison then (poisonM8, fPSN)
  else
    let f (m p q : Nat) : Nat := if op = 0 then (p + q) % m else if op = 1 then (p + (m - q % m)) % m else p * q % m
    (({ d0 := f 255 x.d0 y.d0, d1 := f 256 x.d1 y.d1, d2 := f 257 x.d2 y.d2 } : Digits).bits, 0)

/-! ## Matrix accumulation (R62 to R68) -/

/-- An accumulator: a float of the path's format, a 32-bit signed integer, or three digits. -/
inductive Acc where
  | float (f : FloatFmt) (bits : Nat)
  | i32 (x : Int)
  | m8 (d : Digits)
  deriving DecidableEq, Repr

/-- acc + v, rounded once to the accumulator's format (R62, R64). -/
def accAddFloat (mode : Rnd) (f : FloatFmt) (bits : Nat) (v : FVal) : Nat × FlagSet :=
  let (s, f1) := FVal.add mode (f.value bits) v
  let (b, f2) := f.round mode s
  (b, f1 ||| f2)

/-- x · 2^e exactly; an x of 0 is +0 (R64). -/
def scaledInt (x e : Int) : FVal := FVal.ofDyadic false x e

/-- A float term A · B · 2^e exactly (R62). -/
def scaledProduct (a b : FVal) (e : Int) : FVal × FlagSet :=
  let (p, f) := FVal.mul a b
  match p with
  | .fin m pe => (.fin m (pe + e), f)
  | q => (q, f)

/-- SAT32 (R65). -/
def sat32 (x : Int) : Int × Bool :=
  if x < -(2 ^ 31) then (-(2 ^ 31), true) else if 2 ^ 31 - 1 < x then (2 ^ 31 - 1, true) else (x, false)

/-- COMBINE of a chunk's exact sum x (digits d) under the scale exponent e (R64, R65, R66). -/
def combine (mode : Rnd) (acc : Acc) (x : Int) (d : Digits) (e : Int) : Acc × FlagSet :=
  match acc with
  | .float f b =>
    let (b', fl) := accAddFloat mode f b (scaledInt x e)
    (.float f b', fl)
  | .i32 a =>
    let (t, inx) := if x = 0 then ((0 : Int), false) else roundInt mode x e
    let (s, sat) := sat32 (a + t)
    (.i32 s, flagIf inx fINX ||| flagIf sat fSAT)
  | .m8 a =>
    (.m8 { d0 := (a.d0 + d.d0) % 255, d1 := (a.d1 + d.d1) % 256, d2 := (a.d2 + d.d2) % 257 }, 0)

/-- FINISH: the accumulator in the destination format `c` (R68, R70). -/
def finish (mode : Rnd) (c : Nat) : Acc → Nat × FlagSet
  | .float f b => if fmtClass c = .float f then (b, 0) else convert mode c (f.value b)
  | .i32 x => ((x % 2 ^ 32).toNat, 0)
  | .m8 d => (d.bits, 0)

/-- What a poisoned output element receives (R67). -/
def poisonResult (c : Nat) : Nat :=
  match fmtClass c with
  | .float f => f.nanBits
  | .m8 => poisonM8
  | _ => 2 ^ 31

/-- The lowest flag of a set, as a class-7 cause index minus one (R61). -/
def lowestFlag (f : FlagSet) : Option Nat := (List.range 7).find? (fun i => f.getLsbD i)

end Sys2Proof.Machine
end

