-- ==== Sys2Proof/Machine/State.lean ====
section
/-!
DEFINITION. The state of one MKS-9640 package: every piece of state the spec names, as plain data. Units that exist many
times are sparse tables under a number:
core key = die × 192 + cluster × 4 + core; context key = core key × 16 + slot (0 control, 1 to 10 helpers, 14 translator),
controllers at 65,536 + controller number; cluster key = die × 48 + cluster; world-die key = world × 4 + die;
barrier node = cluster key, 200 + die, or 300 for the package; group key = node × 16 + group. Dies are physical numbers.
-/
namespace Sys2Proof.Machine

/-! ## Contexts -/

/-- What a context is (R71). -/
inductive CtxKind where
  | control | helper | translator | controller
  deriving DecidableEq, Repr

/-- Whether a context issues. -/
inductive Run where
  /-- A free helper slot, a core without a slice, a controller in reset. -/
  | free
  /-- It issues. -/
  | live
  /-- A helper whose exit value has not been joined (R79). -/
  | ended
  /-- `hquit`, `halt` or the last `ret` of a helper that waits for its counters (R82). -/
  | ending
  /-- Stopped by a cause routed to the host (R174). -/
  | stopped
  /-- Stopped at its boundary for a save that is due (R182). -/
  | held
  /-- The control context has reported done (R288). -/
  | done
  /-- A controller stopped by `halt` or by a double fault (R313, R314). -/
  | halted
  deriving DecidableEq, Repr

/-- A pending asynchronous cause (R170). -/
structure PCause where
  cause : Cause
  taddr : Word
  tinfo : Word
  deriving DecidableEq, Repr

/-- The trap state of a context (R167, R168, R172, R173). -/
structure TrapRegs where
  tpc : BitVec 48
  cause : Cause
  async : Bool
  ppriv : Bool
  active : Bool
  lost : BitVec 8
  taddr : Word
  tinfo : Word
  tvec : BitVec 48
  upvec : BitVec 48
  busy : Bool
  deriving DecidableEq, Repr

/-- An accepted arrival whose `wait` has not returned (R197 to R199). -/
structure Arrival where
  scope : Nat
  group : Nat
  closed : BitVec 16
  /-- Journal entries drained for the barrier and not yet acknowledged. -/
  entries : List Nat
  refused : Bool
  signalled : Bool
  /-- GEN and the clk from which the `wait` may return, once the barrier has completed. -/
  released : Option (BitVec 16 × Nat)
  deriving DecidableEq, Repr

/-- A late report noted for the instruction that waits for its demand (R162): of faults (cause 0x081), or of enabled
arithmetic flags (a class-7 cause). -/
structure Late where
  cause : Cause
  taddr : Word
  tinfo : Word
  /-- The age of the oldest node concerned, whose PC is TADDR. -/
  age : Nat
  /-- The nodes concerned, by age, with their appending PCs. -/
  nodes : List (Nat × BitVec 48)
  /-- The demand that released them. -/
  demand : Nat
  deriving DecidableEq, Repr

/-- A collective handle of a context (R391, R393). -/
structure Handle where
  view : Nat
  tag : BitVec 16
  seq : Nat
  /-- 5 while it runs, then the status that `cwait` returns. -/
  status : Nat
  flags : FlagSet
  desc : List Word
  deriving DecidableEq, Repr

/-- Translator registers (R297). -/
structure MeterRegs where
  meter : Word
  lim : Word
  pwBase : Word
  pwLim : Word
  owBase : Word
  owLim : Word
  xwBase : Word
  xwLim : Word
  deriving DecidableEq, Repr

/-- A context (R71). -/
structure Ctx where
  kind : CtxKind
  run : Run
  world : Nat
  /-- Physical die, cluster, logical core, slot; a controller's number in `core`. -/
  die : Nat
  cluster : Nat
  core : Nat
  slot : Nat
  pc : BitVec 48
  priv : Bool
  /-- Resident registers by stack position modulo 64 (R75). -/
  regs : Tbl Word
  fb : Word
  wlow : Word
  bsp : Word
  bsl : Word
  ba : Word
  /-- k1 to k7 (R120). -/
  masks : Tbl (BitVec 4096)
  loads : Nat
  stores : Nat
  copies : Nat
  tiles : Nat
  ast : Word
  hgrant : BitVec 16
  /-- SHAPEG (R119). -/
  planes : BitVec 16
  rows : Nat
  cols : Nat
  trap : TrapRegs
  pending : List PCause
  /-- Upcalls held back until the next instruction retires (R173). -/
  holdBack : Bool
  notices : List Word
  notqOvf : Bool
  pnote : BitVec 32
  preq : Bool
  /-- The clk at which PDEAD reaches 0, while it counts (R180). -/
  pdeadAt : Option Nat
  restored : Bool
  exitValue : Word
  exitReason : Nat
  arrivals : List Arrival
  /-- Words fetched ahead, the first at PC (R292). -/
  fetched : List Word32
  /-- A fetch outstanding, by request number. -/
  fetching : Option Nat
  /-- The clk at which the fetch was made. -/
  fetchAt : Nat
  slipFrozen : BitVec 32
  slipEvents : BitVec 32
  /-- Slice registers (R286). -/
  gidx : Word
  ginfo : Word
  arg : Word
  grank : Word
  meter : MeterRegs
  /-- Stage of the instruction at PC that waits in several steps, and what it waits for. -/
  phase : Nat
  waitEntries : List Nat
  /-- Entries of the last publication that has not retired: the instruction executed afresh waits for them too (R204, R205). -/
  owed : List Nat
  waitSubs : List (Nat × Nat)
  released : Nat
  demandFault : Bool
  /-- The age that bounds a demand under way, and its number. -/
  demandAge : Option Nat
  demandId : Nat
  /-- The ages of the nodes that the instruction forces fully (R154, R155). -/
  forcing : List Nat
  lates : List Late
  /-- The clk at which a waiting `recv` gives up (R382). -/
  limitAt : Option Nat
  /-- Rank bound to the context (R377). -/
  rank : Option Nat
  handles : Tbl (Option Handle)
  /-- The clk of the last pulse, and the watchdog (R291). -/
  pulse : Nat
  /-- Controller interrupt registers CIPEND, CIEN, CIVEC, CIRET, CFAULT, CFADDR, CFINFO (R311). -/
  cipend : Word
  cien : Word
  civec : Word
  ciret : Word
  cfault : Word
  cfaddr : Word
  cfinfo : Word
  waiting : Bool
  deriving DecidableEq, Repr

def TrapRegs.zero : TrapRegs :=
  { tpc := 0, cause := 0, async := false, ppriv := false, active := false, lost := 0, taddr := 0, tinfo := 0,
    tvec := 0, upvec := 0, busy := false }

def MeterRegs.zero : MeterRegs :=
  { meter := 0, lim := 0, pwBase := 0, pwLim := 0, owBase := 0, owLim := 0, xwBase := 0, xwLim := 0 }

/-- A context that does not exist: the default of the table. Every register has its reset value. -/
def Ctx.empty : Ctx :=
  { kind := .control, run := .free, world := 0, die := 0, cluster := 0, core := 0, slot := 0, pc := 0, priv := false,
    regs := [], fb := 0, wlow := 0, bsp := 0, bsl := 0, ba := 0, masks := [], loads := 0, stores := 0, copies := 0,
    tiles := 0, ast := 0, hgrant := 0, planes := 0, rows := 0, cols := 0, trap := TrapRegs.zero, pending := [],
    holdBack := false, notices := [], notqOvf := false, pnote := 8192, preq := false, pdeadAt := none,
    restored := false, exitValue := 0, exitReason := 0, arrivals := [], fetched := [], fetching := none, fetchAt := 0,
    slipFrozen := 0, slipEvents := 0, gidx := 0, ginfo := 0, arg := 0, grank := 0, meter := MeterRegs.zero,
    phase := 0, waitEntries := [], owed := [], waitSubs := [], released := 0, demandFault := false, demandAge := none, demandId := 0, forcing := [], lates := [],
    limitAt := none, rank := none, handles := [], pulse := 0, cipend := 0, cien := 0, civec := 0, ciret := 0, cfault := 0, cfaddr := 0,
    cfinfo := 0, waiting := false }

/-! ## Cores -/

/-- Where a journal entry is (R146, R148). -/
inductive JSt where
  /-- It rests. -/
  | resting
  /-- It belongs to a drain and has not left: its context's stores counter is at 63, or an older entry for the granule
  has not been performed. -/
  | leaving
  /-- It has left; its request is at the owner. -/
  | inflight
  /-- Performed at its owner; the acknowledgement is on its way. -/
  | performed
  /-- Refused at its owner; the acknowledgement is on its way. -/
  | refused
  deriving DecidableEq, Repr

/-- A journal entry (R146). -/
structure JEntry where
  /-- Number in order of creation. -/
  id : Nat
  /-- Entry number 0 to 511. -/
  slot : Nat
  /-- Granule address: VA with bits 5:0 zero. -/
  gran : Word
  mask : BitVec 64
  data : BitVec 512
  phase : BitVec 16
  ctxSlot : Nat
  pc : BitVec 48
  /-- The instruction that created it, and the addresses of the store elements whose bytes it holds (R136, R164). -/
  instr : Nat
  elems : List Word
  /-- The clk of its first park reply, and whether 0x061 was raised (R258). -/
  parkedAt : Option Nat
  noticed : Bool
  st : JSt
  /-- The request at the owner, once it has left. -/
  req : Option Nat
  deriving DecidableEq, Repr

/-- What a store instruction's refused entries have gathered (R136, R164). -/
structure StReport where
  instr : Nat
  ctxSlot : Nat
  pc : BitVec 48
  taddr : Word
  slot : Nat
  count : Nat
  deriving DecidableEq, Repr

/-- A siding node (the siding, R154). Bitmaps are indexed by sub-tile. -/
structure Node where
  slot : Nat
  /-- The command word, as a save keeps it (R184). -/
  word : BitVec 32
  cls : BitVec 3
  func : BitVec 7
  a : Word
  b : Word
  ctxSlot : Nat
  /-- The helper that appended it has ended (R82): no context counts it. -/
  orphan : Bool := false
  pc : BitVec 48
  age : Nat
  nsub : Nat
  done : BitVec 64
  out : BitVec 64
  /-- Dropped or faulted sub-tiles. -/
  gone : BitVec 64
  faulted : Bool
  /-- Journal entries drained by its append and not yet acknowledged (R154). -/
  holds : List Nat
  deriving DecidableEq, Repr

/-- A superstep of a member core (R337 to R342). -/
structure Snap where
  isOpen : Bool
  unrec : Bool
  /-- Number of supersteps opened in the slice, of rollbacks in the slice, and of rollbacks of this superstep. -/
  number : Nat
  rbcnt : Nat
  rolled : Nat
  /-- Its scope and group, the phase that its opening arrival closed, and the phase of a closing arrival. -/
  scope : Nat
  group : Nat
  closed : BitVec 16
  closing : Option (BitVec 16)
  /-- Records used in the log area, the places recorded, and OVF. -/
  used : Nat
  recorded : List Nat
  ovf : Bool
  /-- The status that the `wait` of its opening barrier returned: a rollback returns it again (R341). -/
  waited : Option Word
  deriving DecidableEq, Repr

def Snap.empty : Snap :=
  { isOpen := false, unrec := false, number := 0, rbcnt := 0, rolled := 0, scope := 0, group := 0, closed := 0,
    closing := none, used := 0, recorded := [], ovf := false, waited := none }

/-- A message in a receive queue (R380). -/
structure RecvMsg where
  slot : Nat
  sender : Word32
  len : Nat
  data : List Byte
  time : Word
  deriving DecidableEq, Repr

/-- A core (R117, R146, R154, R169, R193). -/
structure Core where
  /-- p0 to p15 by plane × 2,048 + row × 64 + column. -/
  planes : Tbl Word32
  journal : List JEntry
  fullCnt : Nat
  phase : BitVec 16
  reports : List StReport
  siding : List Node
  nextAge : Nat
  ovfCnt : Nat
  aliasCnt : Nat
  route : BitVec 32
  wdwin : BitVec 32
  savep : BitVec 48
  /-- The world's tag, and the slice placed here (none: free). -/
  world : Nat
  slice : Option Nat
  /-- Leaf masks that the core's contexts were scheduled with (R48). -/
  masked : BitVec 32
  /-- The PC that the next unplaced contexts take is set by placement; a save is due (R182). -/
  saveDue : Bool
  atYield : Bool
  saved : Bool
  /-- PDEAD as the slice loaded it (R180). -/
  pdead : BitVec 32
  /-- The receive queue, and the entries of the message ring that wait to enter it: next index and end (R380). -/
  recvQ : List RecvMsg
  ringNext : Nat
  ringEnd : Nat
  /-- The superstep that is open, and the one before it until its closing barrier completes (R340). -/
  snap : Snap
  older : Option Snap
  /-- The pipes (plane pipe: true) and slots that issued in clk `issueAt`, and the slot that each pipe issued last (R144). -/
  issueAt : Nat
  issued : List (Bool × Nat)
  lastScalar : Nat
  lastPlane : Nat
  /-- CYCLE at the start of the save that is due (R185). -/
  saveAt : Word
  deriving DecidableEq, Repr

def Core.empty : Core :=
  { planes := [], journal := [], fullCnt := 0, phase := 0, reports := [], siding := [], nextAge := 0, ovfCnt := 0,
    aliasCnt := 0, route := 0x55555555, wdwin := 0, savep := 0, world := 0, slice := none, masked := 0,
    saveDue := false, atYield := false, saved := false, pdead := 0, recvQ := [], ringNext := 0, ringEnd := 0,
    snap := Snap.empty, older := none, issueAt := 0, issued := [], lastScalar := 10, lastPlane := 10, saveAt := 0 }

/-! ## Accesses on their way -/

/-- Where the value of a load-type instruction goes. -/
inductive Dest where
  | none
  /-- A stack position (R75). -/
  | reg (pos : Nat)
  /-- A plane of the core. -/
  | plane (p : Nat)
  deriving DecidableEq, Repr

/-- A load-type instruction with requests out (R92, R137, R142, R269). -/
structure Op where
  id : Nat
  ctx : Nat
  pc : BitVec 48
  dest : Dest
  /-- Requests not yet returned, refused elements, the va of the first of them in element order. -/
  left : Nat
  refused : Nat
  firstRef : Option (Nat × Word)
  /-- The class-2 cause of a refusal: 0x042, or 0x043 of a vector atomic. -/
  cause : Cause
  /-- The clk of the first park reply with the va of its request, and whether 0x061 was raised (R258). -/
  parkedAt : Option Nat
  parkVa : Word
  noticed : Bool
  /-- `.acq`: later memory instructions wait (R270). -/
  acq : Bool
  /-- Flags that elements of a `vamo` have brought back (R142). -/
  flags : FlagSet
  deriving DecidableEq, Repr

/-- The kind of a request. -/
inductive ReqKind where
  /-- A load of `size` bytes. -/
  | load
  /-- An atomic: operator 0 to 6 of R35, 7 compare and swap; `float` for an F32 element. -/
  | atomic (o : Nat) (operand expect : Word) (float : Bool)
  /-- A bit element of w bits from bit `sh` of the first byte (R110, R140). -/
  | bits (sh w : Nat)
  /-- A journal entry that left in a drain. -/
  | drain (entry : Nat)
  /-- An instruction fetch of one line. -/
  | fetch
  /-- `xlat` (R295). -/
  | xlat
  /-- A fill of a future (R207). -/
  | fill (v : Word)
  /-- `ldsc`, `stsc`, `amosc` with its operator; the clk of issue (R271). -/
  | sc (write : Bool) (read : Bool) (o : Nat) (operand : Word) (t : Nat)
  /-- A translator's store (R298). -/
  | store (v : Nat)
  /-- An engine's read of a far granule range, and its masked write (R222, R233). -/
  | engRead (cluster seq : Nat)
  | engWrite (cluster seq : Nat) (data : List (BitVec 8)) 
  deriving DecidableEq, Repr

/-- Where a request is (R256, R404). -/
inductive ReqSt where
  /-- On its way to its owner, or held there. -/
  | sent
  /-- It waits at the input of the translation unit behind misses of its world (R257). -/
  | input
  /-- A walk is under way; it started at the clk given. -/
  | walking (t : Nat)
  /-- Its walk has ended in a park, and waits in its walker for an entry of the park table (R257). -/
  | walked
  /-- In the park table. -/
  | parked
  /-- A merge read has locked the granule (R238). -/
  | merging
  /-- Answered: the value, the flags it raised, and whether it was refused. -/
  | replied (v : Nat) (flags : FlagSet) (refused : Bool)
  deriving DecidableEq, Repr

/-- A request (one element, granule or fetch). -/
structure Req where
  id : Nat
  kind : ReqKind
  /-- The instruction it belongs to (0: none), and the element's position: sign and extension for a register. -/
  op : Nat
  elem : Nat
  signed : Bool
  ctx : Nat
  world : Nat
  /-- The issuing physical die and cluster. -/
  die : Nat
  cluster : Nat
  va : Word
  size : Nat
  /-- The package and physical die that its NI sent it to: none where the die map refuses it (R250). -/
  route : Option (Nat × Nat)
  /-- Bytes that the journal forwards, by offset. -/
  fwd : List (Nat × BitVec 8)
  st : ReqSt
  /-- The permission entry of the page request it waits on (stage 1 or 2, page), while parked. -/
  page : Option (Nat × Nat)
  /-- It has parked (R258). -/
  hasParked : Bool := false
  /-- Its place in the order of arrival, once it has reached its owner and could not be performed (R238, R257, R266, R308). -/
  arrived : Option Nat := none
  /-- The granule that it is held for, and whether by the recall of a lease: otherwise by a merge (R238, R266). -/
  heldAt : Option (Nat × Bool) := none
  /-- The physical address that its translation gave, while it is held (R263). -/
  pa : Option Nat := none
  deriving DecidableEq, Repr

/-! ## Clusters -/

/-- A tensor identifier (R214, R215, R219). -/
structure Tid where
  defined : Bool
  w0 : Word
  w1 : Word
  w2 : Word
  w3 : Word
  /-- IOR and the sticky flags. -/
  status : BitVec 8
  deriving DecidableEq, Repr

def Tid.empty : Tid := { defined := false, w0 := 0, w1 := 0, w2 := 0, w3 := 0, status := 0 }

/-- A task type (R239). -/
structure TaskType where
  defined : Bool
  w0 : Word
  w1 : Word
  w2 : Word
  w3 : Word
  deriving DecidableEq, Repr

def TaskType.empty : TaskType := { defined := false, w0 := 0, w1 := 0, w2 := 0, w3 := 0 }

/-- What a pool entry came from (R220). -/
inductive Src where
  | node (core age : Nat)
  | copy (id : Nat)
  | task (id : Nat)
  deriving DecidableEq, Repr

/-- What a sub-tile yields: rows of DST bits (row, first column, element bits), flags and IOR. -/
structure SubOut where
  rows : List (Nat × Nat × List Nat)
  flags : FlagSet
  ior : Bool
  deriving DecidableEq, Repr

/-- A ready pool entry, or one that waits for a place (R220). -/
structure PoolEntry where
  seq : Nat
  cls : BitVec 3
  func : BitVec 7
  a : Word
  b : Word
  sub : Nat
  src : Src
  /-- The scratch offset in bytes added to SCRATCH identifiers (R243). -/
  scratch : Nat
  /-- The core and context slot that issued it. -/
  core : Nat
  ctxSlot : Nat
  /-- The context whose instruction released it, and its demand (R162). -/
  demand : Option (Nat × Nat)
  inF : List (Nat × Nat)
  outF : List (Nat × Nat)
  /-- The engine that runs it: 0, 1 the matrix engines, 2 the copy engine. -/
  engine : Option Nat
  /-- Every far granule that it writes has been sent. -/
  sent : Bool
  /-- Journal entries that must be acknowledged before it is released (core, entry). -/
  holds : List (Nat × Nat)
  /-- The fault that its reads met, and what it computed from them, once it has issued (R222, R336). -/
  faulted : Option Cause
  out : Option SubOut := none
  /-- The clk in which its insertion began (R220). -/
  since : Nat := 0
  deriving DecidableEq, Repr

/-- A copy command (R233, R235). -/
structure CopyCmd where
  id : Nat
  core : Nat
  ctxSlot : Nat
  /-- The helper that issued it has ended (R82): no context counts it. -/
  orphan : Bool := false
  pc : BitVec 48
  a : Word
  left : Nat
  faults : Nat
  firstInfo : Word
  /-- The bytes that it reads or writes (R223). -/
  foot : List (Nat × Nat) := []
  deriving DecidableEq, Repr

/-- A converted task record (R243). -/
structure TaskRec where
  id : Nat
  ty : Nat
  live : Nat
  core : Nat
  ctxSlot : Nat
  /-- The helper that pushed it has ended (R82): no context counts it. -/
  orphan : Bool := false
  ring : Word
  left : Nat
  faults : Nat
  firstInfo : Word
  /-- The bytes that it reads or writes (R223). -/
  foot : List (Nat × Nat) := []
  deriving DecidableEq, Repr

/-- A waiter of the futures wait table (R208, R209). -/
structure Waiter where
  ctx : Nat
  off : Nat
  /-- The clk from which it may be woken, once its cell has been filled. -/
  due : Option Nat
  deriving DecidableEq, Repr

/-- An instruction cache line (R292). -/
structure Line where
  world : Nat
  va : Nat
  words : List Word32
  deriving DecidableEq, Repr

/-- A line of the lease buffer (R266). -/
structure Lease where
  line : Nat
  /-- Recalled by the owner; the writeback is on its way. -/
  recalled : Bool
  deriving DecidableEq, Repr

/-- A cluster. -/
structure Cluster where
  tids : Tbl Tid
  pool : List PoolEntry
  poolWait : List PoolEntry
  nextSeq : Nat
  poolFull : Nat
  /-- The clk since which an insertion waits for room. -/
  poolSince : Option Nat
  /-- The clk in which entries last left the pool, and how many did (R220). -/
  freedAt : Nat
  freedNow : Nat
  copies : List CopyCmd
  tasks : List TaskRec
  nextId : Nat
  types : Tbl TaskType
  tqBase : Word
  tqEn : Bool
  tqLog : Nat
  tqHead : BitVec 16
  tqTail : BitVec 16
  /-- Journal entries drained by a `tenq`, by tail index (R243). -/
  tqHolds : List (Nat × Nat × Nat)
  /-- Helpers that have ended with records in the ring, and how many records from HEAD may be theirs (R82, R243). -/
  tqLeft : List (Nat × Nat) := []
  waiters : List Waiter
  futFull : Nat
  leases : List Lease
  leaseRefused : List Nat
  /-- The predictor: line and the clk of its atomics within the window. -/
  predictor : List (Nat × List Nat)
  recalls : Nat
  grants : Nat
  l1i : List Line
  /-- The world whose key is loaded (R237). -/
  keyWorld : Option Nat
  quarantine : BitVec 5
  /-- MAP0 to MAP3 (R345). -/
  map0 : BitVec 3
  map1 : BitVec 3
  map2 : BitVec 3
  map3 : BitVec 3
  /-- Unit memories that changes of MAP copy: from and to of each change in order, with the clk at which its copy ends
  (R345). -/
  copying : List (Nat × List (Nat × Nat))
  gated : Nat
  ungateAt : Option Nat
  deriving DecidableEq, Repr

def Cluster.empty : Cluster :=
  { tids := [], pool := [], poolWait := [], nextSeq := 0, poolFull := 0, poolSince := none, freedAt := 0, freedNow := 0, copies := [], tasks := [], nextId := 1,
    types := [], tqBase := 0, tqEn := false, tqLog := 0, tqHead := 0, tqTail := 0, tqHolds := [], waiters := [],
    futFull := 0, leases := [], leaseRefused := [], predictor := [], recalls := 0, grants := 0, l1i := [],
    keyWorld := none, quarantine := 0, map0 := 0, map1 := 1, map2 := 2, map3 := 3, copying := [], gated := 0,
    ungateAt := none }

/-! ## Barriers -/

/-- A barrier group (R194 to R198). -/
structure Group where
  mask : Word
  step : Nat
  gen : BitVec 16
  state : Nat
  arrived : List Nat
  drained : List Nat
  /-- The step that the draining barrier keeps, and the clk of its last arrival and last drained signal. -/
  stepNow : Nat
  lastArrive : Nat
  lastSignal : Nat
  deriving DecidableEq, Repr

def Group.empty : Group :=
  { mask := 0, step := 0, gen := 0, state := 0, arrived := [], drained := [], stepNow := 0, lastArrive := 0,
    lastSignal := 0 }

/-! ## Dies: translation -/

/-- A translation in a TLB (R255): VA bits 47:16, size code, permissions R, W, X, physical page. -/
structure TlbEntry where
  world : Nat
  page : Nat
  size : Nat
  perm : BitVec 3
  pa : Nat
  deriving DecidableEq, Repr

/-- A page request (R259). -/
structure PageReq where
  id : Nat
  stage : Nat
  page : Nat
  kinds : BitVec 3
  /-- Outstanding in the queue, or waiting for a queue entry. -/
  posted : Bool
  /-- Read by its reader: COUNT as fixed at the read. -/
  read : Bool
  deriving DecidableEq, Repr

/-- What a world has on a die (R251, R261, R276, R377). -/
structure WorldDie where
  clusters : BitVec 48
  dmRanges : List (Nat × Nat)
  /-- The SCTL's stage-2 leaves: entries that a GA page selects, by GA bits 47:16, and 1 GiB leaves, by GA bits 47:30. -/
  stage2 : Tbl Word
  stage2g : Tbl Word
  s1root : Word
  requests : List PageReq
  nextReq : BitVec 16
  /-- The request that PRQ1 removed last, and the contexts that read its word 1 next (R261). -/
  halfRead : Option Word
  halfCtx : List Nat
  pfHalf : Option Word
  stray : Nat
  rbase : Word
  ren : Bool
  rstop : Bool
  rlog : Nat
  rhead : BitVec 16
  rtail : BitVec 16
  cbase : Word
  cen : Bool
  cie : Bool
  clog : Nat
  ctail : BitVec 16
  chead : BitVec 16
  icbase : Word
  icsize : Word
  /-- Output windows of admissions that failed: they keep what their translators wrote until their room is needed (R24). -/
  stale : List (Nat × Nat)
  /-- Held completions, 32 bytes each as four words (R280). -/
  heldDone : List (List Word)
  rtbase : Word
  rtlen : Word
  /-- EINJA, XSEED, XCTL and the injections armed for the next granule written: mode and bit of each (R346, R347). -/
  einja : Word
  xseed : Word
  xen : Bool
  xrate : BitVec 32
  armed : List (Nat × Nat)
  /-- The clk up to which the injector has stepped (R347). -/
  xat : Nat
  deriving DecidableEq, Repr

def WorldDie.empty : WorldDie :=
  { clusters := 0, dmRanges := [], stage2 := [], stage2g := [], s1root := 0, requests := [], nextReq := 0, halfRead := none, halfCtx := [],
    pfHalf := none, stray := 0, rbase := 0, ren := false, rstop := false, rlog := 0, rhead := 0, rtail := 0, cbase := 0,
    cen := false, cie := false, clog := 0, ctail := 0, chead := 0, icbase := 0, icsize := 0, stale := [], heldDone := [],
    rtbase := 0, rtlen := 0, einja := 0, xseed := 1, xen := false, xrate := 0, armed := [], xat := 0 }

/-- A context's rank while its slice is away (R378). -/
structure Away where
  world : Nat
  rank : Nat
  cluster : Nat
  core : Nat
  slot : Nat
  savep : Word
  slice : Nat
  deriving DecidableEq, Repr

/-- A fabric or die-to-die link (R325). -/
structure Link where
  up : BitVec 8
  count : Nat
  training : Option Nat
  /-- The nonce counter of the frames that it has received (R374). -/
  nonce : Word
  deriving DecidableEq, Repr

def Link.empty : Link := { up := 0xFF, count := 0, training := none, nonce := 0 }

/-- A die (R250, R255, R292, R325, R333, R335, R376 to R378). -/
structure Die where
  /-- The die's own logical number (R249). -/
  logical : BitVec 15
  dieMap : Tbl Word32
  tlb : List TlbEntry
  /-- Walks that began before a drop install nothing that overlaps its range: request, start, length (R262). -/
  noInstall : List (Nat × Nat × Nat)
  /-- The clk at which leases of a line were recalled (R266). -/
  recallMarks : List (Nat × Nat)
  l2i : List Line
  elCe : Nat
  elUe : Nat
  strikes : Nat
  revokes : Nat
  /-- Rank table entries that the NI holds, by world × 2^20 + rank. -/
  rankCache : Tbl (Option Word32)
  away : List Away
  awayLost : Nat
  retries : Nat
  discards : Nat
  links : Tbl Link
  /-- CGATE (R323). -/
  cgate : BitVec 48
  /-- The world whose ring is served next (R278). -/
  ringTurn : Nat
  /-- CYCLE of the signal box's last check (R290). -/
  checkedAt : Option Word
  deriving DecidableEq, Repr

def Die.empty : Die :=
  { logical := 0, dieMap := [], tlb := [], noInstall := [], recallMarks := [], l2i := [], elCe := 0, elUe := 0, strikes := 0,
    revokes := 0, rankCache := [], away := [], awayLost := 0, retries := 0, discards := 0, links := [],
    cgate := 0, ringTurn := 0, checkedAt := none }

/-! ## Worlds -/

/-- A world's TDISP state (R350). -/
inductive Tdisp where
  | unlocked | locked | run | error
  deriving DecidableEq, Repr

/-- A world (R350 to R362). -/
structure World where
  tdisp : Tdisp
  /-- World 0 in DEBUG: bound without a lock (R350). -/
  debugBound : Bool
  /-- The settings loaded at placement (R354). -/
  route : BitVec 32
  wdwin : BitVec 32
  tvec : BitVec 48
  masked : BitVec 32
  test : Bool
  /-- Key slots 0 to 3 (R360): none when not loaded. -/
  keys : Tbl (Option (List Byte))
  /-- The flacon verification key: exponent and modulus (R362). -/
  vkey : Option (Nat × List Byte)
  /-- Its SPDM session with the SCTL: 0 none, 1 keys exchanged, 2 established (R351, R356). -/
  session : Nat
  /-- Keys of its IDE stream are programmed (R351). -/
  ide : Bool
  /-- The key of slot 0 under which its sealed memory was written last (R361). -/
  lastKey : Option (List Byte)
  deriving DecidableEq, Repr

def World.empty : World :=
  { tdisp := .unlocked, debugBound := false, route := 0x55555555, wdwin := 0, tvec := 0, masked := 0, test := false,
    keys := [], vkey := none, session := 0, ide := false, lastKey := none }

/-! ## Jobs, slices, images -/

/-- The fields of a launch parameter block (R281). -/
structure Lpb where
  dimx : Nat
  dimy : Nat
  dimz : Nat
  order : Nat
  swz : Nat
  gcores : Nat
  gclust : Nat
  gdies : Nat
  prio : Nat
  gpkgs : Nat
  bstep : Nat
  twin : Bool
  entry : Word
  arg : Word
  deadline : Nat
  dstep : Nat
  budget : Nat
  pdead : Nat
  image : Nat
  savebase : Word
  snap : Word
  tstart : Word
  joinwin : Nat
  stagep : Word
  deriving DecidableEq, Repr

/-- A stage of a pipeline job (R289). -/
structure Stage where
  entry : Word
  ring : Word
  hi : Nat
  lo : Nat
  min : Nat
  hot : Bool
  deriving DecidableEq, Repr

/-- A snapshot map (R337). -/
structure SnapMap where
  logBase : Word
  logSize : Nat
  regions : List (Word × Nat)
  deriving DecidableEq, Repr

/-- A job (R280, R282). -/
structure Job where
  id : Nat
  world : Nat
  die : Nat
  tag : Nat
  lpb : Lpb
  arrival : Nat
  /-- The next sequence number that has no slice yet, and the number of slices (R282). -/
  next : Nat
  total : Nat
  /-- Slices not complete, slices that ended otherwise than DONE, and the statuses met: UNRESOLVED, INCOMPLETE,
  ABORTED, HALTED. -/
  left : Nat
  notDone : Nat
  statuses : List Nat
  stages : List Stage
  /-- Checks of the signal box so far. -/
  checks : Nat
  snap : Option SnapMap
  /-- VA of its code when the job names an image. -/
  codeVa : Word
  deriving DecidableEq, Repr

/-- Where a slice is (R283 to R288). -/
inductive SliceSt where
  /-- Not placed yet, or requeued. -/
  | waiting
  | placed
  /-- Its cores save, or have saved and wait for the gang tables. -/
  | saving
  | preempted
  /-- Stopped while it rolls back (R341). -/
  | rolling
  | done
  deriving DecidableEq, Repr

/-- A twin-mode run (R343, R344): its cores, records appended as log area and count, and OVERFLOW. -/
structure TwinRun where
  g : Nat
  cores : List Nat
  overflow : Bool
  counts : List (Nat × Nat)
  sum : Word
  status : Nat
  finished : Bool
  /-- A member ended with again = 1 (R289). -/
  again : Bool
  deriving DecidableEq, Repr

/-- What stays with a pre-empted slice besides its save areas: by member its accepted arrivals (R202), its supersteps, its
collective handles, and asynchronous causes that fell due while it was away, by slot. -/
structure Kept where
  member : Nat
  arrivals : List Arrival
  snap : Snap
  older : Option Snap
  handles : Tbl (Option Handle)
  causes : List (Nat × PCause)
  /-- The instruction and the store elements of each journal entry saved, in order, and the reports under way (R164). -/
  entries : List (Nat × List Word)
  storeReports : List StReport
  /-- Slots stopped by a cause routed to the host (R174). -/
  stopped : List Nat
  /-- Slots whose next instruction issues before an upcall is taken: a `putx` of UPFRAME has just retired (R173). -/
  holdBack : List Nat
  deriving DecidableEq, Repr

/-- A context by its place in a slice: the slice, the member, the slot. It stays the same while the slice moves. -/
structure Who where
  slice : Nat
  member : Nat
  slot : Nat
  deriving DecidableEq, Repr

/-- A slice (R282 to R289, R343, R397). -/
structure Slice where
  id : Nat
  job : Nat
  seq : Nat
  x : Nat
  y : Nat
  z : Nat
  deadline : Nat
  st : SliceSt
  /-- Never placed; cores held for it while it waits for others to yield (R283). -/
  fresh : Bool
  holds : List Nat
  /-- Member cores in rank order. -/
  cores : List Nat
  /-- Members that have reported: core, status, again. -/
  reports : List (Nat × Nat × Bool)
  /-- Budget left at `since`, while placed; 0x0C1 was raised. -/
  budget : Nat
  since : Nat
  exhausted : Bool
  stage : Nat
  nextStage : Nat
  movedAt : Option Nat
  aborted : Option Nat
  runs : List TwinRun
  attempt : Nat
  /-- Cores that earlier runs used. -/
  usedCores : List Nat
  tstart : Word
  joined : List Nat
  tries : Nat
  /-- The rank of this package's first core in a gang of several packages. -/
  rankBase : Nat
  kept : List Kept
  keptGroups : List (Nat × Group)
  deriving DecidableEq, Repr

/-- A cached image (R25, R301). -/
structure CachedImage where
  world : Nat
  die : Nat
  handle : Nat
  key : List Byte
  codeVa : Word
  window : Word
  size : Nat
  launched : Nat
  deriving DecidableEq, Repr

/-- The end of an admission (R24, R25, R300): its cause (0: admitted), the offset of the completion, the final METER, and
whether its translator had halted. -/
structure AdmitEnd where
  cause : Cause
  offset : Word
  meter : Nat
  halted : Bool
  deriving DecidableEq, Repr

/-- An admission under way: its translator context, and what its packet and its flacon say (R17 to R25, R279, R296). -/
structure Admit where
  id : Nat
  ctx : Option Nat
  world : Nat
  die : Nat
  tag : Nat
  flacon : Word
  size : Nat
  key : List Byte
  /-- The output window: allocated, and filled with zero (R296). -/
  ow : Word
  owSize : Nat
  owSet : Bool
  filled : Bool
  privOff : Nat
  privSize : Nat
  xwOff : Nat
  xwSize : Nat
  /-- METERLIM, OPTIONS and the ENTRY words. -/
  lim : Word
  options : Word
  entry : List Word
  deadline : Nat
  /-- It waits for another admission with an equal key (R25). -/
  waits : Option Nat
  arrived : Nat
  /-- How it ended, while others wait for its outcome. -/
  ended : Option AdmitEnd
  /-- The core held for it while it waits for slices to yield (R283). -/
  holds : List Nat
  deriving DecidableEq, Repr

/-! ## The fabric -/

/-- Where a message is (R379). -/
inductive MsgSt where
  /-- In the send queue, or on its way. -/
  | queued
  /-- In the hold queue: the entry's STATE is 2. -/
  | held
  | accepted
  | declined
  | refused
  deriving DecidableEq, Repr

/-- A message (R379). -/
structure Msg where
  id : Nat
  world : Nat
  die : Nat
  core : Nat
  who : Who
  pc : BitVec 48
  sender : Word32
  rank : Nat
  data : List Byte
  entry : Word32
  st : MsgSt
  retryAt : Nat
  deriving DecidableEq, Repr

/-- A collective of a die on a view slot (R391 to R393). -/
structure Coll where
  n : Nat
  who : Who
  handle : Nat
  tag : Word32
  desc : List Word
  /-- Contributions that have arrived: member, its descriptor, its elements. -/
  parts : List (Nat × List Word × List Word)
  deriving DecidableEq, Repr

/-- A view slot (R384 to R390). -/
structure View where
  tag : Word32
  state : Nat
  members : List Nat
  key : Nat
  /-- The members it holds failed, the clk of its last heartbeat in, and of its last heartbeat out. -/
  failed : List Nat
  heard : Nat
  sent : Nat
  proposed : Option (Word32 × List Nat)
  joining : Option Nat
  asked : List Nat
  askedAt : Nat
  acks : List Nat
  acked : Bool
  /-- Sequence number of the next `coll`, and the collectives that run. -/
  seq : Nat
  colls : List Coll
  /-- Packets that came before the collective they belong to: tag, number, member, descriptor, elements (R388). -/
  early : List (Word32 × Nat × Nat × List Word × List Word)
  /-- Switches on its paths, and those outside the trust domain. -/
  switches : List Nat
  outside : List Nat
  deriving DecidableEq, Repr

def View.empty : View :=
  { tag := 0, state := 3, members := [], key := 0, failed := [], heard := 0, sent := 0,
    proposed := none, joining := none, asked := [], askedAt := 0, acks := [], acked := false, seq := 0, colls := [], early := [], switches := [],
    outside := [] }

/-! ## The package's own units -/

/-- A memory scheduler (R318, R319). -/
structure Sched where
  mode : BitVec 2
  state : BitVec 3
  ue : Nat
  ce : Nat
  /-- Requests held, in arrival order. -/
  held : List Nat
  /-- Accesses of units held, by world and address (R319). -/
  units : List (Nat × Word)
  done : Bool
  pass : Bool
  zq : BitVec 8
  wldly : BitVec 8
  eyel : BitVec 8
  eyer : BitVec 8
  vref : BitVec 8
  /-- The steps of the training under way, and refreshes done. -/
  steps : BitVec 4
  refreshes : Nat
  deriving DecidableEq, Repr

def Sched.empty : Sched :=
  { mode := 0, state := 0, ue := 0, ce := 0, held := [], units := [], done := false, pass := false, zq := 0, wldly := 0, eyel := 0,
    eyer := 0, vref := 0, steps := 0, refreshes := 0 }

/-- A rail (R322). -/
inductive RailSt where
  | down | rising | up | falling
  deriving DecidableEq, Repr

/-- What the SCTL keeps about a controller's images (R326, R327): the slot in use, the switch asked for, the clk by which
CALIVE must be written, the clk of its last double faults, and whether a double fault stopped it (R314). -/
structure CtlImage where
  slot : Nat
  pending : Option Nat
  aliveBy : Option Nat
  faults : List Nat
  double : Bool
  deriving DecidableEq, Repr

def CtlImage.empty : CtlImage := { slot := 0, pending := none, aliveBy := none, faults := [], double := false }

/-- The SCTL's devices (R365, R366). -/
structure Devices where
  fbusy : Option Nat
  ffail : Bool
  rsaMsgA : Word
  rsaMsgL : BitVec 17
  rsaSigA : Word
  rsaRun : Option Nat
  rsaDone : Bool
  rsaPass : Bool
  /-- Worlds whose teardown runs, with the reason. -/
  tearing : List (Nat × Nat)
  zclean : Bool
  zbusy : Bool
  mval : BitVec 512
  mread : Nat
  debugOpen : Bool
  /-- Index 9 has been extended since ZCLEAN was last set. -/
  extended9 : Bool
  /-- The request in the SCTL's mailbox has been served; GO is still to be cleared (R353). -/
  served : Bool
  /-- A program of the SCTL has read word 0 of the request with GO set: it serves the request itself (R353, R373). -/
  taken : Bool
  /-- Status registers whose earlier value a load may still read until an `ordr`, with that value (R100, R373). -/
  early : List (Nat × Word)
  /-- The next request that the physical function has put into the SCTL's mailbox while GO of the earlier one was set: it waits
  its turn (R353). -/
  mailNext : Option Word
  deriving DecidableEq, Repr

def Devices.zero : Devices :=
  { fbusy := none, ffail := false, rsaMsgA := 0, rsaMsgL := 0, rsaSigA := 0, rsaRun := none, rsaDone := false,
    rsaPass := false, tearing := [], zclean := false, zbusy := false, mval := 0, mread := 0, debugOpen := false,
    extended9 := false, served := false, taken := false, early := [], mailNext := none }

/-- What an answer of the SCTL says (R350, R356, R358, R361, R362), or what it reports over I3C (R314, R328). -/
inductive AnswerCode where
  | ok
  | invalidRequest
  | versionMismatch
  | unspecified
  /-- TDISP errors: INVALID_DEVICE_CONFIGURATION, and a request that the interface's state does not take. -/
  | invalidDeviceConfiguration
  | invalidState
  /-- The status byte of a key record. -/
  | status (n : Nat)
  | bootFailed (step : Nat)
  | doubleFault (cause : Cause)
  deriving DecidableEq, Repr

/-- An answer of the SCTL to a message from outside: the world, a code, and its bytes. -/
structure Answer where
  world : Nat
  code : AnswerCode
  data : List Byte
  deriving DecidableEq, Repr

/-- An effect that a unit has sent to another (R332): of a request or of its answer, or a signal (key 0), with the clk in which it was
sent and, once it has been received, that of its receipt. -/
structure Effect where
  key : Nat
  answer : Bool
  src : Nat
  dst : Nat
  sent : Nat
  got : Option Nat
  deriving DecidableEq, Repr

/-! ## The machine -/

/-- Which agent acts in a turn: a context issues its next instruction, or a unit makes one of its steps. -/
inductive Agent where
  | ctx (key : Nat)
  | event (i : Instr)
  deriving DecidableEq, Repr

/-- A turn: an agent acts after `dt` clk. The list of turns in State says which agent moves next (the model's own). -/
structure Turn where
  dt : Nat
  agent : Agent
  deriving DecidableEq, Repr

/-- The package. -/
structure State where
  /-- The model's own: turns to come, the context that issues, a counter of free values, the next serial number. -/
  turns : List Turn
  cur : Nat
  free : Nat
  nextId : Nat
  /-- clk since power-on, and CYCLE (R74). -/
  clk : Nat
  cycle : Word
  /-- A correction of CYCLE holds its next clk back; the clk of the last correction (R375). -/
  slewHold : Bool
  slewAt : Option Nat
  power : Bool
  ctxs : Tbl Ctx
  cores : Tbl Core
  clusters : Tbl Cluster
  groups : Tbl Group
  dies : Tbl Die
  worlds : Tbl World
  wds : Tbl WorldDie
  /-- Memory by physical address (R309); host memory from 2^56, controller spaces from 2^57. -/
  mem : List Host.Cell
  /-- Granules locked by a merge, with the request that holds each (R238). -/
  merges : List (Nat × Nat)
  /-- Uncorrectable granules, with whether they were injected, and single flipped bits that wait for a read (R336,
  R346): the granule's address and the bit. -/
  ues : List (Nat × Bool)
  flips : List (Nat × Nat)
  ops : List Op
  reqs : List Req
  /-- Error logs by die × 2^16 + class × 2^10 + index; a record is four words (R334). -/
  logs : Tbl (List (List Word))
  /-- ELSEL and the word position of ELREAD, by world × 4 + die (R335). -/
  elsel : Tbl Word
  elpos : Tbl Nat
  /-- Clk of the strikes that a unit reported, and units out of service (R333). -/
  strikes : Tbl (List Nat)
  outOfService : List Nat
  /-- Effects that units have sent to others within a strike's span, and those revoked whose receivers have yet to learn of it (R332). -/
  effects : List Effect
  revoked : List Effect
  /-- Host interrupt records raised: world, cause, and the place (R174). -/
  hostIrqs : List (Nat × Cause × Word)
  /-- This package's number in the die map (R250). -/
  pkg : Nat
  jobs : List Job
  slices : List Slice
  images : List CachedImage
  nextHandle : Nat
  admits : List Admit
  /-- The window of SC operations in which no core has performed yet, and the operations that wait (R271). -/
  scWindow : Nat
  msgs : List Msg
  views : Tbl View
  scheds : Tbl Sched
  rails : Tbl RailSt
  govLim : BitVec 12
  govCnt : Word
  throttled : Bool
  ctlImages : Tbl CtlImage
  /-- Bytes of the flash that the host has rewritten, by slot × 2^32 + controller kind × 2^24 + offset. -/
  flash : Tbl (Option Byte)
  /-- Boot step reached (R328), and the CXL function ready. -/
  bootStep : Nat
  ready : Bool
  /-- Page ownership (R352): by PA page, 0 free, world + 1 owned. -/
  owner : Tbl Nat
  /-- Fuse pairs: counter n pair p at 64 n + p, lifecycle pair p at 512 + p (R363, R364). -/
  fuses : Tbl (BitVec 2)
  /-- Measurement registers 1 to 9 (R357). -/
  meas : Tbl (BitVec 512)
  dev : Devices
  answers : List Answer
  /-- The SCTL has asked for a reset of the package: only the boot acts (R314). -/
  resetDue : Bool
  deriving DecidableEq, Repr

/-! ## Faults and refusals -/

/-- Why the machine stops. -/
inductive Fault where
  /-- Raised by a step of a package without a supply (after a power failure, before the rails are up): nothing in it
  runs (R322, R364). Safe: the model stops where the hardware does nothing. -/
  | noSupply
  deriving DecidableEq, Repr

/-- Why the model refuses. -/
inductive Refusal where
  /-- An instruction without a meaning in the model, by its mnemonic: raised by an arm of exec that has none. Safe: the
  model stops. -/
  | notModelled (mnemonic : String)
  deriving DecidableEq, Repr

/-! ## Reset -/

/-- A controller's context at reset (R311, R313, R328): only the SCTL runs, from its boot ROM. -/
def controllerReset (n : Nat) : Ctx :=
  { Ctx.empty with kind := .controller, run := (if n = 0 then .live else .free), core := n,
                   pc := (if n = 0 then 0x200000 else 0) }

/-- The package after reset: VSTBY is good, the SCTL is about to run its boot ROM, nothing else has started.
PRESUMED (log 67). -/
def State.reset : State :=
  { turns := [], cur := 65536, free := 0, nextId := 1, clk := 0, cycle := 0, slewHold := false, slewAt := none, power := true,
    ctxs := (List.range 18).map (fun n => (65536 + n, controllerReset n)),
    cores := [], clusters := [], groups := [],
    dies := [(1, { Die.empty with logical := 1 }), (2, { Die.empty with logical := 2 }),
             (3, { Die.empty with logical := 3 })],
    worlds := [], wds := [], mem := [], merges := [], ues := [], flips := [], ops := [], reqs := [], logs := [],
    elsel := [], elpos := [], strikes := [], outOfService := [], effects := [], revoked := [], hostIrqs := [], pkg := 0, jobs := [], slices := [],
    images := [], nextHandle := 1, admits := [], scWindow := 0, msgs := [], views := [], scheds := [],
    rails := [(0, .up)], govLim := 3400, govCnt := 0, throttled := false, ctlImages := [], flash := [], bootStep := 1,
    ready := false, owner := [], fuses := [], meas := [], dev := Devices.zero, answers := [], resetDue := false }

/-- The outcome of a step. -/
abbrev Out := Host.Outcome State Fault Refusal

end Sys2Proof.Machine
end

