-- ==== Sys2Proof/WellFormed.lean ====
section
/-!
DEFINITION. Which instructions are well formed: no operand field of theirs raises a class-0 cause (R37 to R39, R44).
A word that decodes to an instruction that is not well formed is run like any other: the instruction raises the cause
of its fields in the order of R46.
-/
namespace Sys2Proof

/-- The operand fields of `i` hold no code that R35 to R39 reserve or that `i` does not accept. -/
def WellFormed (i : Instr) : Bool := (formCause i).isNone

/-- The rows of the table that are the decoding of a word of their own: an encoded instruction, and of the rows that
share one word (the functions of `tdef` and `ttype`, the single register writes) only the one decoding answers. -/
def Canonical (i : Instr) : Bool :=
  match i with
  | .illegalWord .. => false
  | .tdefStatus .. | .tdefClearStatus .. | .tdefUndefine .. | .ttypeUndefine .. => false
  | .upframeWrite .. | .rdoorWrite .. | .s1rootWrite .. | .tinvWrite .. | .prq1Read .. | .prqreplyWrite ..
  | .groupRegisterWrite .. | .tqctlWrite .. | .genericRegisterWrite .. | .caliveWrite .. | .schctlOnline ..
  | .schctlDrain .. | .schctlOffline .. | .schctlFenced .. | .trnctlGo .. | .cgateWrite .. | .lnctlGo ..
  | .elselWrite .. | .elreadRead .. | .spareWrite .. | .einjcInject .. | .xctlWrite .. | .fprogGo .. | .rsacmdGo ..
  | .wtearGo .. | .kzeroGo .. | .mcmdGo .. | .dbgctlOpen .. | .rtbaseWrite .. | .rtlenWrite .. | .vcfgInstall ..
  | .vcfgClear .. => false
  | _ => (encodeFirst i).isSome

end Sys2Proof
end

