-- ==== Sys2Proof/Machine/Base.lean ====
section
/-!
DEFINITION. The first operations over the state: units by number, registers, memory and addresses, error logs.
-/
namespace Sys2Proof.Machine

/-! ## Units by number -/

def State.ctx (s : State) (k : Nat) : Ctx := Tbl.get Ctx.empty s.ctxs k
def State.setCtx (s : State) (k : Nat) (c : Ctx) : State := { s with ctxs := Tbl.put Ctx.empty s.ctxs k c }
def State.modCtx (s : State) (k : Nat) (f : Ctx → Ctx) : State := s.setCtx k (f (s.ctx k))
/-- The context that issues. -/
def State.cx (s : State) : Ctx := s.ctx s.cur
def State.modCx (s : State) (f : Ctx → Ctx) : State := s.modCtx s.cur f
def State.core (s : State) (k : Nat) : Core := Tbl.get Core.empty s.cores k
def State.modCore (s : State) (k : Nat) (f : Core → Core) : State :=
  { s with cores := Tbl.put Core.empty s.cores k (f (s.core k)) }
def State.cluster (s : State) (k : Nat) : Cluster := Tbl.get Cluster.empty s.clusters k
def State.modCluster (s : State) (k : Nat) (f : Cluster → Cluster) : State :=
  { s with clusters := Tbl.put Cluster.empty s.clusters k (f (s.cluster k)) }
def State.group (s : State) (k : Nat) : Group := Tbl.get Group.empty s.groups k
def State.modGroup (s : State) (k : Nat) (f : Group → Group) : State :=
  { s with groups := Tbl.put Group.empty s.groups k (f (s.group k)) }
/-- A die; dies 0 to 3 have the logical numbers that State.reset gives them. -/
def State.dieAt (s : State) (k : Nat) : Die := Tbl.get Die.empty s.dies k
def State.modDie (s : State) (k : Nat) (f : Die → Die) : State :=
  { s with dies := Tbl.put Die.empty s.dies k (f (s.dieAt k)) }
def State.world (s : State) (k : Nat) : World := Tbl.get World.empty s.worlds k
def State.modWorld (s : State) (k : Nat) (f : World → World) : State :=
  { s with worlds := Tbl.put World.empty s.worlds k (f (s.world k)) }
def State.wd (s : State) (world die : Nat) : WorldDie := Tbl.get WorldDie.empty s.wds (world * 4 + die)
def State.modWd (s : State) (world die : Nat) (f : WorldDie → WorldDie) : State :=
  { s with wds := Tbl.put WorldDie.empty s.wds (world * 4 + die) (f (s.wd world die)) }

def coreKeyOf (die cluster core : Nat) : Nat := die * 192 + cluster * 4 + core
def Ctx.coreKey (c : Ctx) : Nat := coreKeyOf c.die c.cluster c.core
def Ctx.clusterKey (c : Ctx) : Nat := c.die * 48 + c.cluster
/-- Units with a strike sensor (R330), by die × 1,024 and: physical core k of cluster c at 5 c + k; matrix engines from 240,
copy engines from 336, task schedulers from 384; the translation unit, timetable, signal box, front end, collective engine and
NI at 432 to 437. -/
def coreUnit (die cluster phys : Nat) : Nat := die * 1024 + cluster * 5 + phys
/-- A unit of a die has not been taken out of service (R333). DEDUCED (log 55). -/
def inService (s : State) (die n : Nat) : Bool := !s.outOfService.contains (die * 1024 + n)

/-- The key of a controller's context (R310). -/
def ctlKey (n : Nat) : Nat := 65536 + n

/-- A free value, and the state with its counter advanced. -/
def State.freeVal (s : State) : Word × State := (Config.freeWord s.free, { s with free := s.free + 1 })

/-- A fresh serial number. -/
def State.fresh (s : State) : Nat × State := (s.nextId, { s with nextId := s.nextId + 1 })

/-! ## Registers (R71, R75) -/

def Ctx.readPos (c : Ctx) (p : Nat) : Word := Tbl.get 0 c.regs (p % 64)
def Ctx.writePos (c : Ctx) (p : Nat) (v : Word) : Ctx := { c with regs := Tbl.put 0 c.regs (p % 64) v }
/-- A value for a stack position that may have left the resident span: it is not kept there (R75). DEDUCED (log 87). -/
def Ctx.writeResident (c : Ctx) (p : Nat) (v : Word) : Ctx :=
  if c.wlow.toNat ≤ p && p ≤ c.wlow.toNat + 63 then c.writePos p v else c
/-- The stack position of a window register. -/
def Ctx.posOf (c : Ctx) (r : SReg) : Nat := c.fb.toNat + r.toNat
/-- s0 reads zero (R71). -/
def Ctx.readS (c : Ctx) (r : SReg) : Word := if r = 0 then 0 else c.readPos (c.posOf r)
/-- A destination of s0 discards the result (R29, R33). -/
def Ctx.writeS (c : Ctx) (r : SReg) (v : Word) : Ctx := if r = 0 then c else c.writePos (c.posOf r) v
/-- g0 to g15 are s0 to s15 of the window (R28). -/
def gS (g : GReg) : SReg := g.zeroExtend 5

def State.rS (s : State) (r : SReg) : Word := s.cx.readS r
def State.rG (s : State) (g : GReg) : Word := s.rS (gS g)
def State.wS (s : State) (r : SReg) (v : Word) : State := s.modCx (fun c => c.writeS r v)
def State.wG (s : State) (g : GReg) (v : Word) : State := s.wS (gS g) v

/-- k0 reads all-true; k1 to k7 are all-true until written (R120). -/
def Ctx.mask (c : Ctx) (k : Nat) : BitVec 4096 :=
  if k = 0 then BitVec.allOnes 4096 else Tbl.get (BitVec.allOnes 4096) c.masks k
/-- A write of k0 is discarded (R33). -/
def Ctx.setMask (c : Ctx) (k : Nat) (m : BitVec 4096) : Ctx :=
  if k = 0 then c else { c with masks := Tbl.put (BitVec.allOnes 4096) c.masks k m }

/-- A fetch that the context stood waiting for is over: the wait counts in SLIP.FROZEN, saturating (R292). DEDUCED (log 69). -/
def Ctx.thaw (c : Ctx) (clk : Nat) : Ctx :=
  if c.fetching.isSome then
    { c with fetching := none, slipFrozen := BitVec.ofNat 32 (satTo (c.slipFrozen.toNat + (clk - c.fetchAt)) (2 ^ 32 - 1)) }
  else c

/-- Controller and translator contexts run the Pliren set only (R71). -/
def Ctx.plirenOnly (c : Ctx) : Bool := c.kind = .translator || c.kind = .controller

/-! ## Memory -/

/-- The canonical form of memory: addresses strictly rising, no listed byte equal to what an unlisted one reads as, 0. -/
def Memory.wf (m : List Host.Cell) : Bool := Tbl.wf (0 : Byte) m

def State.byte (s : State) (a : Nat) : Byte := Tbl.get (0 : Byte) s.mem a
def State.setByte (s : State) (a : Nat) (b : Byte) : State := { s with mem := Tbl.put (0 : Byte) s.mem a b }
/-- n bytes from an address up. -/
def State.bytes (s : State) (a : Nat) : Nat → List Byte
  | 0 => []
  | n + 1 => s.byte a :: State.bytes s (a + 1) n
/-- Bytes written from an address up. -/
def State.setBytes (s : State) (a : Nat) : List Byte → State
  | [] => s
  | b :: t => State.setBytes (s.setByte a b) (a + 1) t
/-- MEM.8n[a], little-endian (R4). -/
def State.readMem (s : State) (a n : Nat) : Nat := leValue (s.bytes a n)
def State.writeMem (s : State) (a n v : Nat) : State := s.setBytes a (leBytes v n)

/-! ## Addresses -/

def vaDie (va : Word) : Nat := bits va 63 49
def vaScratch (va : Word) : Bool := bit va 48
def vaLevel (va : Word) : Nat := bits va 47 46
def vaCluster (va : Word) : Nat := bits va 45 40
def vaCore (va : Word) : Nat := bits va 39 38

/-- An address with the own die's number written as 0x7FFE (R249): the two name one place. -/
def canonVa (s : State) (die : Nat) (va : Word) : Word :=
  if vaDie va = (s.dieAt die).logical.toNat then (va &&& 0x0001FFFFFFFFFFFF#64) ||| 0xFFFC000000000000#64 else va

/-- CHECKVA (R89): the first class-1 cause of an address and size. -/
def checkVa (va : Word) (size : Nat) : Option Cause :=
  let die := vaDie va
  let lvl := vaLevel va
  if va.toNat % size ≠ 0 then some 0x021#9
  else if 0x6000 ≤ die ∧ die ≤ 0x7FFD then some 0x022#9
  else if die = 0x7FFF then none
  else if vaScratch va then
    if lvl = 3 then some 0x023#9
    else if (lvl = 0 ∧ bits va 37 20 ≠ 0) ∨ (lvl = 1 ∧ bits va 39 22 ≠ 0) ∨ (lvl = 2 ∧ bits va 45 26 ≠ 0) then some 0x024#9
    else if lvl ≠ 2 ∧ 48 ≤ vaCluster va then some 0x025#9
    else none
  else none

/-- Does an address name the unit memory of the core of context c (R90)? -/
def ownUM (s : State) (c : Ctx) (va : Word) : Bool :=
  vaScratch va && vaLevel va = 0 && (vaDie va = 0x7FFE || vaDie va = (s.dieAt c.die).logical.toNat)
    && vaCluster va = c.cluster && vaCore va = c.core

/-- The physical core that serves a logical core (R345). -/
def physCore (s : State) (die cluster core : Nat) : Nat :=
  let cl := s.cluster (die * 48 + cluster)
  match core with
  | 0 => cl.map0.toNat | 1 => cl.map1.toNat | 2 => cl.map2.toNat | _ => cl.map3.toNat

/-! ## Effects between units (R332) -/

/-- The unit that a context runs on: a controller's is the front end of its die. -/
def ctxUnit (s : State) (c : Ctx) : Nat :=
  if c.kind = .controller then c.die * 1024 + 435 else coreUnit c.die c.cluster (physCore s c.die c.cluster c.core)
/-- The unit of a die that receives requests and answers them: its NI. DEDUCED (log 130). -/
def niUnit (die : Nat) : Nat := die * 1024 + 437

/-- An effect is sent. Those sent more than 128 clk ago are past every strike's span. -/
def State.noteEffect (s : State) (key : Nat) (answer : Bool) (src dst : Nat) : State :=
  { s with effects := s.effects.filter (fun e => s.clk < e.sent + 128) ++
      [{ key := key, answer := answer, src := src, dst := dst, sent := s.clk, got := none }] }

/-- The effect of a request, or of its answer, is received. -/
def State.takeEffect (s : State) (key : Nat) (answer : Bool) : State :=
  { s with effects := s.effects.map (fun e =>
      if e.key = key && e.answer = answer && e.got.isNone then { e with got := some s.clk } else e) }

/-- A request is sent towards its route: one that leaves the package is held until nothing can revoke it. -/
def State.noteSent (s : State) (key unit : Nat) (route : Option (Nat × Nat)) : State :=
  match route with
  | some (p, d) => if p = s.pkg then s.noteEffect key false unit (niUnit d) else s
  | none => s

/-- A request is received at its owner, whose answer to a unit is sent. -/
def State.noteAnswer (s : State) (key unit : Nat) (route : Option (Nat × Nat)) : State :=
  match route with
  | some (p, d) => if p = s.pkg then (s.takeEffect key false).noteEffect key true (niUnit d) unit else s
  | none => s

/-- A signal of a core to others reaches them in the same clk. -/
def State.noteSignals (s : State) (src : Nat) (dst : List Nat) : State :=
  { s with effects := s.effects.filter (fun e => s.clk < e.sent + 128) ++
      (dst.map (fun d => ({ key := 0, answer := false, src := src, dst := d, sent := s.clk, got := some s.clk } : Effect))) }

/-- Physical addresses (R309). -/
def umKey (s : State) (die cluster core off : Nat) : Nat :=
  0x030000000000 + die * 0x100000000 + cluster * 0x800000 + physCore s die cluster core * 0x100000 + off
def cmKey (die cluster off : Nat) : Nat := 0x020000000000 + die * 0x100000000 + cluster * 0x400000 + off
def dmKey (die off : Nat) : Nat := 0x010000000000 + die * 0x100000000 + off
/-- DESIGN CHOICE (log 71). -/
def hostKey (off : Nat) : Nat := 2 ^ 56 + off
/-- A controller's own address space (R310). -/
def ctlSpace (n a : Nat) : Nat := 2 ^ 57 + n * 2 ^ 32 + a

/-- An own unit memory address as a physical one. -/
def ownKey (s : State) (c : Ctx) (va : Word) : Nat := umKey s c.die c.cluster c.core (bits va 19 0)

/-- A physical address exists (R309). -/
def paExists (pa : Nat) : Bool :=
  pa < 0x008000000000 ||
  (List.range 4).any (fun d =>
    (dmKey d 0 ≤ pa && pa < dmKey d 0 + 0x4000000) || (cmKey d 0 0 ≤ pa && pa < cmKey d 0 0 + 48 * 0x400000) ||
    (0x030000000000 + d * 0x100000000 ≤ pa && pa < 0x030000000000 + d * 0x100000000 + 48 * 0x800000
      && (pa - (0x030000000000 + d * 0x100000000)) % 0x800000 < 5 * 0x100000))

/-- Where an address is served (R249 to R251). -/
inductive Place where
  /-- A physical byte of this package. -/
  | phys (pa : Nat)
  /-- Paged space of a die. -/
  | paged (die : Nat)
  | host (off : Nat)
  /-- A die of another package. -/
  | away
  /-- Refused at the issuing NI (die map), or by the owner's partition check on a die. -/
  | noDie
  | notOurs (die : Nat)
  deriving DecidableEq, Repr

/-- The die that an address names, seen from a die: none where the die map refuses it (R249, R250). -/
def routeDie (s : State) (die : Nat) (va : Word) : Option (Nat × Nat) :=
  let n := vaDie va
  if n = 0x7FFE ∨ n = (s.dieAt die).logical.toNat then some (s.pkg, die)
  else
    let e : Word32 := Tbl.get 0 (s.dieAt die).dieMap n
    if e.getLsbD 31 && (e.extractLsb' 0 16 = 0#16) && (e.extractLsb' 18 13).toNat < 6144 then
      some ((e.extractLsb' 18 13).toNat, (e.extractLsb' 16 2).toNat)
    else none

/-- The place of an address at the die that a request was sent to, with the partition check of scratchpads (R249, R251). -/
def placeVia (s : State) (route : Option (Nat × Nat)) (world : Nat) (va : Word) : Place :=
  if vaDie va = 0x7FFF then .host (bits va 48 0)
  else
    match route with
    | none => .noDie
    | some (p, d) =>
      if p ≠ s.pkg then .away
      else if !vaScratch va then .paged d
      else
        let w := s.wd world d
        if vaLevel va = 2 then
          let off := bits va 25 0
          if w.dmRanges.any (fun r => r.1 ≤ off && off < r.1 + r.2) then .phys (dmKey d off) else .notOurs d
        else if w.clusters.getLsbD (vaCluster va) then
          if vaLevel va = 0 then .phys (umKey s d (vaCluster va) (vaCore va) (bits va 19 0))
          else .phys (cmKey d (vaCluster va) (bits va 21 0))
        else .notOurs d

/-- The place of an address seen from a die now. -/
def placeOf (s : State) (die world : Nat) (va : Word) : Place := placeVia s (routeDie s die va) world va

/-! ## Links (R308, R325): links 0 to 7 of a die lead into the fabric, 8 to 10 to the other dies -/

def linkOf (s : State) (die l : Nat) : Link := Tbl.get Link.empty (s.dieAt die).links l
def modLink (s : State) (die l : Nat) (f : Link → Link) : State :=
  s.modDie die (fun d => { d with links := Tbl.put Link.empty d.links l (f (Tbl.get Link.empty d.links l)) })
/-- The number of the link from a die to another. -/
def d2dLink (die other : Nat) : Nat := 8 + (if other < die then other else other - 1)
/-- A link with fewer than 6 lanes in UP is down. -/
def Link.isUp (l : Link) : Bool := 6 ≤ ((List.range 8).filter (fun i => l.up.getLsbD i)).length
/-- Traffic passes between two dies: what a link that is down would carry waits. DEDUCED (log 127). -/
def d2dUp (s : State) (die other : Nat) : Bool :=
  die = other || ((linkOf s die (d2dLink die other)).isUp && (linkOf s other (d2dLink other die)).isUp)
/-- A fabric link of a die is up. -/
def fabricUp (s : State) (die : Nat) : Bool := (List.range 8).any (fun l => (linkOf s die l).isUp)

/-! ## Error logs (R334) -/

/-- CTX bits 33:0 (R73). -/
def ctxWord (s : State) (c : Ctx) : Word :=
  if c.kind = .controller then putAt 15 0 ||| putAt c.core 4
  else putAt (if c.priv then 1 else 0) 33 ||| putAt c.world 27 ||| putAt (s.dieAt c.die).logical.toNat 12 |||
    putAt c.cluster 6 ||| putAt c.core 4 ||| putAt c.slot 0

def logKey (die cls idx : Nat) : Nat := die * 65536 + cls * 1024 + idx

/-- A record at the end of a ring of 16: the oldest goes. -/
def pushRecord (l : List (List Word)) (r : List Word) : List (List Word) :=
  if 16 ≤ l.length then l.drop (l.length - 15) ++ [r] else l ++ [r]

def State.logAt (s : State) (k : Nat) (r : List Word) : State :=
  { s with logs := Tbl.put [] s.logs k (pushRecord (Tbl.get [] s.logs k) r) }

/-- A record in an array's log, with the context concerned when there is one: a record with a context is also copied
into its world's log on the die (R334). -/
def State.logRecInj (s : State) (die cls idx : Nat) (addr : Word) (kind : Nat) (inj : Bool) (synd : Nat)
    (c : Option Ctx) : State :=
  let r := [addr, putAt kind 56 ||| putAt (if inj then 1 else 0) 55 ||| putAt cls 42 ||| putAt idx 32 ||| putAt synd 0,
    (match c with | some x => putAt 1 63 ||| ctxWord s x | none => 0), s.cycle]
  let s1 := if cls = 15 then s else s.logAt (logKey die cls idx) r
  match c with
  | some x => s1.logAt (logKey die 15 x.world) r
  | none => if cls = 15 then s.logAt (logKey die 15 idx) r else s1

def State.logRec (s : State) (die cls idx : Nat) (addr : Word) (kind synd : Nat) (c : Option Ctx) : State :=
  s.logRecInj die cls idx addr kind false synd c

/-- A record of a refusal that has no cause: what its SYNDROME holds the spec does not say. DESIGN CHOICE (log 32). -/
def State.logOpen (s : State) (die cls idx : Nat) (addr : Word) (c : Option Ctx) : State :=
  let (v, s1) := s.freeVal
  s1.logRec die cls idx addr 5 (v.toNat % 2 ^ 32) c

/-- A record of kind 5 or 6 in the world's log of a context's die. -/
def State.logWorld (s : State) (c : Ctx) (addr : Word) (kind synd : Nat) : State :=
  s.logRec c.die 15 c.world addr kind synd (some c)

/-! ## Pending causes -/

/-- An asynchronous cause for a context (R170): held pending, or lost when eight are. A cause meant for a helper that has
ended goes to its control context (R82). 0x061 is not raised while UPVEC is 0 (R172). -/
def pend (s : State) (k : Nat) (cause : Cause) (taddr tinfo : Word) : State :=
  let k := if (s.ctx k).run = .free || (s.ctx k).run = .ended then k / 16 * 16 else k
  let c := s.ctx k
  if c.kind = .controller then s
  else if cause = 0x061#9 ∧ c.trap.upvec = 0 then s
  else if 8 ≤ c.pending.length then
    (s.modCtx k (fun c => { c with trap := { c.trap with lost := if c.trap.lost = 255 then 255 else c.trap.lost + 1 } })).logWorld
      c taddr 5 cause.toNat
  else s.modCtx k (fun c => { c with pending := c.pending ++ [{ cause := cause, taddr := taddr, tinfo := tinfo }] })

end Sys2Proof.Machine
end

