-- ==== Sys2Proof/Machine/Translate.lean ====
section
/-!
DEFINITION. Translation at the owner (R252 to R255, R295): page tables, the two-stage walk, the TLB, and the accesses that a
unit of the package makes to memory as it stands.
-/
namespace Sys2Proof.Machine

/-! ## Memory schedulers by address (R317) -/

/-- The scheduler of an HBM address: its stack and number (R317). -/
def schedOfLoc (loc : Nat) : Nat × Nat :=
  let b := loc % 0x1000000000 / 256
  (loc / 0x1000000000, 3 * (b % 64) + b / 64 % 3)

/-- Its number among all: 192 of each stack. -/
def schedKey (pa : Nat) : Nat := (schedOfLoc pa).1 * 192 + (schedOfLoc pa).2
def State.sched (s : State) (k : Nat) : Sched := Tbl.get Sched.empty s.scheds k
def State.modSched (s : State) (k : Nat) (f : Sched → Sched) : State :=
  { s with scheds := Tbl.put Sched.empty s.scheds k (f (s.sched k)) }

/-! ## Table entries (R253) -/

def pteV (e : Word) : Bool := bit e 0
def pteT (e : Word) : Bool := bit e 1
def pteSize (e : Word) : Nat := bits e 3 2
def pteMig (e : Word) : Bool := bit e 7
/-- Permissions X, W, R. -/
def ptePerm (e : Word) : BitVec 3 := e.extractLsb' 4 3
/-- ADDR bits 47:16 as an address. -/
def pteAddr (e : Word) : Nat := bits e 47 16 * 0x10000

def permR : BitVec 3 := 1#3
def permW : BitVec 3 := 2#3
def permX : BitVec 3 := 4#3
def permRW : BitVec 3 := 3#3
def permits (have_ need : BitVec 3) : Bool := have_ &&& need = need

/-- A malformed stage-1 entry, at a level and an index (R253). -/
def pteBad (level idx : Nat) (e : Word) : Bool :=
  bits e 63 48 ≠ 0 || bits e 15 8 ≠ 0 || pteMig e || pteSize e = 3 || (pteT e && level = 3) ||
  (!pteT e && level = 1) ||
  (!pteT e && level = 2 && (pteSize e ≠ 2 || idx % 2 = 1 || bits e 29 16 ≠ 0)) ||
  (!pteT e && level = 3 && pteSize e = 2)

/-- The bytes that a leaf maps: 64 KiB, 4 MiB, 1 GiB. -/
def leafBytes (size : Nat) : Nat := if size = 0 then 0x10000 else if size = 1 then 0x400000 else 0x40000000

/-- The address a leaf gives for an input address. -/
def leafMap (e : Word) (size a : Nat) : Nat := pteAddr e / leafBytes size * leafBytes size + a % leafBytes size

/-! ## Walks -/

/-- What a walk comes to (R254, R295). -/
inductive Walk where
  /-- Mapped: PA, permissions of both stages, the smaller size, GA. -/
  | ok (pa : Nat) (perm : BitVec 3) (size : Nat) (ga : Nat)
  /-- An entry that is not valid: the stage and the page of the request for it; the GA that stage 1 gave, if it gave one. -/
  | absent (stage page : Nat) (ga : Option Nat)
  /-- A stage-2 entry is being migrated. -/
  | mig (ga : Option Nat)
  | malformed
  /-- A stage-1 table on a page without R. -/
  | unreadable
  /-- A stage-1 table entry whose scheduler is fenced, or whose granule is uncorrectable: its read is refused (R319, R321). -/
  | lost
  /-- A stage-1 table entry whose scheduler holds the read (R319). -/
  | held (sched : Nat)
  /-- A stage-1 table entry in a line that a cluster holds: its read recalls the lease (R266). -/
  | leased (ck line : Nat)
  deriving DecidableEq, Repr

/-- Stage 2 of a GA (R252): PA, permissions, size. DESIGN CHOICE (log 17). -/
def walk2 (w : WorldDie) (ga : Nat) : Walk :=
  let g : Word := Tbl.get 0 w.stage2g (ga / 0x40000000)
  let e : Word := if pteV g then g else Tbl.get 0 w.stage2 (ga / 0x10000)
  if !pteV e then .absent 2 (ga / 0x10000) none
  else if pteMig e then .mig none
  else .ok (leafMap e (pteSize e) ga) (ptePerm e) (pteSize e) ga

/-- The scheduler of a physical address is fenced (R319). -/
def fencedAt (s : State) (pa : Nat) : Bool := pa < 0x8000000000 && (s.sched (schedKey pa)).state = 5

/-- The cluster of a die whose lease buffer holds a line. -/
def leaseHolder (s : State) (die line : Nat) : Option (Nat × Lease) :=
  (List.range 48).findSome? (fun c =>
    ((s.cluster (die * 48 + c)).leases.find? (fun l => l.line = line)).map (fun l => (die * 48 + c, l)))

/-- The die of a physical address (R309). -/
def dieOfLoc (loc : Nat) : Nat := if loc < 0x8000000000 then loc / 0x2000000000 else loc / 2 ^ 32 % 256

/-- A cluster that holds the line of a physical address. -/
def lineHolder (s : State) (pa : Nat) : Option (Nat × Lease) :=
  if pa < 0x8000000000 then leaseHolder s (dieOfLoc pa) (pa / 64) else none

/-- A stage-1 table entry at a GA, read through stage 2. -/
def readEntry (s : State) (w : WorldDie) (ga : Nat) : Except Walk Word :=
  match walk2 w ga with
  | .ok pa perm _ _ =>
    if !permits perm permR then .error .unreadable
    else if fencedAt s pa || s.ues.any (fun u => u.1 = pa / 64 * 64) then .error .lost
    else
      match lineHolder s pa with
      | some (ck, l) => .error (.leased ck l.line)
      | none =>
        if pa < 0x8000000000 && (s.sched (schedKey pa)).state ≠ 0 then .error (.held (schedKey pa))
        else .ok (BitVec.ofNat 64 (s.readMem pa 8))
  | o => .error o

/-- A stage-2 outcome for the GA of the access itself. -/
def Walk.atGa (w : Walk) (ga : Nat) : Walk :=
  match w with
  | .absent st p _ => .absent st p (some ga)
  | .mig _ => .mig (some ga)
  | o => o

/-- Both stages from a stage-1 leaf. -/
def walkLeaf (w : WorldDie) (e : Word) (size va : Nat) : Walk :=
  let ga := leafMap e size va
  match walk2 w ga with
  | .ok pa perm size2 _ => .ok pa (perm &&& ptePerm e) (min size size2) ga
  | o => o.atGa ga

/-- Level 3 of stage 1. -/
def walkL3 (s : State) (w : WorldDie) (table va : Nat) : Walk :=
  let idx := va / 2 ^ 16 % 8192
  match readEntry s w (table + 8 * idx) with
  | .error o => o
  | .ok e =>
    if !pteV e then .absent 1 (va / 0x10000) none
    else if pteBad 3 idx e then .malformed
    else walkLeaf w e (pteSize e) va

/-- Level 2 of stage 1: the entry after a 1 GiB leaf is not read. -/
def walkL2 (s : State) (w : WorldDie) (table va : Nat) : Walk :=
  let idx := va / 2 ^ 29 % 8192
  let even := idx - idx % 2
  match readEntry s w (table + 8 * even) with
  | .error o => o
  | .ok e0 =>
    if pteV e0 && !pteT e0 && !pteBad 2 even e0 then walkLeaf w e0 2 va
    else
      match (if even = idx then .ok e0 else readEntry s w (table + 8 * idx)) with
      | .error o => o
      | .ok e =>
        if !pteV e then .absent 1 (va / 0x10000) none
        else if pteBad 2 idx e then .malformed
        else walkL3 s w (pteAddr e) va

/-- THE WALK of VA bits 47:0 for a world on a die (R252). -/
def walk (s : State) (world die va : Nat) : Walk :=
  let w := s.wd world die
  if !bit w.s1root 0 then
    match walk2 w va with
    | .ok pa perm size _ => .ok pa perm size va
    | o => o.atGa va
  else
    let idx := va / 2 ^ 42 % 64
    match readEntry s w (bits w.s1root 47 16 * 0x10000 + 8 * idx) with
    | .error o => o
    | .ok e =>
      if !pteV e then .absent 1 (va / 0x10000) none
      else if pteBad 1 idx e then .malformed
      else walkL2 s w (pteAddr e) va

/-- The physical address of a stage-1 table entry at a GA. -/
def entryPa (w : WorldDie) (ga : Nat) : List Nat := match walk2 w ga with | .ok pa _ _ _ => [pa] | _ => []

/-- The table that a valid entry at a GA points to. -/
def nextTable (s : State) (w : WorldDie) (level idx ga : Nat) : Option Nat :=
  match readEntry s w ga with
  | .ok e => if pteV e && pteT e && !pteBad level idx e then some (pteAddr e) else none
  | .error _ => none

/-- The entry at an even index of level 2 ends the walk: a 1 GiB leaf, or no entry that can be read. -/
def endsAtPair (s : State) (w : WorldDie) (even ga : Nat) : Bool :=
  match readEntry s w ga with
  | .ok e => pteV e && !pteT e && !pteBad 2 even e
  | .error _ => true

/-- The physical addresses of the table entries that a walk reads. -/
def walkReads (s : State) (world die va : Nat) : List Nat :=
  let w := s.wd world die
  let i1 := va / 2 ^ 42 % 64
  let g1 := bits w.s1root 47 16 * 0x10000 + 8 * i1
  let i2 := va / 2 ^ 29 % 8192
  let even := i2 - i2 % 2
  let level3 (t3 : Nat) : List Nat := entryPa w (t3 + 8 * (va / 2 ^ 16 % 8192))
  let level2 (t2 : Nat) : List Nat :=
    entryPa w (t2 + 8 * even) ++
      (if endsAtPair s w even (t2 + 8 * even) then []
       else (if even = i2 then [] else entryPa w (t2 + 8 * i2)) ++
         ((nextTable s w 2 i2 (t2 + 8 * i2)).map level3).getD [])
  if !bit w.s1root 0 then [] else entryPa w g1 ++ ((nextTable s w 1 i1 g1).map level2).getD []

/-! ## The TLB (R255) -/

def TlbEntry.hits (t : TlbEntry) (world va : Nat) : Bool :=
  t.world = world && va / leafBytes t.size = t.page * 0x10000 / leafBytes t.size

def tlbFind (s : State) (die world va : Nat) : Option TlbEntry := (s.dieAt die).tlb.find? (fun t => t.hits world va)

/-- The PA that a translation gives. -/
def TlbEntry.map (t : TlbEntry) (va : Nat) : Nat := t.pa / leafBytes t.size * leafBytes t.size + va % leafBytes t.size

/-- A translation installed: the oldest leaves a full TLB. -/
def tlbInstall (s : State) (die : Nat) (t : TlbEntry) : State :=
  s.modDie die (fun d => { d with tlb := (if 65536 ≤ d.tlb.length then d.tlb.drop 1 else d.tlb) ++ [t] })

/-- Does a translation overlap a page of a size? -/
def TlbEntry.meets (t : TlbEntry) (page size : Nat) : Bool :=
  rangesMeet (t.page * 0x10000 / leafBytes t.size * leafBytes t.size, leafBytes t.size)
    (page * 0x10000 / leafBytes size * leafBytes size, leafBytes size)

/-! ## Worlds bound (R350) -/

def World.bound (w : World) : Bool := w.tdisp = .locked || w.tdisp = .run || w.debugBound
def World.running (w : World) : Bool := w.tdisp = .run || w.debugBound

/-- The stream that carries a world's traffic with the host is keyed, or it is world 0 in DEBUG, which uses none (R350, R351).
DESIGN CHOICE (log 138). -/
def World.streamUp (w : World) : Bool := w.ide || w.debugBound

/-! ## Accesses of the package's units, as memory stands -/

/-- Schedulers that hold requests, and lines that are leased, only delay a unit's access (R266, R319). -/
def unheld (s : State) : State :=
  { s with scheds := s.scheds.map (fun p => if p.2.state = 5 then p else (p.1, { p.2 with state := 0 })),
           clusters := s.clusters.map (fun p => (p.1, { p.2 with leases := [] })) }

/-- Where a byte at a VA of a world is, for a unit of a die, with a permission: none where the access is refused, as every
request of a world that is not bound is (R350), and every one for a fenced scheduler (R319). -/
def vaLoc (s : State) (world die : Nat) (need : BitVec 3) (va : Word) : Option Nat :=
  if !(s.world world).bound then none
  else
  match placeOf s die world va with
  | .phys pa => some pa
  | .host off => some (hostKey off)
  | .paged d =>
    match walk (unheld s) world d (bits va 47 0) with
    | .ok pa perm _ _ => if permits perm need && paExists pa && !fencedAt s pa then some pa else none
    | _ => none
  | _ => none

/-- Where a byte is for a unit that reads it: a granule that is uncorrectable refuses (R321). -/
def vaReadLoc (s : State) (world die : Nat) (va : Word) : Option Nat :=
  (vaLoc s world die permR va).filter (fun a => !s.ues.any (fun u => u.1 = a / 64 * 64))

/-- n bytes read by a unit. -/
def vaRead (s : State) (world die : Nat) (va : Word) (n : Nat) : Option (List Byte) :=
  (List.range n).mapM (fun i => (vaReadLoc s world die (va + BitVec.ofNat 64 i)).map s.byte)

def vaReadWord (s : State) (world die : Nat) (va : Word) : Option Word :=
  (vaRead s world die va 8).map (fun l => BitVec.ofNat 64 (leValue l))

/-- Granules of which a list of locations holds every byte lose their error (R336). -/
def healedAt (s : State) (locs : List Nat) : State :=
  if s.ues = [] ∧ s.flips = [] then s
  else
    let whole (g : Nat) : Bool := (List.range 64).all (fun i => locs.contains (g + i))
    { s with ues := s.ues.filter (fun u => !whole u.1), flips := s.flips.filter (fun u => !whole u.1) }

/-- A write of a part of an uncorrectable granule of sealed memory: its merge refuses it (R238, R336). -/
def mergeSpoilt (s : State) (locs : List Nat) : Bool :=
  (s.ues.filter (fun u => u.1 < 0x020000000000)).any (fun u =>
    locs.any (fun l => l / 64 * 64 = u.1) && !(List.range 64).all (fun i => locs.contains (u.1 + i)))

/-- Bytes written by a unit: all of them, or none where one is refused. -/
def vaWrite (s : State) (world die : Nat) (va : Word) (bs : List Byte) : Option State :=
  match (List.range bs.length).mapM (fun i => vaLoc s world die permW (va + BitVec.ofNat 64 i)) with
  | none => none
  | some locs =>
    if mergeSpoilt s locs then none
    else some (healedAt ((locs.zip bs).foldl (fun st p => st.setByte p.1 p.2) s) locs)

/-! ## Page requests (R259) -/

/-- A page request id that no outstanding request of the world carries. DEDUCED (log 35). -/
def freshReqId (w : WorldDie) : BitVec 16 :=
  (((List.range 65).map (fun i => w.nextReq + BitVec.ofNat 16 i)).find?
    (fun i => !w.requests.any (fun q => q.posted && q.id = i.toNat))).getD w.nextReq

/-- A request of the queue posted with a fresh id. -/
def postPage (w : WorldDie) (stage page : Nat) : WorldDie :=
  let id := freshReqId w
  { w with nextReq := id + 1,
           requests := w.requests.map (fun q =>
             if q.stage = stage && q.page = page && !q.posted then { q with posted := true, id := id.toNat } else q) }

/-- The queue of a world has room (R259). -/
def queueRoom (w : WorldDie) : Bool := (w.requests.filter (·.posted)).length < 64

/-- The page request of a park. -/
def requestPage (s : State) (world die stage page : Nat) (kinds : BitVec 3) : State :=
  s.modWd world die (fun w =>
    if w.requests.any (fun q => q.stage = stage && q.page = page) then
      { w with requests := w.requests.map (fun q =>
          if q.stage = stage && q.page = page then { q with kinds := q.kinds ||| kinds } else q) }
    else
      let w1 := { w with requests := w.requests ++
        [{ id := 0, stage := stage, page := page, kinds := kinds, posted := false, read := false }] }
      if queueRoom w && w.requests.all (·.posted) then postPage w1 stage page else w1)

/-! ## Accesses of units that wait (R256, R266, R319) -/

/-- The granules that n bytes from a location touch. -/
def granules (loc n : Nat) : List Nat := (List.range ((loc + n + 63) / 64 - loc / 64)).map (fun i => (loc / 64 + i) * 64)

/-- The owner recalls a leased line, which is marked (R266). -/
def recallLine (s : State) (ck line : Nat) : State :=
  if (s.cluster ck).leases.any (fun l => l.line = line && !l.recalled) then
    (s.modCluster ck (fun c =>
      { c with leases := c.leases.map (fun l => if l.line = line then { l with recalled := true } else l),
               recalls := satTo (c.recalls + 1) 65535 })).modDie (ck / 48) (fun d =>
      { d with recallMarks := (line, s.clk) :: d.recallMarks.filter (fun m => m.1 ≠ line && s.clk < m.2 + 65536) })
  else s

/-- The start of every 64 KiB page that n bytes from an address touch, and the address itself. -/
def pageStarts (va : Word) (n : Nat) : List Word :=
  (List.range ((va.toNat + n + 65535) / 65536 - va.toNat / 65536)).map (fun i =>
    if i = 0 then va else BitVec.ofNat 64 ((va.toNat / 65536 + i) * 65536))

/-- A unit's access is held by a scheduler (R319). -/
def heldUnit (s : State) (k world : Nat) (va : Word) : State :=
  s.modSched k (fun x => if x.units.contains (world, va) then x else { x with units := x.units ++ [(world, va)] })

/-- A granule of n bytes whose scheduler holds the access of a unit, or whose leased line is recalled for it. -/
def unitHeld (s : State) (world die : Nat) (va : Word) (n : Nat) : Option State :=
  let slow (x : Sched) : Bool := x.state ≠ 0 && x.state ≠ 5
  if !s.scheds.any (fun p => slow p.2) && !s.clusters.any (fun p => p.2.leases ≠ []) then none
  else
    (granules va.toNat n).findSome? (fun g =>
      match vaLoc s world die 0#3 (BitVec.ofNat 64 g) with
      | none => none
      | some pa =>
        match lineHolder s pa with
        | some (ck, l) => some (recallLine s ck l.line)
        | none => if pa < 0x8000000000 && slow (s.sched (schedKey pa)) then some (heldUnit s (schedKey pa) world (BitVec.ofNat 64 g))
                  else none)

/-- A unit's access of n bytes waits: for a page that is not mapped, whose request is made, for a scheduler, for the recall of a line, or
for the keys of the stream to the host. -/
def unitWaits (s : State) (world die : Nat) (need : BitVec 3) (va : Word) (n : Nat) : Option State :=
  if !(s.world world).bound then none
  else
  ((pageStarts va n).findSome? (fun a =>
    match placeOf s die world a with
    | .paged d =>
      match walk s world d (bits a 47 0) with
      | .absent st page _ => some (requestPage s world d st page need)
      | .mig _ => some s
      | .held k => some (heldUnit s k world a)
      | .leased ck line => some (recallLine s ck line)
      | _ => none
    | .host _ => if (s.world world).streamUp then none else some s
    | _ => none)).or (unitHeld s world die va n)

end Sys2Proof.Machine
end

