-- ==== Sys2Proof/Machine/Gangs.lean ====
section
/-!
DEFINITION. Gangs and slices (R194, R195, R280, R288): membership, nodes, completion; ECC and what consuming an uncorrectable
error does (R336); the recording of writes in a superstep (R337 to R340); and the one operation that writes memory for a core.
-/
namespace Sys2Proof.Machine

/-! ## Slices, jobs and their cores -/

def State.slice (s : State) (id : Nat) : Option Slice := s.slices.find? (fun x => x.id = id)
def State.modSlice (s : State) (id : Nat) (f : Slice → Slice) : State :=
  { s with slices := s.slices.map (fun x => if x.id = id then f x else x) }
def State.job (s : State) (id : Nat) : Option Job := s.jobs.find? (fun x => x.id = id)
def State.modJob (s : State) (id : Nat) (f : Job → Job) : State :=
  { s with jobs := s.jobs.map (fun x => if x.id = id then f x else x) }
/-- The slice placed on a core, and its job. -/
def sliceOn (s : State) (core : Nat) : Option Slice := (s.core core).slice.bind s.slice
def jobOn (s : State) (core : Nat) : Option Job := (sliceOn s core).bind (fun x => s.job x.job)

/-- The cores of the run that a core belongs to: the gang (twin runs are gangs of their own, R343). -/
def gangOf (s : State) (core : Nat) : List Nat :=
  match sliceOn s core with
  | none => []
  | some x =>
    match x.runs.find? (fun r => r.cores.contains core && !r.finished) with
    | some r => r.cores
    | none => x.cores

/-- The rank of a core in its gang (R286). -/
def rankIn (gang : List Nat) (core : Nat) : Nat := gang.findIdx (· = core)

/-! ## Barrier nodes (R195) -/

def countOf {α : Type} [BEq α] (l : List α) : Nat := l.eraseDups.length

/-- The nodes that a set of cores spans: cores under at least two of the node's children. -/
def spannedNodes (cores : List Nat) : List Nat :=
  let cls := (cores.map (· / 4)).eraseDups
  let dies := (cores.map (· / 192)).eraseDups
  cls.filter (fun c => 2 ≤ countOf (cores.filter (fun k => k / 4 = c)))
    ++ (dies.filter (fun d => 2 ≤ countOf (cls.filter (fun c => c / 48 = d)))).map (200 + ·)
    ++ (if 2 ≤ dies.length then [300] else [])

def nodeGroups (node : Nat) : Nat := if node < 200 then 4 else 16
def groupKey (node g : Nat) : Nat := node * 16 + g
/-- The node of a scope seen from a core: 1 cluster, 2 die, 3 package. -/
def nodeOf (scope core : Nat) : Nat := if scope = 1 then core / 4 else if scope = 2 then 200 + core / 192 else 300

/-- The groups of nodes return to empty. -/
def clearNodes (s : State) (nodes : List Nat) : State :=
  nodes.foldl (fun st n =>
    (List.range (nodeGroups n)).foldl (fun st2 g => st2.modGroup (groupKey n g) (fun _ => Group.empty)) st) s

/-- The groups of the nodes that a gang spans return to empty (R195). -/
def clearGroups (s : State) (cores : List Nat) : State := clearNodes s (spannedNodes cores)

/-- The nodes that a slice spans on its cores: each of its runs by itself. -/
def nodesOf (x : Slice) : List Nat :=
  if x.runs = [] then spannedNodes x.cores
  else (x.runs.filter (fun r => r.cores.all x.cores.contains)).flatMap (fun r => spannedNodes r.cores)

/-! ## Completion of a slice (R280, R288, R289) -/

/-- FULLCNT counts up to a clk when no insertion waits any more (R224). -/
def Cluster.poolCheck (c : Cluster) (clk : Nat) : Cluster :=
  if c.poolWait.isEmpty then
    match c.poolSince with
    | some t => { c with poolFull := satTo (c.poolFull + (clk - t)) 65535, poolSince := none }
    | none => c
  else c

/-- Requests that a test selects are withdrawn: their merges and their places in holding queues go with them. -/
def withdraw (s : State) (p : Req → Bool) : State :=
  let gone := (s.reqs.filter p).map (·.id)
  if gone = [] then s
  else
    (s.scheds.map (·.1)).foldl (fun st k => st.modSched k (fun x => { x with held := x.held.filter (fun i => !gone.contains i) }))
      { s with reqs := s.reqs.filter (fun r => !p r), merges := s.merges.filter (fun m => !gone.contains m.2) }

/-- What a core and its cluster still hold for it goes, and its contexts end. -/
def freeCore (s : State) (core : Nat) : State :=
  let s1 := (List.range 16).foldl (fun st n => if (st.ctx (core * 16 + n)).kind = .controller then st
                                              else st.setCtx (core * 16 + n) Ctx.empty) s
  let s2 := s1.modCore core (fun c =>
    { Core.empty with fullCnt := c.fullCnt, ovfCnt := c.ovfCnt, aliasCnt := c.aliasCnt,
                      world := c.world, phase := c.phase })
  let s3 := s2.modCluster (core / 4) (fun c =>
    { c with pool := c.pool.filter (fun e => e.core ≠ core), poolWait := c.poolWait.filter (fun e => e.core ≠ core),
             copies := c.copies.filter (fun e => e.core ≠ core), tasks := c.tasks.filter (fun e => e.core ≠ core),
             waiters := c.waiters.filter (fun w => w.ctx / 16 ≠ core) })
  withdraw { s3.modCluster (core / 4) (fun c => c.poolCheck s3.clk) with ops := s3.ops.filter (fun o => o.ctx / 16 ≠ core) }
    (fun r => r.ctx / 16 = core && r.ctx < 65536)

/-- The completion status of a job from the statuses of its slices (R280). -/
def jobStatus (l : List Nat) : Nat :=
  match [8, 9, 7, 1].find? (fun x => l.contains x) with
  | some x => x
  | none => 0

/-- A completion that falls due on a world's ring: it waits its turn there (R280). -/
def pushCompletion (s : State) (world die tag status cause : Nat) (offset va handle : Word) : State :=
  s.modWd world die (fun w =>
    { w with heldDone := w.heldDone ++ [[putAt tag 0 ||| putAt status 32 ||| putAt cause 48, offset, va, handle]] })

/-- The ranks that were bound to a slice's contexts while it was away are bound no more (R378). -/
def dropAway (s : State) (slice : Nat) : State :=
  (List.range 4).foldl (fun st d => st.modDie d (fun x => { x with away := x.away.filter (fun a => a.slice ≠ slice) })) s

/-- A slice ends with a status: its groups and cores are released, and its job posts its completion with the last. -/
def endSlice (s : State) (x : Slice) (status : Nat) : State :=
  let s1 := x.cores.foldl freeCore (clearNodes s (nodesOf x))
  let s2 := dropAway { s1 with slices := s1.slices.filter (fun y => y.id ≠ x.id) } x.id
  match s2.job x.job with
  | none => s2
  | some j =>
    let j1 := { j with left := j.left - 1, notDone := j.notDone + (if status = 0 then 0 else 1),
                       statuses := status :: j.statuses }
    if j1.left = 0 then
      pushCompletion { s2 with jobs := s2.jobs.filter (fun y => y.id ≠ j.id) } j1.world j1.die j1.tag
        (jobStatus j1.statuses) 0 (BitVec.ofNat 64 j1.notDone) 0 0
    else s2.modJob j.id (fun _ => j1)

/-- A gang of a pipeline job requeues (R289): in twin mode as a new pair. -/
def requeueSlice (s : State) (x : Slice) (deadline : Nat) : State :=
  let s1 := x.cores.foldl freeCore (clearNodes s (nodesOf x))
  s1.modSlice x.id (fun y => { y with st := .waiting, cores := [], reports := [], deadline := deadline, exhausted := false,
                                      stage := y.nextStage, runs := [], attempt := 0, usedCores := [] })

/-- A slice completes with a status: a pipeline gang that goes on requeues (R289). -/
def completeSlice (s : State) (x : Slice) (status : Nat) (again : Bool) : State :=
  if status = 0 && again then requeueSlice s x (s.clk + ((s.job x.job).map (fun j => j.lpb.deadline)).getD 0)
  else endSlice s x status

/-- A member reports (R288): with the last report the slice completes, or a pipeline gang requeues. A run of a twin slice
completes by itself (R344). -/
def memberDone (s : State) (core status : Nat) (again : Bool) : State :=
  let s1 := s.modCtx (core * 16) (fun c => { c with run := .done })
  match sliceOn s core with
  | none => s1
  | some x =>
    let x1 := { x with reports := x.reports ++ [(core, status, again)] }
    let allIn (l : List Nat) : Bool := l.all (fun k => x1.reports.any (fun r => r.1 = k))
    let worst (l : List Nat) : Nat :=
      ([9, 1].find? (fun n => x1.reports.any (fun r => l.contains r.1 && r.2.1 = n))).getD 0
    let s2 := s1.modSlice x.id (fun _ => x1)
    if x.runs ≠ [] then
      s2.modSlice x.id (fun y => { y with runs := y.runs.map (fun r =>
        if r.cores.contains core && allIn r.cores then
          { r with finished := true, status := worst r.cores, again := x1.reports.any (fun q => r.cores.contains q.1 && q.2.2) }
        else r) })
    else if allIn x.cores then completeSlice s2 x1 (worst x.cores) (x1.reports.any (fun r => r.2.2))
    else s2

/-- Every context of a core stops (R182, R341, R355). -/
def stopCore (s : State) (core : Nat) : State :=
  (List.range 16).foldl (fun st n =>
    st.modCtx (core * 16 + n) (fun c => if c.run = .live then { c with run := .held } else c)) s

/-! ## Places of physical addresses (R309) -/

/-- A location in the UM or CM of a cluster: its cluster key. -/
def clusterOfLoc (loc : Nat) : Option Nat :=
  let top := loc / 2 ^ 40
  if loc < 2 ^ 56 ∧ top = 2 then some (loc / 2 ^ 32 % 256 * 48 + loc % 2 ^ 32 / 0x400000)
  else if loc < 2 ^ 56 ∧ top = 3 then some (loc / 2 ^ 32 % 256 * 48 + loc % 2 ^ 32 / 0x800000)
  else none

/-- The array of a location, as class and index of the error logs (R334). -/
def arrayOfLoc (loc : Nat) : Nat × Nat :=
  match loc / 2 ^ 40 with
  | 0 => (4, (schedOfLoc loc).1 % 2 * 192 + (schedOfLoc loc).2)
  | 1 => (3, 0)
  | 2 => (2, loc % 2 ^ 32 / 0x400000)
  | _ => (1, loc % 2 ^ 32 / 0x800000 * 8 + loc % 0x800000 / 0x100000)

/-! ## ECC (R334 to R336, R346) -/

/-- A read of n bytes: flipped bits are corrected and logged, uncorrectable granules are logged as consumed (R334, R336), under
the VA of the access where one is known, with syndromes that the spec does not give. DEDUCED (log 30). -/
def readEcc (s : State) (loc n : Nat) (va : Option Word) (c : Option Ctx) : Bool × State :=
  let gs := granules loc n
  let fl := s.flips.filter (fun f => gs.contains f.1)
  let ue := s.ues.filter (fun f => gs.contains f.1)
  let rec1 (st0 : State) (g kind : Nat) (inj : Bool) : State :=
    let (cls, idx) := arrayOfLoc g
    let (synd, st) := st0.freeVal
    let st1 := if g < 0x8000000000 then st.modSched (schedKey g) (fun x =>
        if kind = 1 then { x with ce := satTo (x.ce + 1) 65535 } else { x with ue := satTo (x.ue + 1) 65535 }) else st
    let addr : Word := match va with
      | some v => if g ≤ loc then v else v + BitVec.ofNat 64 (g - loc)
      | none => BitVec.ofNat 64 g
    st1.logRecInj (dieOfLoc g) cls idx addr kind inj (synd.toNat % 2 ^ 32) c
  if fl = [] ∧ ue = [] then (false, s)
  else
    let s1 := fl.foldl (fun st f =>
      (rec1 st f.1 1 true).modDie (dieOfLoc f.1) (fun d => { d with elCe := satTo (d.elCe + 1) (2 ^ 32 - 1) })) s
    let s2 := ue.foldl (fun st f =>
      (rec1 st f.1 3 f.2).modDie (dieOfLoc f.1) (fun d => { d with elUe := satTo (d.elUe + 1) (2 ^ 32 - 1) })) s1
    (ue ≠ [], { s2 with flips := s2.flips.filter (fun f => !gs.contains f.1) })

/-- A granule becomes uncorrectable by an injection. -/
def spoil (s : State) (g : Nat) : State :=
  { s with ues := s.ues.filter (fun u => u.1 ≠ g) ++ [(g, true)], flips := s.flips.filter (fun f => f.1 ≠ g) }

/-- An error put into a granule (R346): mode 0 flips a bit, mode 1 makes it uncorrectable. Flipped bits of two 8-bit symbols are
detected, not corrected (R315); a bit flipped twice holds its value again. DEDUCED (log 110). -/
def inject (s : State) (loc mode b : Nat) : State :=
  let g := loc / 64 * 64
  let mine := s.flips.filter (fun f => f.1 = g)
  if mode = 1 then spoil s g
  else if mode ≠ 0 || s.ues.any (fun u => u.1 = g) then s
  else if mine.contains (g, b) then { s with flips := s.flips.filter (· ≠ (g, b)) }
  else if mine.any (fun f => f.2 / 8 ≠ b / 8) then spoil s g
  else { s with flips := s.flips ++ [(g, b)] }

/-! ## Accesses of units that are refused (R254, R321, R350) -/

/-- The array of a unit's refused access: the owner's by the place, the NI of the unit's die where nothing is reached. -/
def unitArray (s : State) (world die : Nat) (va : Word) : Nat × Nat × Nat :=
  match placeOf s die world va with
  | .phys pa => (dieOfLoc pa, (arrayOfLoc pa).1, (arrayOfLoc pa).2)
  | .paged d => (d, 10, 0)
  | .notOurs d => if vaLevel va = 0 then (d, 1, vaCluster va * 8 + vaCore va) else if vaLevel va = 1 then (d, 2, vaCluster va) else (d, 3, 0)
  | _ => (die, 14, 0)

/-- The record of the first byte that refused a unit's access of n bytes: of an uncorrectable granule, or of a refusal that has
no cause. DEDUCED (log 113). -/
def unitRefused (s : State) (world die : Nat) (loc : Word → Option Nat) (va : Word) (n : Nat) : State :=
  let bytes := (List.range n).map (fun i => va + BitVec.ofNat 64 i)
  let spoilt (a : Word) : Bool := (vaLoc s world die permR a).any (fun pa => s.ues.any (fun u => u.1 = pa / 64 * 64))
  match (bytes.find? (fun a => (loc a).isNone)).or (bytes.find? spoilt) with
  | none => s
  | some a =>
    match vaLoc s world die permR a with
    | some pa => if s.ues.any (fun u => u.1 = pa / 64 * 64) then (readEcc s pa 1 (some a) none).2
                 else let (d, cls, idx) := unitArray s world die a; s.logOpen d cls idx a none
    | none => let (d, cls, idx) := unitArray s world die a; s.logOpen d cls idx a none

/-- The table entries that a walk of the world on the die reads pass the ECC of their granules (R318, R321). DEDUCED (log 30). -/
def walkEcc (s : State) (world die va : Nat) : State :=
  if s.flips = [] ∧ s.ues = [] then s
  else (walkReads (unheld s) world die va).foldl (fun st pa => (readEcc st pa 8 none none).2) s

/-- What n bytes that a unit reads, and the walks to them, pass of the ECC (R318). -/
def unitEcc (s : State) (world die : Nat) (va : Word) (n : Nat) : State :=
  if s.flips = [] ∧ s.ues = [] then s
  else
    (List.range n).foldl (fun st i =>
      let a := va + BitVec.ofNat 64 i
      let s1 := if i ≠ 0 && a.toNat % 65536 ≠ 0 then st
                else match placeOf st die world a with | .paged d => walkEcc st world d (bits a 47 0) | _ => st
      match vaReadLoc s1 world die a with
      | some pa => if s1.flips.any (fun f => f.1 = pa / 64 * 64) then (readEcc s1 pa 1 (some a) none).2 else s1
      | none => s1) s

/-- Bytes read by a unit, with their ECC; a refusal is logged. -/
def unitRead (s : State) (world die : Nat) (va : Word) (n : Nat) : Option (List Byte) × State :=
  let s1 := unitEcc s world die va n
  match vaRead s world die va n with
  | some l => (some l, s1)
  | none => (none, unitRefused s1 world die (vaReadLoc s world die) va n)

/-- Bytes written by a unit: whether they were; a refusal is logged. -/
def unitWrite (s : State) (world die : Nat) (va : Word) (bs : List Byte) : Bool × State :=
  match vaWrite s world die va bs with
  | some s1 => (true, s1)
  | none => (false, unitRefused s world die (vaLoc s world die permW) va bs.length)

/-! ## Supersteps (R337 to R340) -/

/-- A superstep of the core's gang cannot be undone: the one that is closing where `which` says so. -/
def spoilSnap (s : State) (core : Nat) (which : Bool) : State :=
  s.modCore core (fun c =>
    if which then { c with older := c.older.map (fun o => { o with unrec := true }) }
    else if c.snap.isOpen then { c with snap := { c.snap with unrec := true } } else c)

/-- The current superstep of the core's gang cannot be undone. -/
def unrecoverable (s : State) (core : Nat) : State := spoilSnap s core false

/-- The VA of a log area of a core (R337): areas 2q and 2q + 1 of rank q alternate. -/
def logArea (m : SnapMap) (rank number : Nat) : Word :=
  m.logBase + BitVec.ofNat 64 ((2 * rank + number % 2) * m.logSize)

/-- The superstep of a core to which a write belongs: `which` selects the one that is closing. -/
def snapOf (s : State) (core : Nat) (which : Bool) : Snap :=
  if which then (s.core core).older.getD Snap.empty else (s.core core).snap

/-- A member of the core's gang has recorded a place in that superstep. -/
def isRecorded (s : State) (core : Nat) (sn : Snap) (loc : Nat) : Bool :=
  (gangOf s core).any (fun k =>
    let c := s.core k
    (c.snap.isOpen && c.snap.number = sn.number && c.snap.recorded.contains loc) ||
      (c.older.any (fun o => o.number = sn.number && o.recorded.contains loc)))

/-- A place that a superstep records: the memories of the gang's clusters, the planes, the declared regions (R340). -/
def isRecordable (s : State) (core : Nat) (m : SnapMap) (loc : Nat) (va : Word) (plane : Bool) : Bool :=
  let cva (a : Word) : Nat := (canonVa s (core / 192) a).toNat
  plane || (match clusterOfLoc loc with | some c => (gangOf s core).any (fun k => k / 4 = c) | none => false) ||
    m.regions.any (fun r => cva r.1 ≤ cva va && cva va < cva r.1 + r.2)

/-- The address of the next record of a log area, and whether the area has room for it. -/
def nextRecord (s : State) (core : Nat) (m : SnapMap) (sn : Snap) : Word :=
  logArea m (rankIn (gangOf s core) core) sn.number + BitVec.ofNat 64 (0x2000 + 128 * sn.used)
def recordRoom (m : SnapMap) (sn : Snap) : Nat := (m.logSize - 0x2000) / 128 - sn.used

/-- The records of n granules wait for the log area of the core (R340). -/
def logWaits (s : State) (core : Nat) (which : Bool) (n : Nat) : Option State :=
  let sn := snapOf s core which
  if !sn.isOpen || sn.unrec || sn.ovf then none
  else
    match (jobOn s core).bind (fun j => j.snap) with
    | none => none
    | some m =>
      let k := min n (recordRoom m sn)
      if k = 0 then none
      else unitWaits s (s.core core).world (core / 192) permW (nextRecord s core m sn) (128 * k)

/-- A write of granules, each a location with its VA, by a core waits until their old contents are in the log (R340). -/
def granulesWait (s : State) (core : Nat) (which : Bool) (gs : List (Nat × Word)) : Option State :=
  let sn := snapOf s core which
  if !sn.isOpen then none
  else
    match (jobOn s core).bind (fun j => j.snap) with
    | none => none
    | some m =>
      let due := gs.filter (fun g => !isRecorded s core sn g.1 && isRecordable s core m g.1 g.2 false)
      if due = [] then none else logWaits s core which due.length

/-- The granules of n bytes at a location, with their VAs. -/
def granulesVa (loc : Nat) (va : Word) (n : Nat) : List (Nat × Word) :=
  (granules loc n).map (fun g => (g, (va &&& ~~~63#64) + BitVec.ofNat 64 (g - loc / 64 * 64)))

def writeWaits (s : State) (core : Nat) (which : Bool) (loc : Nat) (va : Word) (n : Nat) : Option State :=
  granulesWait s core which (granulesVa loc va n)

/-- The place of a plane granule for the superstep log: granule n of a core's planes (R338). -/
def planeGran (core key : Nat) : Nat := 2 ^ 58 + core * 2 ^ 32 + key / 16

/-- A write of elements of a core's planes, one in each granule, waits for the log (R340). -/
def planeKeysWait (s : State) (core : Nat) (keys : List Nat) : Option State :=
  let sn := snapOf s core false
  if !sn.isOpen then none
  else
    let due := keys.filter (fun key => !isRecorded s core sn (planeGran core key))
    if due = [] then none else logWaits s core false due.length

/-- A write of a plane in rows by columns from its start. -/
def planeWaits (s : State) (core p rows cols : Nat) : Option State :=
  planeKeysWait s core ((List.range rows).flatMap (fun r => (List.range ((cols + 15) / 16)).map (fun q => p * 2048 + 64 * r + 16 * q)))

/-- A write of one granule by a core, recorded with its old contents where a superstep is open (R340). The place is a location with
its VA, or granule n of the core's planes. A log area that refuses the record makes the superstep unrecoverable. DEDUCED (log 26). -/
def noteWrite (s : State) (core : Nat) (which : Bool) (loc : Nat) (va : Word) (plane : Bool) (old : List Byte) : State :=
  let sn := snapOf s core which
  if !sn.isOpen || sn.ovf || isRecorded s core sn loc then s
  else
    match (jobOn s core).bind (fun j => j.snap) with
    | none => s
    | some m =>
      let world := (s.core core).world
      let upd (f : Snap → Snap) (st : State) : State :=
        st.modCore core (fun c => if which then { c with older := c.older.map f } else { c with snap := f c.snap })
      if !isRecordable s core m loc va plane then upd (fun x => { x with unrec := true }) s
      else
        let rec_ := old ++ leBytes (if plane then loc % 2 ^ 32 else va.toNat) 8 ++ leBytes (if plane then 1 else 0) 8
          ++ List.replicate 48 0
        let head (off n : Nat) (st : State) : State :=
          (vaWrite st world (core / 192) (logArea m (rankIn (gangOf s core) core) sn.number + BitVec.ofNat 64 off) (leBytes n 8)).getD st
        if recordRoom m sn = 0 then head 16 1 (upd (fun x => { x with unrec := true, ovf := true }) s)
        else
          match vaWrite s world (core / 192) (nextRecord s core m sn) rec_ with
          | none => upd (fun x => { x with unrec := true }) s
          | some s1 => head 8 (sn.used + 1) (upd (fun x => { x with used := x.used + 1, recorded := loc :: x.recorded }) s1)

/-! ## The write of memory by a core, a drain or an engine -/

/-- The granules of a write are recorded, one after another. -/
def noteAll (s : State) (core : Nat) (which : Bool) (loc : Nat) (va : Word) (n : Nat) : State :=
  if !(s.core core).snap.isOpen && !((s.core core).older.isSome) then s
  else (granules loc n).foldl (fun st g =>
    noteWrite st core which g ((va &&& ~~~63#64) + BitVec.ofNat 64 (g - loc / 64 * 64)) false (st.bytes g 64)) s

/-- Granules written whole lose their error (R336). -/
def healed (s : State) (loc n : Nat) : State :=
  if s.ues = [] ∧ s.flips = [] then s
  else
    let whole := (granules loc n).filter (fun g => loc ≤ g && g + 64 ≤ loc + n)
    { s with ues := s.ues.filter (fun u => !whole.contains u.1), flips := s.flips.filter (fun u => !whole.contains u.1) }

/-- The injections armed for the world on the die alter the granule written (R347). -/
def armedInject (s : State) (world loc : Nat) : State :=
  let d := dieOfLoc loc
  match (s.wd world d).armed with
  | [] => s
  | l => (l.foldl (fun st p => inject st loc p.1 p.2) s).modWd world d (fun w => { w with armed := [] })

/-- BYTES WRITTEN at a location for a core of a world: recorded where a superstep is open, then performed. -/
def State.write (s : State) (core : Nat) (which : Bool) (loc : Nat) (va : Word) (bs : List Byte) : State :=
  let s1 := noteAll s core which loc va bs.length
  let s2 := healed (s1.setBytes loc bs) loc bs.length
  if loc < 2 ^ 56 then armedInject s2 (s.core core).world loc else s2

/-! ## Consuming an uncorrectable error (R336, R341, R342) -/

/-- The gang is aborted: every member stops, the slice completes with ABORTED (R342). -/
def abortGang (s : State) (core : Nat) : State :=
  match sliceOn s core with
  | none => s
  | some x => endSlice s x 7

/-- The supersteps of a member that a rollback would undo: the open one, and the one whose closing barrier has not completed
(R341). -/
def openSnaps (c : Core) : List Snap := (if c.snap.isOpen then [c.snap] else []) ++ c.older.toList

/-- A context of a core consumes an uncorrectable granule: a rollback, an abort, or cause 0x161 (R336). -/
def consume (s : State) (k : Nat) (va : Word) (pc : BitVec 48) : State :=
  let core := k / 16
  let gang := gangOf s core
  if (s.ctx k).kind ≠ .controller && (s.core core).snap.isOpen then
    match sliceOn s core with
    | none => s
    | some x =>
      if x.st = .rolling then s
      else if gang.any (fun m => (openSnaps (s.core m)).any (fun p => p.unrec || 3 ≤ p.rolled)) then abortGang s core
      else gang.foldl stopCore (s.modSlice x.id (fun y => { y with st := .rolling }))
  else pend s k 0x161#9 va (putAt (pc.toNat / 4) 0)

end Sys2Proof.Machine
end

