-- ==== Sys2Proof/Machine/Ops.lean ====
section
/-!
DEFINITION. The named operations over contexts: the register window, taking a cause (S trap, upcall, host stop, controller
fault) and returning, retiring an instruction, requests and load-type instructions, the journal, notices.
-/
namespace Sys2Proof.Machine

/-! ## The register window (R75 to R77) -/

/-- Is the backing slot of position q permitted (R76)? -/
def slotOk (s : State) (c : Ctx) (q : Nat) : Bool :=
  c.bsp.toNat % 64 = 0 && vaDie c.bsp ≠ 0x7FFF && ownUM s c c.bsp && (checkVa c.bsp 1).isNone
    && 8 * q + 8 ≤ c.bsl.toNat && bits c.bsp 19 0 + 8 * q + 8 ≤ 0x100000

/-- The first slot of positions lo up to lo + n − 1 that is not permitted: where several granules are spilled or filled, the
lowest-numbered bad slot of all of them is the one that 0x028 names (R76, R115). DESIGN CHOICE (log 106). -/
def badSlot (s : State) (c : Ctx) (lo n : Nat) : Option Nat :=
  ((List.range n).map (fun i => lo + i)).find? (fun q => !slotOk s c q)

/-- One spill: positions WLOW to WLOW + 7 to their slots, one granule at once, WLOW := WLOW + 8 (R75). -/
def spillOne (s : State) (k : Nat) : State :=
  let c := s.ctx k
  let lo := c.wlow.toNat
  let s1 := s.write c.coreKey false (ownKey s c c.bsp + 8 * lo) (c.bsp + BitVec.ofNat 64 (8 * lo))
    ((List.range 8).flatMap (fun i => leBytes (c.readPos (lo + i)).toNat 8))
  s1.modCtx k (fun x => { x with wlow := x.wlow + 8 })

/-- One fill: WLOW := WLOW − 8, then positions WLOW to WLOW + 7 from their slots (R75); positions of an uncorrectable
granule become 0 (R336). -/
def fillOne (s : State) (k : Nat) : State :=
  let c := s.ctx k
  let lo := c.wlow.toNat - 8
  let at_ := ownKey s c c.bsp + 8 * lo
  let (ue, s1) := readEcc s at_ 64 (some (c.bsp + BitVec.ofNat 64 (8 * lo))) (some c)
  let c1 := (List.range 8).foldl
    (fun x i => x.writePos (lo + i) (if ue then 0 else BitVec.ofNat 64 (s.readMem (at_ + 8 * i) 8))) c
  let s2 := s1.setCtx k { c1 with wlow := c.wlow - 8 }
  if ue then consume s2 k (c.bsp + BitVec.ofNat 64 (8 * lo)) c.pc else s2

def repeatOp (f : State → State) : Nat → State → State
  | 0, s => s
  | n + 1, s => repeatOp f n (f s)

/-- Granules a call by n registers must spill. -/
def spillsNeeded (c : Ctx) (n : Nat) : Nat :=
  let top := c.fb.toNat + n + 31
  let hi := c.wlow.toNat + 63
  if top ≤ hi then 0 else (top - hi + 7) / 8

/-- Granules a return by n registers must fill. -/
def fillsNeeded (c : Ctx) (n : Nat) : Nat :=
  let fb := c.fb.toNat - n
  if c.wlow.toNat ≤ fb then 0 else (c.wlow.toNat - fb + 7) / 8

/-- The spill of a slide by n waits for the superstep log of the core (R340). -/
def spillWaits (s : State) (k n : Nat) : Option State :=
  let c := s.ctx k
  let lo := c.wlow.toNat
  let g := spillsNeeded c n
  if (badSlot s c lo (8 * g)).isSome then none
  else writeWaits s c.coreKey false (ownKey s c c.bsp + 8 * lo) (c.bsp + BitVec.ofNat 64 (8 * lo)) (64 * g)

/-- A stack position locked by a load of the context (R92). -/
def posLocked (s : State) (k pos : Nat) : Bool := s.ops.any (fun o => o.ctx = k && o.dest = .reg pos)

/-- A position from lo up to lo + n − 1 is locked. -/
def spanLocked (s : State) (k lo n : Nat) : Bool := (List.range n).any (fun i => posLocked s k (lo + i))

/-- A slide by n would read or write a locked register (R75, R77, R92): one that it spills, one that it sets to zero, or the
link. DEDUCED (log 88). -/
def slideLocked (s : State) (k n : Nat) : Bool :=
  let c := s.ctx k
  spanLocked s k c.wlow.toNat (8 * spillsNeeded c n) ||
    (if n = 0 then posLocked s k (c.fb.toNat + 31) else spanLocked s k (c.fb.toNat + 32) n)

/-- The slide of a call by n with its link, or the slot of the spill that is not permitted (R106, R77). -/
def slideUp (s : State) (k n : Nat) (next : BitVec 48) : Except Word State :=
  let c := s.ctx k
  let g := spillsNeeded c n
  match badSlot s c c.wlow.toNat (8 * g) with
  | some q => .error (c.bsp + BitVec.ofNat 64 (8 * q))
  | none =>
    let s1 := repeatOp (fun st => spillOne st k) g s
    let fb := c.fb.toNat
    let c1 := s1.ctx k
    let c2 := (List.range (n - 1)).foldl (fun x i => x.writePos (fb + 32 + i) 0) c1
    let link : Word := putAt n 59 ||| next.zeroExtend 64
    let c3 := c2.writePos (fb + n + 31) link
    .ok (s1.setCtx k { c3 with fb := BitVec.ofNat 64 (fb + n) })

/-! ## Causes: routing and entry (R163 to R175) -/

/-- The three routes of a cause. -/
inductive Route where
  | upcall | strap | host
  deriving DecidableEq, Repr

/-- The route of a cause under TROUTE (R169). -/
def routeOf (route : BitVec 32) (cause : Cause) : Route :=
  let cls := cause.toNat / 32
  let f := (route.extractLsb' (2 * cls) 2).toNat
  if cause = 0x006#9 then .strap
  else if cls = 15 then .host
  else if cause = 0x061#9 then .upcall
  else if f = 2 then .host
  else if f = 0 ∧ cls ≠ 10 ∧ cls ≠ 13 then .upcall
  else .strap

/-- What is left of a multi-step wait goes when the instruction retires or is left. -/
def Ctx.clearWait (c : Ctx) : Ctx :=
  { c with phase := 0, waitEntries := [], waitSubs := [], released := 0, demandFault := false, demandAge := none,
           forcing := [], limitAt := none }

/-- The phase of an instruction whose effects have all begun, and which only its last wait keeps from retiring: it is not left before
(R182, R233). DEDUCED (log 133). -/
def committed : Nat := 20

/-- TAKING A CAUSE as an S trap (R171): the one shared entry. -/
def sTrap (s : State) (k : Nat) (async : Bool) (cause : Cause) (taddr tinfo : Word) (resume : BitVec 48) : State :=
  s.modCtx k (fun c =>
    { c.clearWait with
      trap := { c.trap with tpc := resume, cause := cause, async := async, ppriv := c.priv, active := true,
                            taddr := taddr, tinfo := tinfo }
      priv := true, pc := c.trap.tvec, fetched := [], fetching := none })

/-- A cause routed to the host (R174): the context stops, the saved registers are set, ACTIVE and the privilege stay,
and a record goes to the world's host interrupt vector. -/
def hostStop (s : State) (k : Nat) (async : Bool) (cause : Cause) (taddr tinfo : Word) (resume : BitVec 48) : State :=
  let c := s.ctx k
  let s1 := s.modCtx k (fun c =>
    { c.clearWait with
      trap := { c.trap with tpc := resume, cause := cause, async := async, ppriv := c.priv, taddr := taddr, tinfo := tinfo }
      run := .stopped, fetched := [], fetching := none })
  { s1 with hostIrqs := s1.hostIrqs ++ [(c.world, cause, ctxWord s c)] }

/-- An S trap, or the double trap of an exact cause during an active S trap (R175). -/
def sTrapOrDouble (s : State) (k : Nat) (async : Bool) (cause : Cause) (taddr tinfo : Word) (resume : BitVec 48) : State :=
  if !async && (s.ctx k).trap.active then hostStop s k false 0x1E1#9 taddr (cause.zeroExtend 64) resume
  else sTrap s k async cause taddr tinfo resume

/-- May an upcall be taken now (R172, R173)? -/
def Ctx.upcallOpen (c : Ctx) : Bool := !c.priv && c.trap.upvec ≠ 0 && !c.trap.busy

/-- An upcall (R172); an S trap instead where its spill is not permitted. -/
def upcall (s : State) (k : Nat) (async : Bool) (cause : Cause) (taddr tinfo : Word) (resume : BitVec 48) : State :=
  match slideUp s k 31 resume with
  | .error _ => sTrapOrDouble s k async cause taddr tinfo resume
  | .ok s1 =>
    s1.modCtx k (fun c =>
      let c1 := ((c.writeS 1 (cause.zeroExtend 64 ||| putAt (if async then 1 else 0) 16)).writeS 2 taddr).writeS 3 tinfo
      { c1.clearWait with trap := { c1.trap with busy := true }, pc := c1.trap.upvec, fetched := [], fetching := none })

/-- THE END OF AN ADMISSION: a failure posts STATUS 5, and its window keeps what the translator wrote (R24); its core is
freed; it stays while others wait for its outcome (R25). -/
def finishAdmit (s : State) (a : Admit) (e : AdmitEnd) : State :=
  let s1 := if e.cause = 0 then s
            else (pushCompletion s a.world a.die a.tag 5 e.cause.toNat e.offset 0 0).modWd a.world a.die (fun w =>
              { w with stale := w.stale ++ [(a.ow.toNat, a.owSize)] })
  let s2 := match a.ctx with
    | some k => freeCore s1 (k / 16)
    | none => s1
  let rest := s2.admits.filter (fun x => x.id ≠ a.id)
  { s2 with admits := if rest.any (fun x => x.waits = some a.id) then rest ++ [{ a with ctx := none, ended := some e }] else rest }

/-- The end of a translation by a cause (R300): STATUS 5 with the cause and TPC − XWBASE; nothing is cached. -/
def translatorFail (s : State) (k : Nat) (cause : Cause) (pc : BitVec 48) : State :=
  let c := s.ctx k
  match s.admits.find? (fun a => a.ctx = some k) with
  | none => s.modCtx k (fun c => { c with run := .done, fetched := [], fetching := none })
  | some a =>
    finishAdmit s a { cause := cause, offset := pc.zeroExtend 64 - (c.meter.xwBase &&& 0x0000FFFFFFFFFFFF#64),
                      meter := c.meter.meter.toNat, halted := false }

/-- A controller fault (R314): CFAULT, CFADDR and CFINFO, then the handler; during a handler the controller stops, and
the SCTL's own double fault resets the package. -/
def controllerFault (s : State) (k : Nat) (cause : Cause) (taddr tinfo : Word) : State :=
  let c := s.ctx k
  let s1 := s.modCtx k (fun c =>
    { c.clearWait with cfault := putAt 1 63 ||| cause.zeroExtend 64, cfaddr := taddr, cfinfo := tinfo,
                       fetched := [], fetching := none, waiting := false })
  if bit c.ciret 0 then
    let s2 := s1.modCtx k (fun c => { c with run := .halted })
    if c.core = 0 then { s2 with resetDue := true, answers := s2.answers ++ [{ world := 0, code := .doubleFault cause, data := [] }] }
    else
      let m := Tbl.get CtlImage.empty s2.ctlImages c.core
      let m1 := { m with faults := (m.faults.filter (fun t => s.clk < t + 15000000)) ++ [s.clk], double := true }
      let s0 := { s2 with ctlImages := Tbl.put CtlImage.empty s2.ctlImages c.core m1 }
      let s3 := s0.logAt (logKey 0 16 c.core) [taddr, putAt 7 56 ||| putAt 16 42 ||| putAt c.core 32 ||| cause.zeroExtend 64, 0, s.cycle]
      { s3 with hostIrqs := s3.hostIrqs ++ [(0, 0x1E5#9, putAt c.core 16 ||| cause.zeroExtend 64)] }
  else
    s1.modCtx k (fun c => { c with ciret := (c.pc.zeroExtend 64 &&& ~~~3#64) ||| 1#64, pc := c.civec.truncate 48 })

/-- An upcall for a cause would slide over a locked register, or its spill waits for the log: it waits (R92, R172, R340). -/
def upcallStalls (s : State) (k : Nat) (cause : Cause) : Bool :=
  let c := s.ctx k
  (c.kind = .control || c.kind = .helper) && routeOf (s.core c.coreKey).route cause = .upcall && c.upcallOpen &&
    (slideLocked s k 31 || (spillWaits s k 31).isSome)

/-- RAISING AN EXACT CAUSE at an instruction of context k (R170, R171, R172, R174, R175, R300, R314). An upcall whose slide
touches a locked register waits for it (R92); a translation ends once the accesses of its retired instructions have been
performed, so that its window keeps what it stored (R24, R306). DEDUCED (log 122). -/
def raiseExact (s : State) (k : Nat) (cause : Cause) (taddr tinfo : Word) (resume : BitVec 48) : State :=
  let c := s.ctx k
  match c.kind with
  | .controller => controllerFault s k cause taddr tinfo
  | .translator => if s.ops.any (fun o => o.ctx = k) then s else translatorFail s k cause resume
  | _ =>
    match routeOf (s.core c.coreKey).route cause with
    | .host => hostStop s k false cause taddr tinfo resume
    | .strap => sTrapOrDouble s k false cause taddr tinfo resume
    | .upcall =>
      if !c.upcallOpen then sTrapOrDouble s k false cause taddr tinfo resume
      else if upcallStalls s k cause then (spillWaits s k 31).getD s
      else upcall s k false cause taddr tinfo resume

/-- Taking an asynchronous cause at a boundary (R170 to R174); in a translator it ends the translation (R300). -/
def takeAsync (s : State) (k : Nat) (p : PCause) : State :=
  let c := s.ctx k
  if c.kind = .translator then translatorFail s k p.cause c.pc
  else
  match routeOf (s.core c.coreKey).route p.cause with
  | .host => hostStop s k true p.cause p.taddr p.tinfo c.pc
  | .strap => sTrap s k true p.cause p.taddr p.tinfo c.pc
  | .upcall => upcall s k true p.cause p.taddr p.tinfo c.pc

/-- The pending cause that is taken at the next boundary: the oldest, unless its route is closed (R170, R173).
DEDUCED (log 74). -/
def Ctx.takeable (c : Ctx) (route : BitVec 32) : Option PCause :=
  match c.pending with
  | [] => none
  | p :: _ =>
    if c.kind = .translator then some p
    else
    match routeOf route p.cause with
    | .host => some p
    | .strap => if c.trap.active then none else some p
    | .upcall => if c.upcallOpen && !c.holdBack then some p else none

/-- The pending cause that context k takes at its next boundary. -/
def causeDue (s : State) (k : Nat) : Option PCause :=
  match (s.ctx k).takeable (s.core (s.ctx k).coreKey).route with
  | some p =>
    if upcallStalls s k p.cause || ((s.ctx k).kind = .translator && s.ops.any (fun o => o.ctx = k)) then none else some p
  | none => none

/-- THE RETURN from an S trap (R177). -/
def sReturn (s : State) : State :=
  s.modCx (fun c =>
    { c.clearWait with pc := c.trap.tpc, priv := c.trap.ppriv, trap := { c.trap with active := false },
                       fetched := [], fetching := none })

/-! ## Retiring (R99, R170, R299) -/

/-- Sub-tiles that a demand released have not left the pool of a cluster. -/
def demandOpen (s : State) (ck n : Nat) : Bool :=
  let cl := s.cluster ck
  (cl.pool ++ cl.poolWait).any (fun e => e.demand.any (fun d => d.2 = n))

/-- A late report becomes a pending cause; further faulted nodes are logged in the siding's log (R162). -/
def reportOne (k : Nat) (s : State) (l : Late) : State :=
  let c := s.ctx k
  let s1 := if l.cause ≠ 0x081#9 then s
            else (l.nodes.filter (fun p => p.1 ≠ l.age)).foldl (fun st p =>
              st.logRec c.die 7 (c.coreKey % 192) (p.2.zeroExtend 64) 5 0x081 (some c)) s
  pend s1 k l.cause l.taddr (l.tinfo ||| putAt (satTo l.nodes.length 511) 32)

/-- The late reports of a context that are complete become pending causes: those of a demand whose sub-tiles have all left the pool,
but not of the one that its instruction waits for (R162). DEDUCED (log 132). -/
def flushLates (s : State) (k : Nat) : State :=
  let c := s.ctx k
  let due (l : Late) : Bool :=
    !(c.run = .live && c.demandAge.isSome && c.demandId = l.demand) && !demandOpen s c.clusterKey l.demand
  if c.lates = [] then s
  else (c.lates.filter due).foldl (reportOne k) (s.modCtx k (fun x => { x with lates := x.lates.filter (fun l => !due l) }))

/-- What every retirement does besides the PC: late reports become pending causes (R162), the hold on upcalls ends (R173), the
meter counts (R299), the context pulses (R291). -/
def afterRetire (s : State) : State :=
  let lates := s.cx.lates.filter (fun l => !demandOpen s s.cx.clusterKey l.demand)
  let s1 := s.modCx (fun c =>
    { c.clearWait with lates := c.lates.filter (fun l => demandOpen s c.clusterKey l.demand), holdBack := false, pulse := s.clk,
                       meter := if c.kind = .translator then { c.meter with meter := c.meter.meter + 1 } else c.meter })
  lates.foldl (reportOne s.cur) s1

/-- The instruction retires and PC moves on by its length. -/
def retire (s : State) (n : Nat) : State :=
  afterRetire (s.modCx (fun c => { c with pc := c.pc + BitVec.ofNat 48 n, fetched := c.fetched.drop (n / 4) }))

/-- The instruction retires with a control transfer: the words fetched ahead go (R292). -/
def jump (s : State) (t : BitVec 48) : State :=
  afterRetire (s.modCx (fun c => { c with pc := t, fetched := [], fetching := none }))

/-! ## TINFO -/

/-- The first word of an instruction (R47). -/
def firstWord (i : Instr) : Word := ((encodeFirst i).getD 0).zeroExtend 64

/-- TINFO of a class-0 or class-13 cause (R47). -/
def tinfo0 (i : Instr) : Word := firstWord i ||| (((encodeSecond i).getD 0).zeroExtend 64 <<< 32)

/-- TINFO of a class-1 cause (R115). -/
def tinfo1 (i : Instr) (size : Nat) (store : Bool) : Word :=
  firstWord i ||| putAt size 32 ||| putAt (if store then 1 else 0) 40

/-- TINFO of an engine refusal (R165, R244). -/
def tinfoReason (i : Instr) (reason : Nat) : Word := firstWord i ||| putAt reason 32

/-- Raise an exact cause at the instruction of the issuing context. -/
def raiseHere (s : State) (cause : Cause) (taddr tinfo : Word) : State := raiseExact s s.cur cause taddr tinfo s.cx.pc

/-! ## Requests and load-type instructions -/

/-- A new load-type instruction of the issuing context with n requests: its loads counter rises by one (R92, R111). -/
def newOp (s : State) (dest : Dest) (n : Nat) (cause : Cause) (acq : Bool) : Nat × State :=
  let (id, s1) := s.fresh
  let o : Op := { id := id, ctx := s.cur, pc := s.cx.pc, dest := dest, left := n, refused := 0, firstRef := none,
                  cause := cause, parkedAt := none, parkVa := 0, noticed := false, acq := acq, flags := 0 }
  (id, { s1 with ops := s1.ops ++ [o] }.modCx (fun c => { c with loads := c.loads + 1 }))

/-- A request of the issuing context for element `elem` of instruction `op`. -/
def sendReq (s : State) (kind : ReqKind) (op elem : Nat) (signed : Bool) (va : Word) (size : Nat)
    (fwd : List (Nat × Byte)) : State :=
  let (id, s1) := s.fresh
  let c := s.cx
  let r : Req := { id := id, kind := kind, op := op, elem := elem, signed := signed, ctx := s.cur, world := c.world,
                   die := c.die, cluster := c.cluster, va := va, size := size,
                   route := routeDie s c.die va, fwd := fwd, st := .sent, page := none }
  { s1 with reqs := s1.reqs ++ [r] }.noteSent id (ctxUnit s c) r.route

def State.req (s : State) (id : Nat) : Option Req := s.reqs.find? (fun r => r.id = id)
def State.modReq (s : State) (id : Nat) (f : Req → Req) : State :=
  { s with reqs := s.reqs.map (fun r => if r.id = id then f r else r) }
def State.dropReq (s : State) (id : Nat) : State := { s with reqs := s.reqs.filter (fun r => r.id ≠ id) }.takeEffect id true
def State.op (s : State) (id : Nat) : Option Op := s.ops.find? (fun o => o.id = id)
def State.modOp (s : State) (id : Nat) (f : Op → Op) : State :=
  { s with ops := s.ops.map (fun o => if o.id = id then f o else o) }

/-- A plane locked by a load of a context of the core (R122). -/
def planeLocked (s : State) (core p : Nat) : Bool := s.ops.any (fun o => o.ctx / 16 = core && o.dest = .plane p)

/-- The destination of a register result: none for s0 (R33). -/
def regDest (c : Ctx) (r : SReg) : Dest := if r = 0 then .none else .reg (c.posOf r)

/-- An instruction of a context waits: nothing changes and it is issued again. -/
def stay (s : State) : Out := .next s

/-! ## The journal (R146 to R148) -/

/-- The granule of an address. -/
def granOf (va : Word) : Word := va &&& ~~~63#64

/-- One byte put into an entry's data and mask. -/
def JEntry.put (e : JEntry) (off : Nat) (b : Byte) : JEntry :=
  let m : BitVec 512 := (0xFF#512) <<< (8 * off)
  { e with mask := e.mask ||| ((1#64) <<< off), data := (e.data &&& ~~~m) ||| ((b.zeroExtend 512) <<< (8 * off)) }

def JEntry.putAll (e : JEntry) (off : Nat) : List Byte → JEntry
  | [] => e
  | b :: t => JEntry.putAll (e.put off b) (off + 1) t

/-- The byte that an entry holds at an offset. -/
def JEntry.byteAt (e : JEntry) (off : Nat) : Option Byte :=
  if e.mask.getLsbD off then some ((e.data >>> (8 * off)).truncate 8) else none

/-- The address of the first byte of a granule that a mask names. -/
def firstByte (gran : Word) (mask : BitVec 64) : Word :=
  gran + BitVec.ofNat 64 (((List.range 64).find? (fun i => mask.getLsbD i)).getD 0)

/-- The youngest entry of a list: entries are held in order of creation. -/
def youngest (l : List JEntry) : Option JEntry := l.getLast?

/-- The lowest entry number not in use. -/
def freeSlot (j : List JEntry) (n : Nat) : Option Nat := (List.range n).find? (fun i => !(j.any (fun e => e.slot = i)))

/-- Post bytes of the element at `elem` that lie in one granule: merge into the youngest entry of the granule or take a new
one; none where the journal is full (R146, R147). -/
def postOne (s : State) (k : Nat) (pc : BitVec 48) (instr : Nat) (elem va : Word) (bs : List Byte) : Option State :=
  let core := k / 16
  let slot := k % 16
  let g := granOf (canonVa s (core / 192) va)
  let off := bits va 5 0
  let co := s.core core
  let fresh (_ : Unit) : Option State :=
    match freeSlot co.journal 512 with
    | none => none
    | some n =>
      let (id, s1) := s.fresh
      let e : JEntry := { id := id, slot := n, gran := g, mask := 0, data := 0, phase := co.phase, ctxSlot := slot, pc := pc,
                          instr := instr, elems := [elem], parkedAt := none, noticed := false, st := .resting, req := none }
      some (s1.modCore core (fun x => { x with journal := x.journal ++ [e.putAll off bs] }))
  match youngest (co.journal.filter (fun e => e.gran = g)) with
  | none => fresh ()
  | some y =>
    if y.phase = co.phase && y.ctxSlot = slot && (y.st = .resting || y.st = .leaving) then
      some (s.modCore core (fun x =>
        { x with journal := x.journal.map (fun e => if e.id = y.id then { e.putAll off bs with elems := e.elems ++ [elem] } else e) }))
    else fresh ()

/-- The bytes that the core's journal holds at va .. va + n − 1, the youngest entry first (R92). DEDUCED (log 85). -/
def forwarded (s : State) (core : Nat) (va : Word) (n : Nat) : List (Nat × Byte) :=
  let j := (s.core core).journal.reverse
  (List.range n).filterMap (fun i =>
    let a := canonVa s (core / 192) (va + BitVec.ofNat 64 i)
    (j.findSome? (fun e => if e.gran = granOf a then e.byteAt (bits a 5 0) else none)).map (fun b => (i, b)))

/-- The byte range of an entry, by VA: for overlap tests between instructions of the core. -/
def JEntry.coversVa (e : JEntry) (va : Word) (n : Nat) : Bool :=
  (List.range n).any (fun i =>
    let a := va + BitVec.ofNat 64 i
    e.gran = granOf a && e.mask.getLsbD (bits a 5 0))

/-- The context of an entry: an ended helper's entries are the control context's (R82, R148). -/
def entryCtx (core : Nat) (e : JEntry) : Nat := core * 16 + e.ctxSlot

/-- An entry leaves while the stores counter of its context is below 63 (R148). -/
def leaveOne (s : State) (core : Nat) (e : JEntry) : State :=
  let k := entryCtx core e
  if 63 ≤ (s.ctx k).stores then s
  else
    let c := s.ctx (core * 16)
    let (id, s1) := s.fresh
    let r : Req := { id := id, kind := .drain e.id, op := 0, elem := e.slot, signed := false, ctx := k, world := c.world,
                     die := c.die, cluster := c.cluster, va := e.gran, size := 64,
                     route := routeDie s c.die e.gran, fwd := [], st := .sent, page := none }
    let s2 := { s1 with reqs := s1.reqs ++ [r] }.noteSent id (ctxUnit s c) r.route
    (s2.modCtx k (fun x => { x with stores := x.stores + 1 })).modCore core (fun x =>
      { x with journal := x.journal.map (fun y => if y.id = e.id then { y with st := .inflight, req := some id } else y) })

/-- Every entry that waits to leave leaves if it can, the oldest first (R148). -/
def leaveAll (s : State) (core : Nat) : State :=
  ((s.core core).journal.filter (fun e => e.st = .leaving)).foldl (fun st e => leaveOne st core e) s

/-- A drain of the resting entries that a test selects, with every older entry for the granule of one of them, which is
performed before it (R405); the numbers of the entries it waits for are those that have not been acknowledged (R148). -/
def drain (s : State) (core : Nat) (sel0 : JEntry → Bool) : List Nat × State :=
  let j := (s.core core).journal
  let sel (e : JEntry) : Bool := sel0 e || j.any (fun f => e.id < f.id && e.gran = f.gran && sel0 f)
  let ids := (j.filter sel).map (·.id)
  (ids, leaveAll (s.modCore core (fun x =>
    { x with journal := x.journal.map (fun e => if sel e && e.st = .resting then { e with st := .leaving } else e) })) core)

/-- Every entry of a list has been acknowledged: it is no longer in the journal. -/
def acked (s : State) (core : Nat) (ids : List Nat) : Bool :=
  !((s.core core).journal.any (fun e => ids.contains e.id))

/-- Entries of several cores. -/
def ackedAll (s : State) (l : List (Nat × Nat)) : Bool := l.all (fun p => acked s p.1 [p.2])

/-! ## Notices (R179) -/

def postNotice (s : State) (k : Nat) (pc : BitVec 48) : State :=
  let k := if (s.ctx k).run = .free || (s.ctx k).run = .ended then k / 16 * 16 else k
  s.modCtx k (fun c =>
    if 64 ≤ c.notices.length then { c with notqOvf := true }
    else { c with notices := c.notices ++ [putAt 1 56 ||| pc.zeroExtend 64] })

end Sys2Proof.Machine
end

