-- ==== Sys2Proof/Machine/Operands.lean ====
section
/-!
DEFINITION. Operand forms and what an instruction names: its set, feature leaf, context restriction, planes, registers
(spec 02 R34, R42 to R46; 05 R123), the presence of system registers, and the gate that every instruction passes before
it acts: the checks of R46 in their order, then locks.
-/
namespace Sys2Proof.Machine

/-- A native instruction (majors 0x10 and above, R27). -/
def isNative (i : Instr) : Bool :=
  match encodeFirst i with
  | some w => 0x10 ≤ (majorOf w).toNat
  | none => false

/-- The feature leaf of a word (R34); 0 for the Pliren set and the leaf that cannot be masked. -/
def leafOfWord (w : Word32) : Nat :=
  match (majorOf w).toNat with
  | 0x10 => 1 | 0x11 => 1 | 0x14 => 1
  | 0x12 => 2 | 0x13 => 2
  | 0x15 => 3
  | 0x16 => if fld w 0 9 = 0#9 then 0 else 4
  | 0x18 => if (fld w 7 3).toNat ≤ 1 then 5 else 6
  | 0x19 => if (fld w 0 4).toNat = 2 then 0 else 7
  | 0x1A => 8 | 0x1B => 9 | 0x1C => 10 | 0x20 => 11 | 0x21 => 12 | 0x22 => 13 | 0x23 => 14 | 0x24 => 15 | 0x25 => 16
  | 0x26 => 17
  | 0x30 => 18 + (fld w 7 3).toNat
  | _ => 0

def leafOf (i : Instr) : Nat := leafOfWord ((encodeFirst i).getD 0)

/-- A leaf that R34 assigns. -/
def leafAssigned (l : Nat) : Bool := l ≤ 23

/-- The control-only instructions (R34). -/
def controlOnly : Instr → Bool
  | .hstart .. | .hjoin .. | .hstat .. | .yield .. | .sdone .. | .arrive .. | .wait .. | .bmask .. | .bstep ..
  | .rankset .. | .rankmv .. | .coll .. | .cwait .. | .view .. | .vack .. => true
  | _ => false

/-- The S-only instructions (R34). -/
def sOnly : Instr → Bool
  | .eret | .xlat .. | .iinv .. | .rankset .. | .rankmv .. => true
  | _ => false

/-- The fields that name planes (R123). -/
def planesOf : Instr → List PReg
  | .vadd d a b _ _ _ | .vsub d a b _ _ _ | .vmul d a b _ _ _ | .vmulh d a b _ _ _ | .vfma d a b _ _ _
  | .vmin d a b _ _ _ | .vmax d a b _ _ _ | .vdiv d a b _ _ _ => [d, a, b]
  | .vabs d a _ _ _ | .vneg d a _ _ _ | .vsqrt d a _ _ _ => [d, a]
  | .vaddImm d a _ _ _ _ | .vsubImm d a _ _ _ _ | .vmulImm d a _ _ _ _ | .vmulhImm d a _ _ _ _
  | .vminImm d a _ _ _ _ | .vmaxImm d a _ _ _ _ | .vdivImm d a _ _ _ _ => [d, a]
  | .vand d a b _ _ | .vor d a b _ _ | .vxor d a b _ _ | .vshl d a b _ _ | .vshr d a b _ _ | .vsar d a b _ _
  | .vsel d a b _ _ | .vperm d a b _ _ => [d, a, b]
  | .vpopc d a _ _ | .vclz d a _ _ | .vtrans d a _ _ => [d, a]
  | .vandImm d a _ _ _ | .vorImm d a _ _ _ | .vxorImm d a _ _ _ | .vshlImm d a _ _ _ | .vshrImm d a _ _ _
  | .vsarImm d a _ _ _ => [d, a]
  | .vcmp _ _ a b _ _ _ => [a, b]
  | .vcmpImm _ _ a _ _ _ _ => [a]
  | .vbcast d _ _ _ | .vbcastImm d _ _ _ | .vidx d _ _ => [d]
  | .vred d a _ _ _ _ _ | .vscan d a _ _ _ _ _ => [d, a]
  | .vcvtTo d a _ _ _ _ _ | .vcvtFrom d a _ _ _ _ _ => [d, a]
  | .vld p _ _ _ _ | .vst p _ _ _ _ | .vldb p _ _ _ | .vstb p _ _ _ => [p]
  | .vldi p _ i _ _ | .vsti p _ i _ _ | .vamo p _ i _ _ | .vrst p _ i _ _ => [p, i]
  | _ => []

/-- The window registers an instruction reads or writes: it waits while one is locked (R92). -/
def regsOf : Instr → List SReg
  | .add d a b | .sub d a b | .and d a b | .or d a b | .xor d a b | .shl d a b | .shr d a b | .sar d a b
  | .mul d a b | .mulh d a b | .mulhz d a b | .div d a b | .divz d a b | .rem d a b | .remz d a b | .slt d a b
  | .sltz d a b => [gS d, gS a, gS b]
  | .addi d a _ | .andi d a _ | .ori d a _ | .xori d a _ | .slti d a _ | .sltzi d a _ | .jalr d a _ => [gS d, gS a]
  | .shli d a _ | .shri d a _ | .sari d a _ => [gS d, gS a]
  | .liu d _ | .jal d _ => [gS d]
  | .ld8s d b _ | .ld8z d b _ | .ld16s d b _ | .ld16z d b _ | .ld32s d b _ | .ld32z d b _ | .ld64 d b _ => [gS d, gS b]
  | .st8 v b _ | .st16 v b _ | .st32 v b _ | .st64 v b _ => [gS v, gS b]
  | .beq a b _ | .bne a b _ | .blt a b _ | .bge a b _ | .bbl a b _ | .bae a b _ => [gS a, gS b]
  | .sysCtrd d a | .sysEntropy d a | .sysWfi d a => [gS d, gS a]
  | .getx d _ => [gS d]
  | .putx a _ => [gS a]
  | .clz d a | .ctz d a | .popc d a | .bitrev d a | .bswap d a | .dieof d a => [d, a]
  | .sel d a b | .mkva d a b | .addva d a b => [d, a, b]
  | .bfx d a _ _ | .bfi d a _ _ => [d, a]
  | .callr _ a => [a]
  | .ret => [31]
  | .ldk d _ | .ldkZ d _ | .ldkHi d _ | .ldbits d _ _ | .rdctr d _ | .yield d | .pend d | .shapeq d => [d]
  | .setba a | .stbits a _ | .hquit a | .trap a | .sdone a => [a]
  | .hstart d a b => [d, a, b]
  | .hjoin d a | .hstat d a | .query d a | .xlat d a => [d, a]
  | .iinv a b | .iprf a b => [a, b]
  | .amo d a b _ _ _ | .cas d a b _ _ | .amosc d a b _ _ => [d, a, b]
  | .ldsc d a _ => [d, a]
  | .stsc a b _ => [a, b]
  | .arrive d _ _ _ | .wait d _ _ => [d]
  | .bmask d a _ _ | .bstep d a _ _ => [d, a]
  | .ffill d a | .fwait d a | .fpoll d a | .coll d a | .cwait d a | .view d a | .vack d a => [d, a]
  | .send d a b _ | .recv d a b | .rankset d a b | .rankmv d a b | .shape d a b => [d, a, b]
  | .vbcast _ s _ _ => [s]
  | .kpop d _ => [d]
  | .vld _ b s _ _ | .vst _ b s _ _ => [b, s]
  | .vldi _ b _ _ _ | .vsti _ b _ _ _ | .vamo _ b _ _ _ | .vrst _ b _ _ _ => [b]
  | .tdefDefine d a b | .tdefStatus d a b | .tdefClearStatus d a b | .tdefUndefine d a b | .ttypeDefine d a b
  | .ttypeUndefine d a b | .force d a b | .tmul d a b | .tew d a b | .tred d a b | .tcvt d a b | .tmove d a b
  | .tgather d a b => [d, a, b]
  | .tdrop d a | .sidq d a | .tenq d a => [d, a]
  | .upframeWrite a | .rdoorWrite a | .s1rootWrite a | .tinvWrite a | .prqreplyWrite a | .groupRegisterWrite a _
  | .tqctlWrite a | .genericRegisterWrite (.reg a _) | .caliveWrite a | .schctlOnline a _ | .schctlDrain a _
  | .schctlOffline a _ | .schctlFenced a _ | .trnctlGo a _ | .cgateWrite a _ | .lnctlGo a _ | .elselWrite a
  | .spareWrite a | .einjcInject a | .xctlWrite a | .rtbaseWrite a | .rtlenWrite a | .vcfgInstall a _
  | .vcfgClear a _ => [gS a]
  | .prq1Read d | .elreadRead d => [gS d]
  | .fprogGo v b _ | .rsacmdGo v b _ | .wtearGo v b _ | .kzeroGo v b _ | .mcmdGo v b _ | .dbgctlOpen v b _
  | .genericRegisterWrite (.device v b _) => [gS v, gS b]
  | _ => []

/-- The instructions that access memory and so wait behind a `.acq` (R270). -/
def memAccess : Instr → Bool
  | .ld8s .. | .ld8z .. | .ld16s .. | .ld16z .. | .ld32s .. | .ld32z .. | .ld64 .. | .st8 .. | .st16 .. | .st32 ..
  | .st64 .. | .ldbits .. | .stbits .. | .vld .. | .vst .. | .vldi .. | .vsti .. | .vldb .. | .vstb .. | .amo ..
  | .cas .. | .vamo .. | .vrst .. | .ldsc .. | .stsc .. | .amosc .. | .ffill .. | .fwait .. | .fpoll .. | .tdefDefine ..
  | .tdefStatus .. | .tdefClearStatus .. | .tdefUndefine .. | .ttypeDefine .. | .ttypeUndefine .. | .force .. | .tdrop ..
  | .sidq .. | .tmul .. | .tew .. | .tred .. | .tcvt .. | .tmove .. | .tgather .. | .tenq .. | .publish .. | .send ..
  | .recv .. | .coll .. | .cwait .. | .rankset .. | .rankmv .. => true
  | _ => false

/-- The plane that an instruction writes. -/
def planeWritten (i : Instr) : Option PReg :=
  match i with
  | .vcmp .. | .vcmpImm .. | .vst .. | .vsti .. | .vstb .. | .vrst .. => none
  | _ => (planesOf i).head?

/-- A call or return spills or fills granules of the register stack in memory (R75, R270). -/
def movesWindow (c : Ctx) (i : Instr) : Bool :=
  match i with
  | .call n _ | .callFar n _ | .callr n _ => spillsNeeded c n.toNat ≠ 0
  | .ret => !(c.kind = .helper && c.readS 31 = 0) && fillsNeeded c (bits (c.readS 31) 63 59) ≠ 0
  | _ => false

/-- What an instruction writes at issue besides memory that it names waits for the superstep log: a plane, or a spill (R340). A plane
counts as written in all of the shape. DESIGN CHOICE (log 131). -/
def recordWaits (s : State) (i : Instr) : Option State :=
  match i with
  | .call n _ | .callFar n _ | .callr n _ => spillWaits s s.cur n.toNat
  | _ => (planeWritten i).bind (fun p => planeWaits s s.cx.coreKey p.toNat s.cx.rows s.cx.cols)

/-! ## System registers: presence and privilege (R42, R43, R45) -/

/-- The register that an instruction reads (false) or writes (true) by number. -/
def sysRegOf : Instr → Option (BitVec 12 × Bool)
  | .getx _ r => some (r, false)
  | .putx _ r => some (r, true)
  | .upframeWrite _ => some (regUPFRAME, true) | .rdoorWrite _ => some (regRDOOR, true)
  | .s1rootWrite _ => some (regS1ROOT, true) | .tinvWrite _ => some (regTINV, true)
  | .prq1Read _ => some (regPRQ1, false) | .prqreplyWrite _ => some (regPRQREPLY, true)
  | .groupRegisterWrite _ r => some (r, true) | .tqctlWrite _ => some (regTQCTL, true)
  | .genericRegisterWrite (.reg _ r) => some (r, true) | .caliveWrite _ => some (regCALIVE, true)
  | .schctlOnline _ n | .schctlDrain _ n | .schctlOffline _ n | .schctlFenced _ n => some (regSCHCTL n, true)
  | .trnctlGo _ n => some (regTRNCTL n, true) | .cgateWrite _ d => some (regCGATE d, true)
  | .lnctlGo _ l => some (regLNCTL l, true) | .elselWrite _ => some (regELSEL, true)
  | .elreadRead _ => some (regELREAD, false) | .spareWrite _ => some (regSPARE, true)
  | .einjcInject _ => some (regEINJC, true) | .xctlWrite _ => some (regXCTL, true)
  | .rtbaseWrite _ => some (regRTBASE, true) | .rtlenWrite _ => some (regRTLEN, true)
  | .vcfgInstall _ v | .vcfgClear _ v => some (regVCFG v, true)
  | _ => none

/-- The compute registers that the chapters assign. -/
def computeAssigned (r : Nat) : Bool :=
  r ≤ 0x013 || (0x080 ≤ r && r ≤ 0x089) || (0x100 ≤ r && r ≤ 0x103) || (0x200 ≤ r && r ≤ 0x208) ||
  (0x210 ≤ r && r ≤ 0x214) || (0x300 ≤ r && r ≤ 0x358)

/-- The controller registers of a controller number (R310, R311, R318, R323, R325). -/
def controllerAssigned (n r : Nat) : Bool :=
  (0x800 ≤ r && r ≤ 0x807) || (n = 1 && 0x820 ≤ r && r ≤ 0x829) ||
  (2 ≤ n && n ≤ 9 && 0x900 ≤ r && r ≤ 0xBFF) ||
  (10 ≤ n && n ≤ 13 && ((0x840 ≤ r && r ≤ 0x84A) || (0x850 ≤ r && r ≤ 0x85A)))

/-- The cause that naming a register raises: 0x00C where it is absent, else the privilege causes (R43). -/
def sysRegCause (c : Ctx) (r : Nat) (write : Bool) : Option Cause :=
  match c.kind with
  | .translator =>
    if 0x400 ≤ r && r ≤ 0x7FF then some 0x00C#9
    else if 0x800 ≤ r then some 0x1A2#9
    else if 0x100 ≤ r then some 0x1A1#9
    else if !(r ≤ 1 || (0x08A ≤ r && r ≤ 0x091)) then some 0x00C#9
    else if write && 0x080 ≤ r then some 0x1A1#9
    else none
  | .controller =>
    if 0x800 ≤ r then (if controllerAssigned c.core r then none else some 0x00C#9)
    else if r ≤ 1 then none else some 0x00C#9
  | _ =>
    if 0x400 ≤ r && r ≤ 0x7FF then some 0x00C#9
    else if 0x800 ≤ r then some 0x1A2#9
    else if !computeAssigned r then some 0x00C#9
    else if !c.priv && (0x100 ≤ r || (write && 0x080 ≤ r)) then some 0x1A1#9
    else none

/-- The presence check of R46, and the register number of its TADDR. -/
def absentCause (c : Ctx) (i : Instr) : Option (Cause × Word) :=
  match sysRegOf i with
  | some (r, w) => if sysRegCause c r.toNat w = some 0x00C#9 then some (0x00C#9, r.zeroExtend 64) else none
  | none => none

/-- The privilege causes of class 13 (R45, R47). -/
def privCause (c : Ctx) (i : Instr) : Option (Cause × Word) :=
  match sysRegOf i with
  | some (r, w) => (sysRegCause c r.toNat w).map (fun k => (k, r.zeroExtend 64))
  | none =>
    match i with
    | .sysWfi .. | .sysCret => if c.kind = .controller then none else some (0x1A2#9, 0)
    | _ => if sOnly i && !c.priv then some (0x1A3#9, 0) else none

/-- The plane-grant check (R118, R123): the lowest-numbered plane named outside the set; with the shape 0 × 0, the
lowest plane named. For an F64 conversion and for `vtrans` the shape limits of R131 and R132. -/
def grantCause (c : Ctx) (i : Instr) : Option (Cause × Word) :=
  let named := (List.range 16).filter (fun p => (planesOf i).any (fun q => q.toNat = p))
  let out := if c.rows = 0 || c.cols = 0 then named.head?
             else named.find? (fun p => !c.planes.getLsbD p)
  match out with
  | some p => some (0x008#9, BitVec.ofNat 64 p)
  | none =>
    match i with
    | .vtrans d _ _ _ => if 32 < c.cols then some (0x008#9, d.zeroExtend 64) else none
    | .vcvtTo d _ f _ _ _ g => if (g ++ f : BitVec 5) = 0#5 && 32 < c.cols then some (0x008#9, d.zeroExtend 64) else none
    | .vcvtFrom _ a f _ _ _ g => if (g ++ f : BitVec 5) = 0#5 && 32 < c.cols then some (0x008#9, a.zeroExtend 64) else none
    | _ => none

/-- A leaf masked for the context's world (R46, R48); leaf 0 cannot be. -/
def leafMasked (s : State) (c : Ctx) (l : Nat) : Bool := l ≠ 0 && (s.core c.coreKey).masked.getLsbD l

/-- The first cause that R46 raises for an instruction in a context, with TADDR. -/
def firstCause (s : State) (c : Ctx) (i : Instr) : Option (Cause × Word) :=
  if isNative i && c.plirenOnly then some (0x007#9, 0)
  else if formCause i = some 0x003#9 then some (0x003#9, 0)
  else if leafMasked s c (leafOf i) then some (0x006#9, BitVec.ofNat 64 (leafOf i))
  else if c.kind = .helper && controlOnly i then some (0x00E#9, 0)
  else if c.kind = .control && (match i with | .hquit _ => true | _ => false) then some (0x00F#9, 0)
  else
    match formCause i with
    | some k => some (k, 0)
    | none => absentCause c i <|> privCause c i <|> grantCause c i

/-- Raise a class-0 or class-13 cause (R47): 0x006 is also logged in the world's log, with TPC and, as
the index, the leaf. DEDUCED (log 89). -/
def raise46 (s : State) (i : Instr) (k : Cause × Word) : State :=
  let s1 := if k.1 = 0x006#9 then s.logRec s.cx.die 15 k.2.toNat (s.cx.pc.zeroExtend 64) 6 0x006 (some s.cx) else s
  raiseHere s1 k.1 k.2 (tinfo0 i)

/-! ## The gate -/

/-- The outcome of the checks before an instruction acts. -/
inductive Gate where
  /-- It does not act in this state: the state that results. -/
  | stop (s : State)
  /-- It acts. -/
  | go
  deriving DecidableEq, Repr

/-- A register or plane named is locked, or a `.acq` holds a memory instruction back (R92, R122, R270). A call waits for every
register that its slide reads or writes, the end of a helper for s1, and a plane instruction for the slide of the upcall that its
flags may raise; a write waits for the superstep log. -/
def held (s : State) (i : Instr) : Bool :=
  let c := s.cx
  (regsOf i).any (fun r => r ≠ 0 && posLocked s s.cur (c.posOf r)) ||
  (planesOf i).any (fun p => planeLocked s c.coreKey p.toNat) ||
  ((memAccess i || movesWindow c i) && s.ops.any (fun o => o.ctx = s.cur && o.acq)) || (recordWaits s i).isSome ||
  (match i with
   | .call n _ | .callFar n _ | .callr n _ => slideLocked s s.cur n.toNat
   | .ret => c.kind = .helper && c.readS 31 = 0 && posLocked s s.cur (c.posOf 1)
   | _ => !(planesOf i).isEmpty && c.ast.extractLsb' 8 7 ≠ 0#7 && upcallStalls s s.cur 0x0E1#9)

/-- An instruction of a live context: the meter (R299), the checks of R46, the locks. -/
def gate (s : State) (i : Instr) : Gate :=
  let c := s.cx
  if c.run ≠ .live then .stop s
  else if c.kind = .translator ∧ c.meter.meter = c.meter.lim then .stop (raiseHere s 0x181#9 0 c.meter.meter)
  else
    match firstCause s c i with
    | some k => .stop (raise46 s i k)
    | none => if held s i then .stop ((recordWaits s i).getD s) else .go

/-- The meaning of an instruction: what it does once the gate lets it act. -/
def issue (s : State) (i : Instr) (act : State → State) : Out :=
  if !s.power then .fault .noSupply
  else
    match gate s i with
    | .stop s1 => .next s1
    | .go => .next (act s)

/-- The meaning of a step of a unit. Without a supply nothing acts. DESIGN CHOICE (log 70). -/
def event (s : State) (act : State → State) : Out :=
  if !s.power then .fault .noSupply else .next (act s)

end Sys2Proof.Machine
end

