-- ==== Sys2Proof/Machine/Scalar.lean ====
section
/-!
DEFINITION. Scalar instructions: Pliren arithmetic (R85 to R88), branches and jumps (R95 to R97), native bit operations
(R103, R104), constants (R105), calls (R106, R107), and the counters (R112, R113).
-/
namespace Sys2Proof.Machine

/-! ## Shared shapes -/

/-- An instruction of `n` bytes whose only effect is a value in a window register: s0 discards it (R29, R33). -/
def setS (s : State) (i : Instr) (d : SReg) (v : Word) (n : Nat) : Out := issue s i (fun s => retire (s.wS d v) n)
/-- The same with a Pliren destination. -/
def setG (s : State) (i : Instr) (d : GReg) (v : Word) : Out := setS s i (gS d) v 4

/-! ## Values of R85 to R88 -/

def boolWord (b : Bool) : Word := if b then 1 else 0
/-- The shift amount, bits 5:0. -/
def amount (b : Word) : Nat := bits b 5 0
/-- Bits 127:64 of a signed product. -/
def mulhValue (a b : Word) : Word := BitVec.ofInt 64 (a.toInt * b.toInt / 2 ^ 64)
/-- Bits 127:64 of an unsigned product. -/
def mulhzValue (a b : Word) : Word := BitVec.ofNat 64 (a.toNat * b.toNat / 2 ^ 64)
/-- R86. -/
def divValue (a b : Word) : Word := if b = 0 then BitVec.allOnes 64 else a.sdiv b
def divzValue (a b : Word) : Word := if b = 0 then BitVec.allOnes 64 else a / b
def remValue (a b : Word) : Word := if b = 0 then a else a.srem b
def remzValue (a b : Word) : Word := if b = 0 then a else a % b

/-! ## Major 0x01 (R85, R86) -/

def execAdd (d a b : GReg) (s : State) : Out := setG s (.add d a b) d (s.rG a + s.rG b)
def execSub (d a b : GReg) (s : State) : Out := setG s (.sub d a b) d (s.rG a - s.rG b)
def execAnd (d a b : GReg) (s : State) : Out := setG s (.and d a b) d (s.rG a &&& s.rG b)
def execOr (d a b : GReg) (s : State) : Out := setG s (.or d a b) d (s.rG a ||| s.rG b)
def execXor (d a b : GReg) (s : State) : Out := setG s (.xor d a b) d (s.rG a ^^^ s.rG b)
def execShl (d a b : GReg) (s : State) : Out := setG s (.shl d a b) d (s.rG a <<< amount (s.rG b))
def execShr (d a b : GReg) (s : State) : Out := setG s (.shr d a b) d (s.rG a >>> amount (s.rG b))
def execSar (d a b : GReg) (s : State) : Out := setG s (.sar d a b) d ((s.rG a).sshiftRight (amount (s.rG b)))
def execMul (d a b : GReg) (s : State) : Out := setG s (.mul d a b) d (s.rG a * s.rG b)
def execMulh (d a b : GReg) (s : State) : Out := setG s (.mulh d a b) d (mulhValue (s.rG a) (s.rG b))
def execMulhz (d a b : GReg) (s : State) : Out := setG s (.mulhz d a b) d (mulhzValue (s.rG a) (s.rG b))
def execDiv (d a b : GReg) (s : State) : Out := setG s (.div d a b) d (divValue (s.rG a) (s.rG b))
def execDivz (d a b : GReg) (s : State) : Out := setG s (.divz d a b) d (divzValue (s.rG a) (s.rG b))
def execRem (d a b : GReg) (s : State) : Out := setG s (.rem d a b) d (remValue (s.rG a) (s.rG b))
def execRemz (d a b : GReg) (s : State) : Out := setG s (.remz d a b) d (remzValue (s.rG a) (s.rG b))
def execSlt (d a b : GReg) (s : State) : Out := setG s (.slt d a b) d (boolWord ((s.rG a).slt (s.rG b)))
def execSltz (d a b : GReg) (s : State) : Out := setG s (.sltz d a b) d (boolWord ((s.rG a).ult (s.rG b)))

/-! ## Immediates (R87, R88) -/

def execAddi (d a : GReg) (imm : BitVec 17) (s : State) : Out := setG s (.addi d a imm) d (s.rG a + imm.signExtend 64)
def execAndi (d a : GReg) (imm : BitVec 17) (s : State) : Out := setG s (.andi d a imm) d (s.rG a &&& imm.signExtend 64)
def execOri (d a : GReg) (imm : BitVec 17) (s : State) : Out := setG s (.ori d a imm) d (s.rG a ||| imm.signExtend 64)
def execXori (d a : GReg) (imm : BitVec 17) (s : State) : Out := setG s (.xori d a imm) d (s.rG a ^^^ imm.signExtend 64)
def execShli (d a : GReg) (n : BitVec 6) (s : State) : Out := setG s (.shli d a n) d (s.rG a <<< n.toNat)
def execShri (d a : GReg) (n : BitVec 6) (s : State) : Out := setG s (.shri d a n) d (s.rG a >>> n.toNat)
def execSari (d a : GReg) (n : BitVec 6) (s : State) : Out := setG s (.sari d a n) d ((s.rG a).sshiftRight n.toNat)
def execSlti (d a : GReg) (imm : BitVec 17) (s : State) : Out :=
  setG s (.slti d a imm) d (boolWord ((s.rG a).slt (imm.signExtend 64)))
def execSltzi (d a : GReg) (imm : BitVec 17) (s : State) : Out :=
  setG s (.sltzi d a imm) d (boolWord ((s.rG a).ult (imm.signExtend 64)))
def execLiu (d : GReg) (imm : BitVec 21) (s : State) : Out := setG s (.liu d imm) d (imm.signExtend 64 <<< 17)

/-! ## Control transfers (R95 to R97, R298) -/

/-- A translator's word lies whole in its translator section (R298). -/
def insideX (c : Ctx) (t : BitVec 48) : Bool :=
  bits c.meter.xwBase 47 0 ≤ t.toNat && t.toNat + 4 ≤ bits c.meter.xwLim 47 0

/-- The cause of a target: misaligned, or outside a translator's section (R95, R298). DEDUCED (log 68). -/
def targetCause (c : Ctx) (t : BitVec 48) : Option Cause :=
  if t.toNat % 4 ≠ 0 then some 0x026#9
  else if c.kind = .translator && !insideX c t then some 0x182#9
  else none

/-- A transfer to bits 47:0 of a computed value (R95), after a change of the state that goes with it. -/
def transfer (s : State) (i : Instr) (v : Word) (f : State → State) : State :=
  let t : BitVec 48 := v.truncate 48
  match targetCause s.cx t with
  | some k => raiseHere s k (t.zeroExtend 64) (tinfo1 i 0 false)
  | none => jump (f s) t

/-- PC + 4 times a signed word offset. -/
def relTarget (s : State) (off : Word) : Word := s.cx.pc.zeroExtend 64 + (off <<< 2)

/-- The branches (R96). -/
def branch (s : State) (i : Instr) (taken : Bool) (o : BitVec 14) : Out :=
  issue s i (fun s => if taken then transfer s i (relTarget s (o.signExtend 64)) id else retire s 4)

def execBeq (a b : GReg) (o : BitVec 14) (s : State) : Out := branch s (.beq a b o) (s.rG a = s.rG b) o
def execBne (a b : GReg) (o : BitVec 14) (s : State) : Out := branch s (.bne a b o) (s.rG a ≠ s.rG b) o
def execBlt (a b : GReg) (o : BitVec 14) (s : State) : Out := branch s (.blt a b o) ((s.rG a).slt (s.rG b)) o
def execBge (a b : GReg) (o : BitVec 14) (s : State) : Out := branch s (.bge a b o) (!(s.rG a).slt (s.rG b)) o
def execBbl (a b : GReg) (o : BitVec 14) (s : State) : Out := branch s (.bbl a b o) ((s.rG a).ult (s.rG b)) o
def execBae (a b : GReg) (o : BitVec 14) (s : State) : Out := branch s (.bae a b o) (!(s.rG a).ult (s.rG b)) o

/-- The PC of the next instruction as a link value. DEDUCED (log 98). -/
def nextPc (s : State) (n : Nat) : Word := (s.cx.pc + BitVec.ofNat 48 n).zeroExtend 64

def execJal (d : GReg) (o : BitVec 21) (s : State) : Out :=
  let i := Instr.jal d o
  issue s i (fun s =>
    transfer s i (relTarget s (o.signExtend 64)) (fun st => st.wG d (nextPc s 4)))

def execJalr (d a : GReg) (imm : BitVec 17) (s : State) : Out :=
  let i := Instr.jalr d a imm
  issue s i (fun s => transfer s i (s.rG a + imm.signExtend 64) (fun st => st.wG d (nextPc s 4)))

/-! ## Bit operations, selection and addresses (R103, R104) -/

/-- The number of leading zero bits, 0 to 64. -/
def clz64 (a : Word) : Nat := if a = 0 then 64 else 63 - Nat.log2 a.toNat
/-- The number of trailing zero bits, 0 to 64. -/
def ctz64 (a : Word) : Nat := ((List.range 64).find? (fun i => bit a i)).getD 64
def popcount (a : Word) : Nat := ((List.range 64).filter (fun i => bit a i)).length
def reverseBits (a : Word) : Word := a.reverse
def swapBytes (a : Word) : Word := BitVec.ofNat 64 (leValue (leBytes a.toNat 8).reverse)

/-- a with its offset field advanced by b (R103). -/
def addvaValue (a b : Word) : Word :=
  let w := if !bit a 48 || bits a 63 49 = 0x7FFF then 48
           else match bits a 47 46 with | 0 => 20 | 1 => 22 | _ => 26
  setBits a (a + b) (w - 1) 0

def execClz (d a : SReg) (s : State) : Out := setS s (.clz d a) d (BitVec.ofNat 64 (clz64 (s.rS a))) 4
def execCtz (d a : SReg) (s : State) : Out := setS s (.ctz d a) d (BitVec.ofNat 64 (ctz64 (s.rS a))) 4
def execPopc (d a : SReg) (s : State) : Out := setS s (.popc d a) d (BitVec.ofNat 64 (popcount (s.rS a))) 4
def execBitrev (d a : SReg) (s : State) : Out := setS s (.bitrev d a) d (reverseBits (s.rS a)) 4
def execBswap (d a : SReg) (s : State) : Out := setS s (.bswap d a) d (swapBytes (s.rS a)) 4
def execSel (d a b : SReg) (s : State) : Out := setS s (.sel d a b) d (if s.rS d ≠ 0 then s.rS a else s.rS b) 4
def execMkva (d a b : SReg) (s : State) : Out :=
  setS s (.mkva d a b) d ((s.rS b <<< 49) ||| (s.rS a &&& 0x0001FFFFFFFFFFFF#64)) 4
def execDieof (d a : SReg) (s : State) : Out := setS s (.dieof d a) d (s.rS a >>> 49) 4
def execAddva (d a b : SReg) (s : State) : Out := setS s (.addva d a b) d (addvaValue (s.rS a) (s.rS b)) 4

/-- R104: LEN is the field plus one; bits above 63 read as 0. -/
def bfxValue (a : Word) (p l : Nat) : Word := (a >>> p) &&& BitVec.ofNat 64 (2 ^ l - 1)
def bfiValue (old a : Word) (p l : Nat) : Word :=
  let m : Word := BitVec.ofNat 64 (2 ^ l - 1) <<< p
  (old &&& ~~~m) ||| ((a <<< p) &&& m)

def execBfx (d a : SReg) (p l : BitVec 6) (s : State) : Out :=
  setS s (.bfx d a p l) d (bfxValue (s.rS a) p.toNat (l.toNat + 1)) 4
def execBfi (d a : SReg) (p l : BitVec 6) (s : State) : Out :=
  setS s (.bfi d a p l) d (bfiValue (s.rS d) (s.rS a) p.toNat (l.toNat + 1)) 4

/-! ## Constants (R35, R105) -/

def execLdk (d : SReg) (imm : BitVec 32) (s : State) : Out := setS s (.ldk d imm) d (imm.signExtend 64) 8
def execLdkZ (d : SReg) (imm : BitVec 32) (s : State) : Out := setS s (.ldkZ d imm) d (imm.zeroExtend 64) 8
def execLdkHi (d : SReg) (imm : BitVec 32) (s : State) : Out :=
  setS s (.ldkHi d imm) d ((imm.zeroExtend 64 <<< 32) ||| (s.rS d &&& 0xFFFFFFFF#64)) 8

/-! ## Calls (R106, R107) -/

/-- A call by n to a target, with its link. The access size of a refused spill or fill is that of one slot, 8 (R115).
DESIGN CHOICE (log 106). -/
def callTo (s : State) (i : Instr) (n : BitVec 5) (v : Word) (len : Nat) : State :=
  let t : BitVec 48 := v.truncate 48
  match targetCause s.cx t with
  | some k => raiseHere s k (t.zeroExtend 64) (tinfo1 i 0 false)
  | none =>
    match slideUp s s.cur n.toNat (s.cx.pc + BitVec.ofNat 48 len) with
    | .error slot => raiseHere s 0x028#9 slot (tinfo1 i 8 true)
    | .ok s1 => jump s1 t

def execCall (n : BitVec 5) (o : BitVec 20) (s : State) : Out :=
  let i := Instr.call n o
  issue s i (fun s => callTo s i n (relTarget s (o.signExtend 64)) 4)
def execCallFar (n : BitVec 5) (imm : BitVec 32) (s : State) : Out :=
  let i := Instr.callFar n imm
  issue s i (fun s => callTo s i n (relTarget s (imm.signExtend 64)) 8)
def execCallr (n : BitVec 5) (a : SReg) (s : State) : Out :=
  let i := Instr.callr n a
  issue s i (fun s => callTo s i n (s.rS a) 4)

/-- What survives the end of the helper of slot n (R82): its journal entries become the control context's; its nodes, copies
and task records run on, counted by no context; their requests, causes and late reports are the control context's. -/
def handOver (s : State) (core n : Nat) : State :=
  let mine (e : PoolEntry) : PoolEntry :=
    { e with ctxSlot := if e.core = core && e.ctxSlot = n then 0 else e.ctxSlot,
             demand := e.demand.map (fun d => if d.1 = core * 16 + n then (core * 16, d.2) else d) }
  let s1 := s.modCore core (fun co =>
    { co with journal := co.journal.map (fun e => if e.ctxSlot = n then { e with ctxSlot := 0 } else e),
              reports := co.reports.map (fun r => if r.ctxSlot = n then { r with ctxSlot := 0 } else r),
              siding := co.siding.map (fun x => if x.ctxSlot = n then { x with orphan := true } else x) })
  let s2 := s1.modCluster (core / 4) (fun cl =>
    { cl with copies := cl.copies.map (fun y => if y.core = core && y.ctxSlot = n then { y with orphan := true } else y),
              tasks := cl.tasks.map (fun y => if y.core = core && y.ctxSlot = n then { y with orphan := true } else y),
              tqLeft := if cl.tqTail = cl.tqHead then cl.tqLeft
                        else cl.tqLeft.filter (fun p => p.1 ≠ core * 16 + n) ++ [(core * 16 + n, (cl.tqTail - cl.tqHead).toNat)],
              pool := cl.pool.map mine, poolWait := cl.poolWait.map mine })
  { s2 with reqs := s2.reqs.map (fun r => if r.ctx = core * 16 + n then { r with ctx := core * 16 } else r) }

/-- A helper ends, or waits for its counters (R82). DEDUCED (log 43). -/
def helperEnds (s : State) (k : Nat) : State :=
  let c := s.ctx k
  if c.loads ≠ 0 ∨ c.stores ≠ 0 then s.modCtx k (fun c => { c with run := .ending })
  else
    let core := k / 16
    let s1 := s.modCtx k (fun c =>
      { Ctx.empty with kind := .helper, run := .ended, world := c.world, die := c.die, cluster := c.cluster, core := c.core,
                       slot := c.slot, exitValue := c.exitValue, exitReason := c.exitReason, pulse := s.clk })
    let s2 := c.pending.foldl (fun st p => pend st (core * 16) p.cause p.taddr p.tinfo) s1
    flushLates (handOver (s2.modCtx (core * 16) (fun x =>
      { x with ast := x.ast ||| (c.ast &&& 0x7F#64), lates := x.lates ++ c.lates })) core c.slot) (core * 16)

/-- The exit value and reason of a helper are fixed, and it ends as soon as its counters allow. DEDUCED (log 65). -/
def helperQuit (s : State) (v : Word) (reason : Nat) : State :=
  helperEnds (s.modCx (fun c => { c with exitValue := v, exitReason := reason })) s.cur

/-- R107. -/
def returnTo (s : State) : State :=
  let c := s.cx
  let link := c.readS 31
  let n := bits link 63 59
  let t : BitVec 48 := link.truncate 48
  if c.kind = .helper ∧ link = 0 then helperQuit s (c.readS 1) 1
  else if c.fb.toNat < n then raiseHere s 0x029#9 c.fb (tinfo1 .ret 0 false)
  else
    match targetCause c t with
    | some k => raiseHere s k (t.zeroExtend 64) (tinfo1 .ret 0 false)
    | none =>
      let fb := c.fb.toNat - n
      let fills := fillsNeeded c n
      match badSlot s c (c.wlow.toNat - 8 * fills) (8 * fills) with
      | some q => raiseHere s 0x028#9 (c.bsp + BitVec.ofNat 64 (8 * q)) (tinfo1 .ret 8 false)
      | none =>
        let s1 := repeatOp (fun st => fillOne st st.cur) fills s
        jump (s1.modCx (fun c => { c with fb := BitVec.ofNat 64 fb })) t

def execRet (s : State) : Out := issue s .ret returnTo

/-! ## Counters (R112, R113) -/

def execWaitc (l sc c t : BitVec 4) (s : State) : Out :=
  issue s (.waitc l sc c t) (fun s =>
    let x := s.cx
    let ok (th : BitVec 4) (n : Nat) : Bool := th = 15 || n ≤ th.toNat
    if ok l x.loads && ok sc x.stores && ok c x.copies && ok t x.tiles then retire s 4 else s)

def execRdctr (d : SReg) (n : BitVec 2) (s : State) : Out :=
  let c := s.cx
  let v := match n.toNat with | 0 => c.loads | 1 => c.stores | 2 => c.copies | _ => c.tiles
  setS s (.rdctr d n) d (BitVec.ofNat 64 v) 4

end Sys2Proof.Machine
end

