-- ==== Sys2Proof/Machine/Tensor.lean ====
section
/-!
DEFINITION. Tensor identifiers and engine commands (R151 to R153, R214 to R218, R225 to R233): descriptors, the checks of
each command, footprints, and what a sub-tile of each kind computes (R62 to R69, R217, R226, R228 to R232).
-/
namespace Sys2Proof.Machine

/-! ## Descriptors (R215) -/

def Tid.fmt (t : Tid) : Nat := bits t.w0 5 0
def Tid.level (t : Tid) : Nat := bits t.w0 7 6
def Tid.core (t : Tid) : Nat := bits t.w0 9 8
def Tid.rows (t : Tid) : Nat := bits t.w0 31 16
def Tid.cols (t : Tid) : Nat := bits t.w0 47 32
def Tid.scaled (t : Tid) : Bool := bit t.w0 48
def Tid.blk (t : Tid) : Nat := if bit t.w0 49 then 32 else 64
def Tid.saxis (t : Tid) : Bool := bit t.w0 50
def Tid.scratch (t : Tid) : Bool := bit t.w0 51
def Tid.ten (t : Tid) : FlagSet := t.w0.extractLsb' 56 7
def Tid.base (t : Tid) : Nat := t.w1.toNat
def Tid.pitch (t : Tid) : Nat := bits t.w2 31 0
def Tid.sstride (t : Tid) : Nat := bits t.w2 47 32
def Tid.sbase (t : Tid) : Nat := t.w3.toNat
def Tid.width (t : Tid) : Nat := fmtWidth t.fmt
def Tid.entries (t : Tid) : Nat := t.rows * t.cols
def Tid.isM8 (t : Tid) : Bool := t.fmt = 13
/-- STATUSWORD (R219). -/
def Tid.statusWord (t : Tid) : Word :=
  if t.defined then putAt 1 63 ||| putAt t.ten.toNat 8 ||| t.status.zeroExtend 64 else 0

def ceilDiv (a b : Nat) : Nat := (a + b - 1) / b

/-- The reason of cause 0x094 that a descriptor gives (R216), the lowest that applies. -/
def descReason (t : Tid) : Option Nat :=
  let w := t.width
  let g := if t.level = 0 then 2 ^ 23 else 2 ^ 25
  let far := t.level = 2
  let blocks := if t.saxis then ceilDiv t.rows t.blk else ceilDiv t.cols t.blk
  let lines := if t.saxis then t.cols else t.rows
  let last := t.base + ((t.rows - 1) * t.pitch + t.cols * w) / 8 - 1
  if bit t.w0 63 || bits t.w0 55 52 ≠ 0 || bits t.w0 15 10 ≠ 0 || bits t.w2 63 48 ≠ 0 || (!t.scaled && t.w3 ≠ 0) then some 1
  else if !(t.fmt ≤ 19 || t.fmt = 32) then some 2
  else if t.level = 3 || (t.level ≠ 0 && t.core ≠ 0) || (t.scratch && t.level ≠ 1) then some 3
  else if t.rows = 0 || t.cols = 0 then some 4
  else if t.pitch < t.cols * w then some 5
  else if !far && g < t.base + (t.rows - 1) * t.pitch + t.cols * w then some 5
  else if far && (t.pitch % 8 ≠ 0 || t.cols * w % 8 ≠ 0 || (checkVa t.w1 1).isSome || last / 2 ^ 48 ≠ t.base / 2 ^ 48) then some 5
  else if t.scaled && (far || t.sstride < blocks || g / 8 < t.sbase + (lines - 1) * t.sstride + blocks) then some 6
  else none

/-! ## Places -/

/-- A byte address as a location for footprints (R153): a physical location for a scratchpad of the package, otherwise a
place of its own for the address. -/
def footLoc (s : State) (die : Nat) (va : Word) : Nat :=
  let own := vaDie va = 0x7FFE || vaDie va = (s.dieAt die).logical.toNat
  match routeDie s die va with
  | some (p, d) =>
    if p = s.pkg && vaScratch va then
      match vaLevel va with
      | 0 => umKey s d (vaCluster va) (vaCore va) (bits va 19 0)
      | 1 => cmKey d (vaCluster va) (bits va 21 0)
      | _ => dmKey d (bits va 25 0)
    else 2 ^ 60 + (if own then bits va 48 0 else va.toNat + 2 ^ 64)
  | none => 2 ^ 60 + va.toNat + 2 ^ 64

/-- An engine command with its cluster: class, function, operand word, coordinate word, scratch offset of a task. -/
structure Cmd where
  die : Nat
  cluster : Nat
  cls : Nat
  func : Nat
  a : Word
  b : Word
  scr : Nat
  deriving DecidableEq, Repr

def tidAt (s : State) (ck n : Nat) : Tid := Tbl.get Tid.empty (s.cluster ck).tids n
def Cmd.ck (c : Cmd) : Nat := c.die * 48 + c.cluster
def Cmd.tid (c : Cmd) (s : State) (n : Nat) : Tid := tidAt s c.ck n
def Cmd.dst (c : Cmd) (s : State) : Tid := c.tid s (bits c.a 7 0)
def Cmd.sa (c : Cmd) (s : State) : Tid := c.tid s (bits c.a 15 8)
def Cmd.sb (c : Cmd) (s : State) : Tid := c.tid s (bits c.a 23 16)
def Cmd.sx (c : Cmd) (s : State) : Tid := c.tid s (bits c.a 31 24)
def Cmd.ni (c : Cmd) : Nat := bits c.a 34 32 + 1
def Cmd.nj (c : Cmd) : Nat := bits c.a 37 35 + 1
def Cmd.idx (c : Cmd) : Bool := bit c.a 38
def Cmd.acc (c : Cmd) : Bool := bit c.a 39
def Cmd.rnd (c : Cmd) : Rnd := Rnd.ofCode (c.a.extractLsb' 40 2)
def Cmd.op (c : Cmd) : Nat := bits c.a 47 42
def Cmd.i0 (c : Cmd) : Nat := bits c.b 15 0
def Cmd.j0 (c : Cmd) : Nat := bits c.b 31 16
def Cmd.k0 (c : Cmd) : Nat := bits c.b 47 32
def Cmd.kn (c : Cmd) : Nat := bits c.b 63 48
def Cmd.nsub (c : Cmd) : Nat := c.ni * c.nj
/-- The coordinates of sub-tile b (R152). -/
def Cmd.sub (c : Cmd) (b : Nat) : Nat × Nat := (c.i0 + b / c.nj, c.j0 + b % c.nj)

/-- The first byte of a TID's region, as a location. -/
def regionLoc (s : State) (die cluster : Nat) (t : Tid) : Nat :=
  if t.level = 0 then umKey s die cluster t.core 0 else cmKey die cluster 0

/-- The bit address of element (0, 0) (R217). -/
def baseBit (s : State) (c : Cmd) (t : Tid) : Nat :=
  if t.level = 2 then 8 * footLoc s c.die t.w1
  else 8 * regionLoc s c.die c.cluster t + t.base + (if t.scratch then 8 * c.scr else 0)

def elemBit (s : State) (c : Cmd) (t : Tid) (r col : Nat) : Nat := baseBit s c t + r * t.pitch + col * t.width

/-! ## Footprints (R153) -/

/-- Bits from b, n of them, as bytes. -/
def bitRange (b n : Nat) : Nat × Nat := (b / 8, (b + n + 7) / 8 - b / 8)

/-- The bytes of elements of some rows over columns c0 up to c0 + nc − 1. -/
def rowsFoot (s : State) (c : Cmd) (t : Tid) (rows : List Nat) (c0 nc : Nat) : List (Nat × Nat) :=
  if nc = 0 then [] else rows.map (fun r => bitRange (elemBit s c t r c0) (nc * t.width))

/-- The scales that a source region uses. -/
def scaleFoot (s : State) (c : Cmd) (t : Tid) (rows : List Nat) (c0 nc : Nat) : List (Nat × Nat) :=
  if !t.scaled || nc = 0 then []
  else
    let at_ := regionLoc s c.die c.cluster t + t.sbase
    if t.saxis then
      (List.range nc).flatMap (fun k => ((rows.map (· / t.blk)).eraseDups).map (fun q => (at_ + (c0 + k) * t.sstride + q, 1)))
    else rows.map (fun r => (at_ + r * t.sstride + c0 / t.blk, (c0 + nc - 1) / t.blk - c0 / t.blk + 1))

/-- Sub-tile rows and columns, clipped. -/
def clip (n i : Nat) : List Nat := (List.range 64).map (fun k => 64 * i + k) |>.filter (· < n)
def clipLen (n j : Nat) : Nat := min n (64 * j + 64) - min n (64 * j)

/-- A region by sub-tile coordinates, elements only. -/
def tileFoot (s : State) (c : Cmd) (t : Tid) (i j : Nat) : List (Nat × Nat) :=
  rowsFoot s c t (clip t.rows i) (64 * j) (clipLen t.cols j)
def tileFootS (s : State) (c : Cmd) (t : Tid) (i j : Nat) : List (Nat × Nat) :=
  tileFoot s c t i j ++ scaleFoot s c t (clip t.rows i) (64 * j) (clipLen t.cols j)

/-- Bits read at a bit address of local memory. -/
def readBits (s : State) (b w : Nat) : Nat :=
  s.readMem (b / 8) ((b % 8 + w + 7) / 8) / 2 ^ (b % 8) % 2 ^ w

/-- Raw bits of an element. -/
def elemAt (s : State) (c : Cmd) (t : Tid) (r col : Nat) : Nat := readBits s (elemBit s c t r col) t.width

/-- Entry n of an index TID: N16 unsigned, I32 signed (R217, R226). -/
def indexAt (s : State) (c : Cmd) (n : Nat) : Int :=
  let t := c.sx s
  let v := elemAt s c t (n / t.cols) (n % t.cols)
  if t.fmt = 32 then signedOf 32 v else (v : Int)

/-- The row that entry n selects: none when it is out of range. -/
def selected (s : State) (c : Cmd) (n : Nat) : Option Nat :=
  let v := indexAt s c n
  if 0 ≤ v ∧ v < ((c.sa s).rows : Int) then some v.toNat else none

/-- SX entries 64 i to 64 i + 63. -/
def indexFoot (s : State) (c : Cmd) (i : Nat) : List (Nat × Nat) :=
  let t := c.sx s
  (clip t.entries i).map (fun n => bitRange (elemBit s c t (n / t.cols) (n % t.cols)) t.width)

/-- The columns of the K range (R225). -/
def Cmd.kLo (c : Cmd) : Nat := 64 * c.k0
def Cmd.kHi (c : Cmd) (s : State) : Nat := min (64 * (c.k0 + c.kn)) (c.sa s).cols

/-- A broadcast SB (R229): its row and its column for an element. -/
def sbRow (t : Tid) (r : Nat) : Nat := if t.rows = 1 then 0 else r
def sbCol (t : Tid) (col : Nat) : Nat := if t.cols = 1 then 0 else col

/-- OUT(n, b). -/
def outFoot (s : State) (c : Cmd) (b : Nat) : List (Nat × Nat) :=
  let (i, j) := c.sub b
  tileFoot s c (c.dst s) i j

/-- IN(n, b). DEDUCED (log 45). -/
def inFoot (s : State) (c : Cmd) (b : Nat) : List (Nat × Nat) :=
  let (i, j) := c.sub b
  let sa := c.sa s
  let sb := c.sb s
  let dst := c.dst s
  match c.cls, c.func with
  | 1, _ =>
    let klo := c.kLo
    let kn := c.kHi s - klo
    let rows := if c.idx then ((clip (c.sx s).entries i).filterMap (selected s c)).eraseDups
                else clip sa.rows i
    let ks := (List.range kn).map (klo + ·)
    rowsFoot s c sa rows klo kn ++ scaleFoot s c sa rows klo kn ++
      rowsFoot s c sb ks (64 * j) (clipLen sb.cols j) ++ scaleFoot s c sb ks (64 * j) (clipLen sb.cols j)
  | 2, 0 =>
    let rows := clip dst.rows i
    let nc := clipLen dst.cols j
    let two := if c.op < 5 then
        let rs := if sb.rows = 1 then [0] else rows
        let c0 := if sb.cols = 1 then 0 else 64 * j
        let n := if sb.cols = 1 then 1 else nc
        rowsFoot s c sb rs c0 n ++ scaleFoot s c sb rs c0 n
      else []
    tileFootS s c sa i j ++ two
  | 2, 1 =>
    if c.op % 2 = 0 then rowsFoot s c sa (clip sa.rows i) 0 sa.cols ++ scaleFoot s c sa (clip sa.rows i) 0 sa.cols
    else
      let rs := List.range sa.rows
      rowsFoot s c sa rs (64 * j) (clipLen sa.cols j) ++ scaleFoot s c sa rs (64 * j) (clipLen sa.cols j)
  | 2, _ => if c.op % 2 = 1 then tileFootS s c sa j i else tileFootS s c sa i j
  | 3, _ => tileFoot s c sa i j
  | _, _ =>
    let rows := ((clip (c.sx s).entries i).filterMap (selected s c)).eraseDups
    indexFoot s c i ++ rowsFoot s c sa rows (64 * j) (clipLen sa.cols j)

/-- The bytes that an engine reads for sub-tile b inside the cluster: IN, the old elements of DST that ACC starts from, and the indices
of SX (R68, R225, R230, R336). -/
def readFoot (s : State) (c : Cmd) (b : Nat) : List (Nat × Nat) :=
  (inFoot s c b ++ (if c.acc then outFoot s c b else []) ++ (if c.cls = 1 && c.idx then indexFoot s c (c.sub b).1 else [])).filter
    (fun f => f.1 < 2 ^ 56)

/-! ## Checks of the commands (R151, R152, R225, R228 to R233) -/

def fmtIsFloat (f : Nat) : Bool := f ≤ 4
/-- An integer format of 8 bits or fewer: I8, N8, I6, N6, I5, I4, N4, I3, I2, T2, B1. -/
def fmtSmallInt (f : Nat) : Bool := (8 ≤ f && f ≤ 12) || (14 ≤ f && f ≤ 19)

/-- The paths of R62. -/
inductive MPath where
  | f64 | f32 | binary | residue
  deriving DecidableEq, Repr

def pathOf (fa fb : Nat) : MPath :=
  if fa = 0 || fb = 0 then .f64
  else if fmtIsFloat fa || fmtIsFloat fb then .f32
  else if (fmtSmallInt fa || fa = 13) && (fmtSmallInt fb || fb = 13) then .residue
  else .binary

/-- An index TID that R225 accepts. -/
def indexOk (t : Tid) : Bool := (t.fmt = 6 || t.fmt = 32) && !(1 < t.rows && 1 < t.cols)

/-- The range lies inside DST (R152). -/
def rangeOk (c : Cmd) (t : Tid) : Bool := c.i0 + c.ni ≤ ceilDiv t.rows 64 && c.j0 + c.nj ≤ ceilDiv t.cols 64

/-- The reason of a refusal: the lowest-numbered rule broken (R165). -/
def lowestOf (l : List (Nat × Bool)) : Option Nat :=
  ((List.range 12).find? (fun n => l.any (fun p => p.1 = n && p.2)))

/-- A far TID, or one that is relative to a scratch slot outside a task. -/
def badLevel (t : Tid) (task : Bool) : Bool := t.level = 2 || (t.scratch && !task)

/-- The reason that refuses an appending command or a task record (R225, R228 to R233): none when it is accepted. IDX with
SX = 0 is refused for `tred` and `tcvt` too: DESIGN CHOICE (log 147). -/
def cmdReason (s : State) (c : Cmd) (task : Bool) : Option Nat :=
  let dst := c.dst s; let sa := c.sa s; let sb := c.sb s; let sx := c.sx s
  let top := bits c.a 63 48 ≠ 0
  let sxN := bits c.a 31 24; let sbN := bits c.a 23 16
  let rowTop := min (64 * (c.i0 + c.ni)) dst.rows
  let colTop := min (64 * (c.j0 + c.nj)) dst.cols
  let kBits := c.k0 ≠ 0 || c.kn ≠ 0
  match c.cls, c.func with
  | 1, _ =>
    let defd := dst.defined && sa.defined && sb.defined && (!c.idx || sx.defined)
    let p := pathOf sa.fmt sb.fmt
    lowestOf [
      (1, top || c.op ≠ 0 || (!c.idx && sxN ≠ 0)),
      (2, sa.defined && ceilDiv sa.cols 64 < c.k0 + c.kn),
      (3, !defd),
      (4, defd && (sa.cols ≠ sb.rows || !rangeOk c dst || (if c.idx then sx.entries < rowTop else sa.rows < rowTop)
            || sb.cols < colTop)),
      (5, c.kn = 0),
      (6, defd && (sa.fmt = 32 || sb.fmt = 32 ||
            (sa.isM8 && !(sb.isM8 || fmtSmallInt sb.fmt)) || (sb.isM8 && !(sa.isM8 || fmtSmallInt sa.fmt)) ||
            (dst.fmt = 0 && p ≠ .f64) || (dst.isM8 && p ≠ .residue) || !(fmtIsFloat dst.fmt || dst.fmt = 32 || dst.isM8) ||
            dst.scaled || (sa.scaled && sa.saxis) || (sb.scaled && !sb.saxis) || (c.idx && !indexOk sx))),
      (7, defd && (badLevel dst task || badLevel sa task || badLevel sb task || (c.idx && badLevel sx task)))]
  | 2, 0 =>
    let two := decide (c.op < 5)
    let defd := dst.defined && sa.defined && (!two || sb.defined)
    lowestOf [
      (1, top || c.acc || 8 ≤ c.op || c.idx || sxN ≠ 0 || (!two && sbN ≠ 0)),
      (2, kBits), (3, !defd),
      (4, defd && (!rangeOk c dst || dst.rows ≠ sa.rows || dst.cols ≠ sa.cols ||
            (two && !((sb.rows = sa.rows || sb.rows = 1) && (sb.cols = sa.cols || sb.cols = 1) &&
              (sb.rows = sa.rows || sb.cols = sa.cols))))),
      (6, defd && (dst.scaled || ((sa.isM8 || (two && sb.isM8)) && !(sa.isM8 && two && sb.isM8 && c.op ≤ 2)))),
      (7, defd && (badLevel dst task || badLevel sa task || (two && badLevel sb task)))]
  | 2, 1 =>
    let defd := dst.defined && sa.defined
    let shape := if c.op % 2 = 0 then dst.rows = sa.rows ∧ dst.cols = 1 else dst.rows = 1 ∧ dst.cols = sa.cols
    lowestOf [
      (1, top || 6 ≤ c.op || c.idx || sxN ≠ 0 || sbN ≠ 0),
      (2, kBits), (3, !defd),
      (4, defd && (!rangeOk c dst || !decide shape)),
      (6, defd && (dst.scaled || (sa.isM8 && !(c.op / 2 = 0 && dst.isM8)))),
      (7, defd && (badLevel dst task || badLevel sa task))]
  | 2, _ =>
    let defd := dst.defined && sa.defined
    let shape := if c.op % 2 = 1 then dst.rows = sa.cols ∧ dst.cols = sa.rows else dst.rows = sa.rows ∧ dst.cols = sa.cols
    lowestOf [
      (1, top || c.acc || 2 ≤ c.op || c.idx || sxN ≠ 0 || sbN ≠ 0),
      (2, kBits), (3, !defd),
      (4, defd && (!rangeOk c dst || !decide shape)),
      (6, defd && dst.scaled),
      (7, defd && (badLevel dst task || badLevel sa task))]
  | 3, _ =>
    let defd := dst.defined && sa.defined
    lowestOf [
      (1, top || c.op ≠ 0 || c.acc || bits c.a 41 40 ≠ 0 || c.idx || sxN ≠ 0 || sbN ≠ 0),
      (2, kBits), (3, !defd),
      (4, defd && (!rangeOk c dst || dst.rows ≠ sa.rows || dst.cols ≠ sa.cols)),
      (6, defd && dst.fmt ≠ sa.fmt),
      (7, defd && !task && (dst.scratch || sa.scratch))]
  | _, _ =>
    let defd := dst.defined && sa.defined && sx.defined
    lowestOf [
      (1, top || c.acc || bits c.a 41 40 ≠ 0 || !c.idx || c.op ≠ 0 || sbN ≠ 0),
      (2, kBits), (3, !defd),
      (4, defd && (!rangeOk c dst || dst.cols ≠ sa.cols || sx.entries < dst.rows)),
      (6, defd && (dst.scaled || dst.fmt ≠ sa.fmt || !indexOk sx)),
      (7, defd && (badLevel dst task || badLevel sa task || badLevel sx task))]

/-! ## Values -/

/-- The scale exponent of an element: 0 without scales; none for an all-zero block (R57, R217). -/
def scaleAt (s : State) (c : Cmd) (t : Tid) (r col : Nat) : Option Int :=
  if !t.scaled then some 0
  else
    let at_ := regionLoc s c.die c.cluster t + t.sbase
    let b := s.byte (if t.saxis then at_ + col * t.sstride + r / t.blk else at_ + r * t.sstride + col / t.blk)
    if b = 0x80#8 then none else some b.toInt

/-- The value of an element as an engine reads it (R217, R228). -/
def elemVal (s : State) (c : Cmd) (t : Tid) (r col : Nat) : FVal :=
  match scaleAt s c t r col with
  | none => .zero false
  | some e => let v := fmtValue t.fmt (elemAt s c t r col); if t.isM8 then v else v.scale e

/-- The raw bits of an M8 element, all zero in a block of scale −128. -/
def m8At (s : State) (c : Cmd) (t : Tid) (r col : Nat) : Nat :=
  match scaleAt s c t r col with
  | none => 0
  | some _ => elemAt s c t r col

/-! ## The matrix engine (R62 to R69, R225, R226) -/

/-- The digits with which an operand element enters the residue path (R63). -/
def residueOf (fmt bits_ : Nat) : Digits :=
  if fmt = 13 then digitsOf bits_
  else
    match fmtValue fmt bits_ with
    | .fin m _ => Digits.ofInt m
    | _ => Digits.ofInt 0

/-- START (R68). An old I32 element that F32 does not hold exactly is rounded, and the flag of that widening is dropped.
DESIGN CHOICE (log 103). -/
def accStart (s : State) (c : Cmd) (p : MPath) (r col : Nat) : Acc :=
  let dst := c.dst s
  let old := elemAt s c dst r col
  match p with
  | .f64 => .float fmtF64 (if c.acc then (convert c.rnd 0 (fmtValue dst.fmt old)).1 else 0)
  | .f32 => .float fmtF32 (if c.acc then (convert c.rnd 1 (fmtValue dst.fmt old)).1 else 0)
  | _ =>
    if dst.fmt = 32 then .i32 (if c.acc then signedOf 32 old else 0)
    else if dst.isM8 then .m8 (if c.acc then digitsOf old else { d0 := 0, d1 := 0, d2 := 0 })
    else .float fmtF32 (if c.acc then (convert c.rnd 1 (fmtValue dst.fmt old)).1 else 0)

/-- One step of the float path: acc + A · B · 2^e, rounded once. -/
def floatStep (mode : Rnd) (a : Acc) (x y : FVal) (e : Int) : Acc × FlagSet :=
  match a with
  | .float f b =>
    let (p, f1) := scaledProduct x y e
    let (b', f2) := accAddFloat mode f b p
    (.float f b', f1 ||| f2)
  | q => (q, 0)

/-- The chunks of a K range: lists of k of one chunk, by absolute k (R62). -/
def chunks (q lo hi : Nat) : List (List Nat) :=
  (List.range (ceilDiv hi q - lo / q)).map (fun n =>
    let c := lo / q + n
    ((List.range q).map (c * q + ·)).filter (fun k => lo ≤ k && k < hi))

/-- C[r][col]: the element bits, and the flags. `row` is the A row; none selects no row (R226). DEDUCED (log 99). -/
def matElem (s : State) (c : Cmd) (row : Option Nat) (r col : Nat) : Nat × FlagSet :=
  let dst := c.dst s; let sa := c.sa s; let sb := c.sb s
  let p := pathOf sa.fmt sb.fmt
  let q := if (sa.scaled && sa.blk = 32) || (sb.scaled && sb.blk = 32) then 32 else 64
  let step (st : Acc × FlagSet × Bool) (ks : List Nat) : Acc × FlagSet × Bool :=
    match ks with
    | [] => st
    | k0 :: _ =>
      let ea : Option Int := match row with | some ar => scaleAt s c sa ar k0 | none => some 0
      match ea, scaleAt s c sb k0 col with
      | some e1, some e2 =>
        let e := e1 + e2
        match row with
        | none =>
          match p with
          | .f64 | .f32 =>
            ks.foldl (fun (x : Acc × FlagSet × Bool) _ =>
              let (a', f) := floatStep c.rnd x.1 (.zero false) (.zero false) 0
              (a', x.2.1 ||| f, x.2.2)) st
          | _ => let (a', f) := combine c.rnd st.1 0 { d0 := 0, d1 := 0, d2 := 0 } e; (a', st.2.1 ||| f, st.2.2)
        | some ar =>
          let raw := ks.map (fun k => (elemAt s c sa ar k, elemAt s c sb k col))
          let pois := raw.any (fun x => fmtValue sa.fmt x.1 = .poison || fmtValue sb.fmt x.2 = .poison)
          if pois then (st.1, st.2.1, true)
          else
            match p with
            | .f64 | .f32 =>
              raw.foldl (fun (x : Acc × FlagSet × Bool) ab =>
                let (a', f) := floatStep c.rnd x.1 (fmtValue sa.fmt ab.1) (fmtValue sb.fmt ab.2) e
                (a', x.2.1 ||| f, x.2.2)) st
            | .binary =>
              let x : Int := raw.foldl (fun t ab =>
                match fmtValue sa.fmt ab.1, fmtValue sb.fmt ab.2 with
                | .fin m _, .fin n _ => t + m * n
                | _, _ => t) 0
              let (a', f) := combine c.rnd st.1 x { d0 := 0, d1 := 0, d2 := 0 } e
              (a', st.2.1 ||| f, st.2.2)
            | .residue =>
              let d : Digits := raw.foldl (fun (t : Digits) ab =>
                let u := residueOf sa.fmt ab.1
                let v := residueOf sb.fmt ab.2
                { d0 := (t.d0 + u.d0 * v.d0) % 255, d1 := (t.d1 + u.d1 * v.d1) % 256, d2 := (t.d2 + u.d2 * v.d2) % 257 })
                { d0 := 0, d1 := 0, d2 := 0 }
              let (a', f) := combine c.rnd st.1 (crt d) d e
              (a', st.2.1 ||| f, st.2.2)
      | _, _ => st
  let startPoison := c.acc && dst.isM8 && (digitsOf (elemAt s c dst r col)).poison
  let (a, fl, pois) := (chunks q c.kLo (c.kHi s)).foldl step (accStart s c p r col, 0, startPoison)
  if pois then (poisonResult dst.fmt, fl ||| fPSN)
  else
    let (v, f) := finish c.rnd dst.fmt a
    (v, fl ||| f)

/-- A row of results folded into a sub-tile's outcome. -/
def SubOut.addRow (o : SubOut) (r c0 : Nat) (l : List (Nat × FlagSet)) : SubOut :=
  { o with rows := o.rows ++ [(r, c0, l.map (·.1))], flags := l.foldl (fun f x => f ||| x.2) o.flags }

def SubOut.empty : SubOut := { rows := [], flags := 0, ior := false }

/-- The columns of a sub-tile. -/
def tileCols (t : Tid) (j : Nat) : List Nat := clip t.cols j

/-- A matrix sub-tile. The gather unit reads every index entry of the sub-tile row, so an entry out of range sets IOR even
where DST has no row for it (R226). -/
def subMul (s : State) (c : Cmd) (i j : Nat) : SubOut :=
  let dst := c.dst s
  let o := (clip dst.rows i).foldl (fun o r =>
    o.addRow r (64 * j) ((tileCols dst j).map (fun col => matElem s c (if c.idx then selected s c r else some r) r col))) SubOut.empty
  { o with ior := c.idx && (clip (c.sx s).entries i).any (fun n => (selected s c n).isNone) }

/-! ## Elementwise, reduction, conversion, gather (R228 to R232) -/

/-- One elementwise result (R229). A zero from integer sources in a float DST has the sign of the float rules: DESIGN CHOICE (log 141). -/
def ewElem (s : State) (c : Cmd) (r col : Nat) : Nat × FlagSet :=
  let dst := c.dst s; let sa := c.sa s; let sb := c.sb s
  if sa.isM8 then
    let (v, f) := m8Op c.op (m8At s c sa r col) (m8At s c sb (sbRow sb r) (sbCol sb col))
    if dst.isM8 then (v, f) else let (w, f2) := convert c.rnd dst.fmt (fmtValue 13 v); (w, f ||| f2)
  else
    let a := elemVal s c sa r col
    let b := elemVal s c sb (sbRow sb r) (sbCol sb col)
    let (v, f) : FVal × FlagSet := match c.op with
      | 0 => FVal.add c.rnd a b
      | 1 => FVal.add c.rnd a b.neg
      | 2 => FVal.mul a b
      | 3 => (FVal.minOf a b, 0)
      | 4 => (FVal.maxOf a b, 0)
      | 5 => (match a with | .nan => .zero false | x => FVal.maxOf x (.zero false), 0)
      | 6 => (a.abs, 0)
      | _ => (a.neg, 0)
    let v1 := if a = .poison || (c.op < 5 && b = .poison) then .poison else v
    let (w, f2) := convert c.rnd dst.fmt v1
    (w, f ||| f2)

def subEw (s : State) (c : Cmd) (i j : Nat) : SubOut :=
  let dst := c.dst s
  (clip dst.rows i).foldl (fun o r => o.addRow r (64 * j) ((tileCols dst j).map (fun col => ewElem s c r col))) SubOut.empty

/-- One line reduced (R230): `line` lists the elements' coordinates in increasing index. DEDUCED (log 44). A zero from
integers in a float DST has the sign of the float rules: DESIGN CHOICE (log 141). -/
def redLine (s : State) (c : Cmd) (line : List (Nat × Nat)) (r col : Nat) : Nat × FlagSet :=
  let dst := c.dst s; let sa := c.sa s
  if sa.isM8 then
    let start := if c.acc then some (elemAt s c dst r col) else none
    let (v, f) := line.foldl (fun (st : Option Nat × FlagSet) p =>
      let x := m8At s c sa p.1 p.2
      match st.1 with
      | none => (some x, if (digitsOf x).poison then st.2 ||| fPSN else st.2)
      | some a => let (y, g) := m8Op 0 a x; (some y, st.2 ||| g)) (start, 0)
    let w := v.getD 0
    (if (digitsOf w).poison then poisonM8 else w, f)
  else
    let fl : Option FloatFmt := if sa.fmt = 0 then some fmtF64 else if fmtIsFloat sa.fmt then some fmtF32 else none
    let start := if c.acc then some (fmtValue dst.fmt (elemAt s c dst r col)) else none
    let (v, f) := line.foldl (fun (st : Option FVal × FlagSet) p =>
      let x := elemVal s c sa p.1 p.2
      match st.1 with
      | none => (some x, st.2)
      | some a =>
        match c.op / 2 with
        | 0 =>
          let (t, g) := FVal.add c.rnd a x
          match fl with
          | some ff =>
            if t = .poison then (some .poison, st.2)
            else let (b, g2) := ff.round c.rnd t; (some (ff.value b), st.2 ||| g ||| g2)
          | none => (some t, st.2 ||| g)
        | 1 => (some (FVal.minOf a x), st.2)
        | _ => (some (FVal.maxOf a x), st.2)) (start, 0)
    let (w, f2) := convert c.rnd dst.fmt (v.getD (.zero false))
    (w, f ||| f2)

def subRed (s : State) (c : Cmd) (i j : Nat) : SubOut :=
  let sa := c.sa s; let dst := c.dst s
  if c.op % 2 = 0 then
    (clip dst.rows i).foldl (fun o r =>
      o.addRow r 0 [redLine s c ((List.range sa.cols).map (fun k => (r, k))) r 0]) SubOut.empty
  else
    SubOut.empty.addRow 0 (64 * j) ((tileCols dst j).map (fun col =>
      redLine s c ((List.range sa.rows).map (fun k => (k, col))) 0 col))

/-- A conversion (R231). -/
def subCvt (s : State) (c : Cmd) (i j : Nat) : SubOut :=
  let sa := c.sa s; let dst := c.dst s
  (clip dst.rows i).foldl (fun o r => o.addRow r (64 * j) ((tileCols dst j).map (fun col =>
    convert c.rnd dst.fmt (if c.op % 2 = 1 then elemVal s c sa col r else elemVal s c sa r col)))) SubOut.empty

/-- A gather (R232). -/
def subGather (s : State) (c : Cmd) (i j : Nat) : SubOut :=
  let sa := c.sa s; let dst := c.dst s
  (clip dst.rows i).foldl (fun o r =>
    let row := selected s c r
    let o1 := o.addRow r (64 * j) ((tileCols dst j).map (fun col =>
      (match row with | some ar => elemAt s c sa ar col | none => 0, (0 : FlagSet))))
    { o1 with ior := o1.ior || row.isNone }) SubOut.empty

/-- The element bits of a row of n bits. -/
def unpackRow (w n v : Nat) : List Nat := (List.range (n / w)).map (fun q => v / 2 ^ (w * q) % 2 ^ w)

/-- A copy of bits from a source inside the cluster (R233). -/
def subMove (s : State) (c : Cmd) (i j : Nat) : SubOut :=
  let sa := c.sa s
  let n := clipLen sa.cols j * sa.width
  { SubOut.empty with
    rows := (clip sa.rows i).map (fun r => (r, 64 * j, unpackRow sa.width n (readBits s (elemBit s c sa r (64 * j)) n))) }

/-- What the sub-tile b of a command computes from sources inside the cluster. -/
def subCompute (s : State) (c : Cmd) (b : Nat) : SubOut :=
  let (i, j) := c.sub b
  match c.cls, c.func with
  | 1, _ => subMul s c i j
  | 2, 0 => subEw s c i j
  | 2, 1 => subRed s c i j
  | 2, _ => subCvt s c i j
  | 3, _ => subMove s c i j
  | _, _ => subGather s c i j

/-! ## Writing results -/

/-- Element bits of a row as one number. -/
def packRow (w : Nat) : List Nat → Nat
  | [] => 0
  | v :: t => v % 2 ^ w + 2 ^ w * packRow w t

/-- Memory bytes with n bits from bit address b replaced. -/
def mergeBits (s : State) (b n v : Nat) : List Byte :=
  let len := (b % 8 + n + 7) / 8
  let old := s.readMem (b / 8) len
  let sh := b % 8
  let keep := old % 2 ^ sh + old / 2 ^ (sh + n) * 2 ^ (sh + n)
  leBytes (keep + v % 2 ^ n * 2 ^ sh) len

/-- The VA of a byte of a cluster's region: for the superstep logs. -/
def regionVa (s : State) (c : Cmd) (t : Tid) (loc : Nat) : Word :=
  putAt (s.dieAt c.die).logical.toNat 49 ||| putAt 1 48 ||| putAt (if t.level = 0 then 0 else 1) 46 |||
    putAt c.cluster 40 ||| putAt (if t.level = 0 then t.core else 0) 38 |||
    BitVec.ofNat 64 (loc - regionLoc s c.die c.cluster t)

/-- A row of results written for a core. -/
def writeRow (s : State) (c : Cmd) (core : Nat) (row : Nat × Nat × List Nat) : State :=
  let t := c.dst s
  let b := elemBit s c t row.1 row.2.1
  let n := row.2.2.length * t.width
  s.write core false (b / 8) (regionVa s c t (b / 8)) (mergeBits s b n (packRow t.width row.2.2))

def writeRows (s : State) (c : Cmd) (core : Nat) (o : SubOut) : State := o.rows.foldl (fun st r => writeRow st c core r) s

end Sys2Proof.Machine
end

