-- ==== Sys2Proof/Machine/Siding.lean ====
section
/-!
DEFINITION. The siding and the ready pool: overlap and demand (R153 to R156), release and insertion (R220), forcing before a
store (R155, R223), completion and faults of pool entries (R161, R162, R222, R234, R235, R243).
-/
namespace Sys2Proof.Machine

/-! ## Nodes and their sub-tiles -/

def nodeCmd (core : Nat) (n : Node) : Cmd :=
  { die := core / 192, cluster := core / 4 % 48, cls := n.cls.toNat, func := n.func.toNat, a := n.a, b := n.b, scr := 0 }

def Node.suspended (n : Node) (b : Nat) : Bool := !n.done.getLsbD b && !n.out.getLsbD b && !n.gone.getLsbD b
/-- Suspended or released. -/
def Node.pending (n : Node) (b : Nat) : Bool := n.suspended b || n.out.getLsbD b
def Node.settled (n : Node) : Bool := (List.range n.nsub).all (fun b => n.done.getLsbD b || n.gone.getLsbD b)
def Node.subs (n : Node) : List Nat := List.range n.nsub

def outMeets (s : State) (core : Nat) (n : Node) (b : Nat) (f : List (Nat × Nat)) : Bool :=
  footsMeet (outFoot s (nodeCmd core n) b) f
def inMeets (s : State) (core : Nat) (n : Node) (b : Nat) (f : List (Nat × Nat)) : Bool :=
  footsMeet (inFoot s (nodeCmd core n) b) f

/-- A node with a pending sub-tile that writes, or reads, bytes of a footprint. -/
def nodeMeets (s : State) (core : Nat) (n : Node) (f : List (Nat × Nat)) : Bool :=
  n.subs.any (fun b => n.pending b && (outMeets s core n b f || inMeets s core n b f))

/-! ## Journal entries and footprints -/

/-- The bytes that a journal entry holds, as locations. -/
def entryFoot (s : State) (core : Nat) (e : JEntry) : List (Nat × Nat) :=
  let at_ := footLoc s (core / 192) e.gran
  (List.range 64).filterMap (fun i => if e.mask.getLsbD i then some (at_ + i, 1) else none)

def entryMeets (s : State) (core : Nat) (f : List (Nat × Nat)) (e : JEntry) : Bool := footsMeet (entryFoot s core e) f

/-- The entries of a core's journal that overlap a footprint leave in a drain: those to wait for. -/
def drainFoot (s : State) (core : Nat) (f : List (Nat × Nat)) : List Nat × State := drain s core (entryMeets s core f)

/-! ## The pool (R220, R224) -/

/-- The kinds of entries in the order in which those of one clk are inserted: of nodes, of copies, of the task record. -/
def PoolEntry.rank (e : PoolEntry) : Nat := match e.src with | .node .. => 0 | .copy _ => 1 | .task _ => 2

/-- The order of insertion (R220): by the clk in which it began, then by kind, then by core. -/
def PoolEntry.precedes (e f : PoolEntry) : Bool :=
  e.since < f.since || (e.since = f.since && (e.rank < f.rank || (e.rank = f.rank && e.rank ≠ 2 && e.core < f.core)))

/-- An entry behind all those of its line that it does not precede. -/
def enqueue (e : PoolEntry) : List PoolEntry → List PoolEntry
  | [] => [e]
  | f :: t => if e.precedes f then e :: f :: t else f :: enqueue e t

/-- An insertion begins: the entry joins the line, which moves up when the clk ends (R220). DEDUCED (log 111). -/
def poolInsert (s : State) (ck : Nat) (e : PoolEntry) : State :=
  s.modCluster ck (fun c => { c with poolWait := enqueue { e with since := s.clk } c.poolWait })

/-- Places of the pool that an insertion can take in this clk: one freed in this clk serves the next (R220). -/
def poolRoom (clk : Nat) (c : Cluster) : Nat := 128 - c.pool.length - (if c.freedAt = clk then c.freedNow else 0)

/-- An entry takes a place and its sequence number; a sub-tile of a node is released then (R156), for the demand that waits
for it. -/
def enterPool (s : State) (ck : Nat) (e : PoolEntry) : State :=
  let s1 := s.modCluster ck (fun c => { c with pool := c.pool ++ [{ e with seq := c.nextSeq }], nextSeq := c.nextSeq + 1 })
  match e.src with
  | .node core age =>
    let s2 := s1.modCore core (fun co =>
      { co with siding := co.siding.map (fun m => if m.age = age then { m with out := m.out ||| ((1#64) <<< e.sub) } else m) })
    match e.demand with
    | some (k, _) => s2.modCtx k (fun x => if x.waitSubs.contains (age, e.sub) then { x with released := x.released + 1 } else x)
    | none => s2
  | _ => s1

/-- THE END OF A CLK at a pool: those that wait take places in their order while there is room (R220, R224). -/
def poolAdvance (s : State) (ck : Nat) : State :=
  let cl := s.cluster ck
  if cl.poolWait.isEmpty then s
  else
    let n := poolRoom s.clk cl
    let s1 := (cl.poolWait.take n).foldl (fun st e => enterPool st ck e)
      (s.modCluster ck (fun c => { c with poolWait := c.poolWait.drop n }))
    s1.modCluster ck (fun c =>
      if c.poolWait.isEmpty then c.poolCheck s.clk else { c with poolSince := some (c.poolSince.getD s.clk) })

/-- A sub-tile of a node waits for a place in the pool: it is suspended still (R156). -/
def queuedSub (s : State) (core age b : Nat) : Bool :=
  (s.cluster (core / 4)).poolWait.any (fun e => e.src = Src.node core age && e.sub = b)

/-- Sub-tiles of a node that wait for a place wait no more: those that a test selects. -/
def unqueue (s : State) (core age : Nat) (p : Nat → Bool) : State :=
  s.modCluster (core / 4) (fun c =>
    { c with poolWait := c.poolWait.filter (fun e => !(e.src = Src.node core age && p e.sub)) }.poolCheck s.clk)

def entryCmd (ck : Nat) (e : PoolEntry) : Cmd :=
  { die := ck / 48, cluster := ck % 48, cls := e.cls.toNat, func := e.func.toNat, a := e.a, b := e.b, scr := e.scratch }

/-- E depends on F (R221). -/
def dependsOn (e f : PoolEntry) : Bool :=
  footsMeet f.outF e.inF || footsMeet f.inF e.outF || footsMeet f.outF e.outF

/-- No earlier entry that E depends on, and the drains before it acknowledged. -/
def issuable (s : State) (ck : Nat) (e : PoolEntry) : Bool :=
  e.engine.isNone && !e.sent && ackedAll s e.holds &&
    !((s.cluster ck).pool.any (fun f => f.seq < e.seq && dependsOn e f))

/-! ## Demand (R156) -/

/-- What a walk finds: sub-tiles needed, sub-tiles found released, and sub-tiles to complete before indices can be read. -/
structure Demand where
  needed : List (Nat × Nat)
  found : List (Nat × Nat)
  first : List (Nat × Nat)
  blocked : Bool
  deriving DecidableEq, Repr

def Demand.none : Demand := { needed := [], found := [], first := [], blocked := false }

/-- THE WALK: nodes younger than no limit, newest first, sub-tiles in increasing index. Ages fall at each level, so the
number of nodes bounds the depth. `skip` are sub-tiles that the demand has already released. -/
def demandWalk (s : State) (core : Nat) (skip : List (Nat × Nat)) : Nat → List (Nat × Nat) → Nat → Demand → Demand
  | 0, _, _, d => d
  | fuel + 1, f, limit, d =>
    let nodes := ((s.core core).siding.filter (fun n => n.age < limit)).reverse
    nodes.foldl (fun d n =>
      n.subs.foldl (fun (d : Demand) b =>
        if (n.out.getLsbD b || queuedSub s core n.age b) && outMeets s core n b f && !d.found.contains (n.age, b) then
          { d with found := d.found ++ [(n.age, b)] }
        else if n.suspended b && !queuedSub s core n.age b && !d.needed.contains (n.age, b) && !skip.contains (n.age, b) && outMeets s core n b f then
          let c := nodeCmd core n
          let d1 := { d with needed := d.needed ++ [(n.age, b)] }
          if c.idx then
            let fx := indexFoot s c (c.sub b).1
            let pend := (s.core core).siding.any (fun m => m.age < n.age && m.subs.any (fun q => m.pending q && outMeets s core m q fx))
            if pend then
              let dx := demandWalk s core skip fuel fx n.age Demand.none
              { d1 with blocked := true, first := d1.first ++ (if dx.blocked then dx.first else dx.needed) }
            else demandWalk s core skip fuel (inFoot s c b) n.age d1
          else demandWalk s core skip fuel (inFoot s c b) n.age d1
        else d) d) d

/-- One sub-tile on its way to the pool (R156). -/
def releaseSub (s : State) (core k : Nat) (age b : Nat) : State :=
  match (s.core core).siding.find? (fun n => n.age = age) with
  | none => s
  | some n =>
    let c := nodeCmd core n
    let e : PoolEntry := { seq := 0, cls := n.cls, func := n.func, a := n.a, b := n.b, sub := b, src := .node core age,
                           scratch := 0, core := core, ctxSlot := n.ctxSlot, demand := some (k, (s.ctx k).demandId), inF := inFoot s c b,
                           outF := outFoot s c b, engine := none, sent := false,
                           holds := n.holds.map (fun h => (core, h)), faulted := none }
    poolInsert s (core / 4) e

/-- Sub-tiles in age order, then by index. -/
def insertAge (p : Nat × Nat) : List (Nat × Nat) → List (Nat × Nat)
  | [] => [p]
  | q :: t => if p.1 < q.1 || (p.1 = q.1 && p.2 ≤ q.2) then p :: q :: t else q :: insertAge p t
def inAgeOrder (l : List (Nat × Nat)) : List (Nat × Nat) := l.foldr insertAge []

def releaseAll (s : State) (core k : Nat) (l : List (Nat × Nat)) : State :=
  (inAgeOrder l).foldl (fun st p => releaseSub st core k p.1 p.2) s

/-- A sub-tile that a demand waits for is settled (R157): done, faulted, gone, or back to suspended. -/
def subSettled (s : State) (core : Nat) (p : Nat × Nat) : Bool :=
  !((s.core core).siding.any (fun n => n.age = p.1 && n.out.getLsbD p.2)) && !queuedSub s core p.1 p.2

/-- A demand of the issuing context starts, with a number of its own, unless one is under way. -/
def startDemand (s : State) (limit : Nat) : State :=
  if s.cx.demandAge.isSome then s
  else let (n, s1) := s.fresh; s1.modCx (fun x => { x with demandAge := some limit, demandId := n })

/-- The release of a demand by the issuing context: what its walk needs now is on its way to the pool, and what it waits for is
noted, the sub-tiles found released among it. True when every sub-tile it needs has been named. Nothing is released before the
journal entries that an append drained are acknowledged (R154). -/
def demandRelease (s : State) (f : List (Nat × Nat)) (limit : Nat) : Bool × State :=
  let c := s.cx
  let core := c.coreKey
  let lim := c.demandAge.getD limit
  let d := demandWalk s core c.waitSubs ((s.core core).siding.length + 1) f lim Demand.none
  let go := if d.blocked then d.first else d.needed
  if go.isEmpty && d.found.isEmpty && !d.blocked then (true, s)
  else
    let s1 := startDemand s limit
    if (s.core core).siding.any (fun n => go.any (fun p => p.1 = n.age) && !acked s core n.holds) then (false, s1)
    else
      (!d.blocked, (releaseAll (s1.modCx (fun x =>
        { x with waitSubs := x.waitSubs ++ go ++ d.found.filter (fun p => !x.waitSubs.contains p) })) core s.cur go))

/-- One round of a demand by the issuing context: true when everything it needed is settled and nothing is left. -/
def demandRound (s : State) (f : List (Nat × Nat)) (limit : Nat) : Bool × State :=
  if s.cx.waitSubs.any (fun p => !subSettled s s.cx.coreKey p) then (false, s)
  else
    let (fin, s1) := demandRelease s f limit
    (fin && s1.cx.waitSubs.all (fun p => subSettled s1 s1.cx.coreKey p), s1)

/-! ## Forcing before a write (R154, R155, R223) -/

/-- The OUT footprints of the pending sub-tiles of nodes. -/
def outOfNodes (s : State) (core : Nat) (ns : List Node) : List (Nat × Nat) :=
  ns.flatMap (fun n => (n.subs.filter n.pending).flatMap (fun b => outFoot s (nodeCmd core n) b))

/-- Nodes that the issuing context forces fully are still in the siding: a node leaves it when each of its sub-tiles is done or
faulted (R154). -/
def forcedNodes (s : State) : List Node := (s.core s.cx.coreKey).siding.filter (fun n => s.cx.forcing.contains n.age)

/-- The nodes selected are forced fully, each counted once when its forcing starts; then the instruction acts. A sub-tile of such a
node that a fault has returned to suspended is demanded again, and a node that another context has appended meanwhile is forced too
(R154, R155, R161). -/
def forceThen (s : State) (sel : Node → Bool) (count : Nat → Core → Core) (act : State → State) : State :=
  let core := s.cx.coreKey
  let fresh := ((s.core core).siding.filter sel).filter (fun n => !s.cx.forcing.contains n.age)
  let limit := (s.core core).nextAge
  let s1 := if fresh.isEmpty then s
            else (s.modCore core (count fresh.length)).modCx (fun x =>
              { x with forcing := x.forcing ++ fresh.map (·.age), demandAge := x.demandAge.map (fun _ => limit) })
  let ns := forcedNodes s1
  if ns.isEmpty then act s1
  else
    let (fin, s2) := demandRound s1 (outOfNodes s1 core ns) limit
    if fin then s2.modCx (fun x => { x with waitSubs := [] }) else s2

def countAlias (n : Nat) (c : Core) : Core := { c with aliasCnt := satTo (c.aliasCnt + n) 65535 }
def countOvf (n : Nat) (c : Core) : Core := { c with ovfCnt := satTo (c.ovfCnt + n) 65535 }

/-- Uncompleted copies and task nodes of the core that touch a footprint (R223). -/
def copyMeets (s : State) (core : Nat) (f : List (Nat × Nat)) : Bool :=
  let cl := s.cluster (core / 4)
  cl.copies.any (fun y => y.core = core && footsMeet y.foot f) || cl.tasks.any (fun t => t.core = core && footsMeet t.foot f)

/-- A write of bytes by the issuing context: overlapping siding nodes are forced (R155), overlapping copies and task nodes
awaited (R223), and what it writes at issue waits for the superstep log (R340); then it acts. -/
def beforeWrite (s : State) (f : List (Nat × Nat)) (act : State → State) : State :=
  let core := s.cx.coreKey
  if copyMeets s core f then s
  else
    forceThen s (fun n => nodeMeets s core n f) countAlias (fun s =>
      let own (loc : Nat) : Bool := umKey s s.cx.die s.cx.cluster s.cx.core 0 ≤ loc && loc < umKey s s.cx.die s.cx.cluster s.cx.core 0 + 0x100000
      match (if (s.core core).snap.isOpen then
          granulesWait s core false (((f.filter (fun x => own x.1)).flatMap (fun x => granules x.1 x.2)).eraseDups.map (fun g => (g, 0)))
        else none) with
      | some s1 => s1
      | none => act s)

/-- The bytes of an access as a footprint. -/
def accessFoot (s : State) (va : Word) (n : Nat) : List (Nat × Nat) := [(footLoc s s.cx.die va, n)]

/-! ## Completion (R156, R222, R234, R243) -/

/-- The context of a core's command: an ended helper's causes go to the control context, which does not count the command
(R82). -/
def slotCtx (core slot : Nat) (orphan : Bool) : Nat := if orphan then core * 16 else core * 16 + slot

/-- A node whose sub-tiles are all settled leaves the siding, and its context's tiles counter falls. -/
def freeNodes (s : State) (core : Nat) : State :=
  ((s.core core).siding.filter (·.settled)).foldl (fun st n =>
    (st.modCore core (fun c => { c with siding := c.siding.filter (fun m => m.age ≠ n.age) })).modCtx
      (slotCtx core n.ctxSlot n.orphan)
      (fun c => { c with tiles := (if n.orphan then c.tiles else c.tiles - 1), pulse := st.clk })) s

/-- TINFO in the layout of 0x081 (R165). -/
def faultInfo (slot b : Nat) (cause : Cause) (count : Nat) : Word :=
  putAt (slot % 32) 0 ||| putAt (b % 64) 5 ||| putAt cause.toNat 16 ||| putAt (satTo count 511) 32

/-- A copy command with an entry less (R234, R235). -/
def copyStep (s : State) (ck id : Nat) : State :=
  match (s.cluster ck).copies.find? (fun c => c.id = id) with
  | none => s
  | some c =>
    let k := slotCtx c.core c.ctxSlot c.orphan
    let s := s.modCtx k (fun x => { x with pulse := s.clk })
    if c.left = 1 then
      let s1 := s.modCluster ck (fun x => { x with copies := x.copies.filter (fun y => y.id ≠ id) })
      let s2 := s1.modCtx k (fun x => { x with copies := (if c.orphan then x.copies else x.copies - 1) })
      if c.faults = 0 then s2 else pend s2 k 0x090#9 (c.pc.zeroExtend 64) (c.firstInfo ||| putAt (satTo c.faults 511) 32)
    else s.modCluster ck (fun x =>
      { x with copies := x.copies.map (fun y => if y.id = id then { y with left := y.left - 1 } else y) })

/-- A task record with an entry less: with the last its live slot frees (R243), and 0x092 is raised once where some of them
faulted: DESIGN CHOICE (log 148). -/
def taskStep (s : State) (ck id : Nat) : State :=
  match (s.cluster ck).tasks.find? (fun c => c.id = id) with
  | none => s
  | some t =>
    let k := slotCtx t.core t.ctxSlot t.orphan
    if t.left = 1 then
      let s1 := s.modCluster ck (fun x => { x with tasks := x.tasks.filter (fun y => y.id ≠ id) })
      let s2 := s1.modCtx k (fun x => { x with tiles := (if t.orphan then x.tiles else x.tiles - 1), pulse := s.clk })
      if t.faults = 0 then s2 else pend s2 k 0x092#9 t.ring (t.firstInfo ||| putAt (satTo t.faults 511) 32)
    else s.modCluster ck (fun x =>
      { x with tasks := x.tasks.map (fun y => if y.id = id then { y with left := y.left - 1 } else y) })

/-- An entry leaves the pool: its place serves from the next clk on (R220). -/
def dropEntry (s : State) (ck seq : Nat) : State :=
  s.modCluster ck (fun c =>
    if c.pool.any (fun e => e.seq = seq) then
      { c with pool := c.pool.filter (fun e => e.seq ≠ seq), freedAt := s.clk,
               freedNow := (if c.freedAt = s.clk then c.freedNow else 0) + 1 }
    else c)

def modNode (s : State) (core age : Nat) (f : Node → Node) : State :=
  s.modCore core (fun c => { c with siding := c.siding.map (fun n => if n.age = age then f n else n) })

/-- The context to which what a demand met is reported: the control context's for a helper that has ended (R82). -/
def reportCtx (s : State) (k : Nat) : Nat := if (s.ctx k).run = .free || (s.ctx k).run = .ended then k / 16 * 16 else k

/-- A sub-tile has left the pool: the report of its demand may be complete (R162). -/
def flushDemand (s : State) (e : PoolEntry) : State :=
  match e.demand with
  | some (k, _) => flushLates s (reportCtx s k)
  | none => s

/-- An entry completes (R222): its source learns it. -/
def settleEntry (s : State) (ck : Nat) (e : PoolEntry) : State :=
  let s1 := dropEntry s ck e.seq
  match e.src with
  | .node core age =>
    let s2 := modNode s1 core age (fun n =>
      { n with done := n.done ||| ((1#64) <<< e.sub), out := n.out &&& ~~~((1#64) <<< e.sub) })
    flushDemand (freeNodes (s2.modCtx (core * 16 + e.ctxSlot) (fun c => { c with pulse := s.clk })) core) e
  | .copy id => copyStep s1 ck id
  | .task id => taskStep s1 ck id

/-! ## Faults (R161, R162, R235) -/

/-- Entries of siding nodes that depend on one entry, through any number of edges. -/
def dependants (pool : List PoolEntry) : Nat → List PoolEntry → List PoolEntry
  | 0, acc => acc
  | fuel + 1, acc =>
    let more := pool.filter (fun e =>
      !(acc.any (fun f => f.seq = e.seq)) && (match e.src with | .node .. => true | _ => false) && e.engine.isNone &&
        acc.any (fun f => f.seq < e.seq && dependsOn e f))
    if more.isEmpty then acc else dependants pool fuel (acc ++ more)

/-- A late report gathered with those of the same demand: the oldest node names TADDR, and the lowest of its class-7 causes
is kept (R61, R162). -/
def Late.join (l : Late) (cause : Cause) (n : Node) (info : Word) : Late :=
  let l1 := if l.nodes.any (fun p => p.1 = n.age) then l else { l with nodes := l.nodes ++ [(n.age, n.pc)] }
  if n.age < l.age || (n.age = l.age && cause.toNat < l.cause.toNat) then
    { l1 with cause := cause, taddr := n.pc.zeroExtend 64, tinfo := info, age := n.age }
  else l1

/-- A report of faults and one of class-7 causes are kept apart. -/
def Late.isFault (l : Late) : Bool := l.cause = 0x081#9

/-- A node's fault or flags are gathered for the context whose instruction released it, once for each demand (R162); without a demand
they are pending at once. -/
def reportLate (s : State) (d : Option (Nat × Nat)) (owner : Nat) (cause : Cause) (n : Node) (info : Word) : State :=
  let fault : Bool := cause = 0x081#9
  match d with
  | none => pend s owner cause (n.pc.zeroExtend 64) (info ||| putAt 1 32)
  | some (k, m) =>
    s.modCtx (reportCtx s k) (fun c =>
      { c with lates := if c.lates.any (fun l => l.demand = m && l.isFault = fault) then
                          c.lates.map (fun l => if l.demand = m && l.isFault = fault then l.join cause n info else l)
                        else c.lates ++ [{ cause := cause, taddr := n.pc.zeroExtend 64, tinfo := info, age := n.age,
                                           nodes := [(n.age, n.pc)], demand := m }] })

/-- Contexts that wait for a sub-tile learn that it did not complete (R157). -/
def markWaiters (s : State) (core age b : Nat) : State :=
  (List.range 11).foldl (fun st slot =>
    st.modCtx (core * 16 + slot) (fun c => if c.waitSubs.contains (age, b) then { c with demandFault := true } else c)) s

/-- A released sub-tile returns to suspended in its node; a node that has faulted itself discards it (R161). -/
def giveBack (s : State) (ck : Nat) (f : PoolEntry) : State :=
  match f.src with
  | .node core age =>
    let bit_ : BitVec 64 := (1#64) <<< f.sub
    flushDemand (freeNodes (markWaiters (modNode (dropEntry s ck f.seq) core age (fun m =>
      { m with out := m.out &&& ~~~bit_, gone := if m.faulted then m.gone ||| bit_ else m.gone })) core age f.sub) core) f
  | _ => s

/-- Entries of nodes that depend on a faulted entry return to their nodes. -/
def giveBackAll (s : State) (ck : Nat) (e : PoolEntry) : State :=
  ((dependants (s.cluster ck).pool 128 [e]).filter (fun f => f.seq ≠ e.seq)).foldl (fun st f => giveBack st ck f) s

/-- THE FAULT of a pool entry with the cause that its access would have raised. Sub-tiles of its node that still
wait for a place are discarded and set no status bit: DESIGN CHOICE (log 144). -/
def entryFault (s : State) (ck : Nat) (e : PoolEntry) (cause : Cause) : State :=
  let s1 := dropEntry (giveBackAll s ck e) ck e.seq
  match e.src with
  | .node core age =>
    match (s1.core core).siding.find? (fun n => n.age = age) with
    | none => s1
    | some n =>
      let s2 := reportLate (markWaiters s1 core age e.sub) e.demand (slotCtx core n.ctxSlot n.orphan) 0x081#9 n
        (faultInfo n.slot e.sub cause 0)
      let s3 := modNode (unqueue s2 core age (fun _ => true)) core age (fun m =>
        { m with faulted := true, out := m.out &&& ~~~((1#64) <<< e.sub),
                 gone := m.gone ||| ((1#64) <<< e.sub) ||| (~~~(m.done ||| m.out)) })
      flushDemand (freeNodes s3 core) e
  | .copy id =>
    let s2 := s1.modCluster ck (fun x =>
      { x with copies := x.copies.map (fun y => if y.id = id then
          { y with faults := y.faults + 1, firstInfo := if y.faults = 0 then faultInfo 31 e.sub cause 0 else y.firstInfo } else y) })
    copyStep s2 ck id
  | .task id =>
    let s2 := s1.modCluster ck (fun x =>
      { x with tasks := x.tasks.map (fun y => if y.id = id then
          { y with faults := y.faults + 1, firstInfo := if y.faults = 0 then faultInfo y.live e.sub cause 0 else y.firstInfo } else y) })
    taskStep s2 ck id

/-- Flags of a finished sub-tile: sticky in DST's status; the lowest enabled one raises its class-7 cause (R61, R162).
DEDUCED (log 48). -/
def entryFlags (s : State) (ck : Nat) (e : PoolEntry) (o : SubOut) : State :=
  let c := entryCmd ck e
  let d := bits c.a 7 0
  let t := c.dst s
  let t1 := { t with status := t.status ||| (0#1 ++ o.flags) ||| (if o.ior then 0x80#8 else 0) }
  let s1 := s.modCluster ck (fun x => { x with tids := Tbl.put Tid.empty x.tids d t1 })
  match lowestFlag (o.flags &&& t.ten) with
  | none => s1
  | some i =>
    let cause : Cause := BitVec.ofNat 9 (0x0E1 + i)
    match e.src with
    | .node core age =>
      match (s.core core).siding.find? (fun n => n.age = age) with
      | some n => reportLate s1 e.demand (slotCtx core n.ctxSlot n.orphan) cause n (faultInfo n.slot e.sub 0 0)
      | none => s1
    | .copy _ => s1
    | .task id =>
      match (s.cluster ck).tasks.find? (fun r => r.id = id) with
      | some r => pend s1 (slotCtx r.core r.ctxSlot r.orphan) cause r.ring (faultInfo r.live e.sub 0 0)
      | none => s1

end Sys2Proof.Machine
end

