-- ==== Sys2Proof/Machine/Memory.lean ====
section
/-!
DEFINITION. Scalar memory instructions: loads and stores of compute, translator and controller contexts (R89 to R94, R298,
R310), `ordr` (R100), and bit access (R108 to R110).
-/
namespace Sys2Proof.Machine

/-! ## A controller's address space (R310, R365) -/

/-- Where a controller address is. -/
inductive CtlPlace where
  | sram | mailbox | rom | device | nothing
  deriving DecidableEq, Repr

def ctlPlace (n a : Nat) : CtlPlace :=
  if a < 0x40000 then .sram
  else if 0x100000 ≤ a ∧ a < 0x110000 then .mailbox
  else if n = 0 ∧ 0x200000 ≤ a ∧ a < 0x208000 then .rom
  else if n = 0 ∧ 0x10000000 ≤ a ∧ a < 0x20000000 then .device
  else .nothing

/-- The lifecycle value of a thermometer of n fuse pairs from key k (R364): one more than the index of the highest pair
programmed. -/
def thermometer (s : State) (k n : Nat) : Nat :=
  match (List.range n).reverse.find? (fun i => Tbl.get (0 : BitVec 2) s.fuses (k + i) ≠ 0) with
  | some i => i + 1
  | none => 0

/-- The fused lifecycle code: MANUFACTURE 0, PROVISIONED 1, SECURE 2, DECOMMISSIONED 4 (R363). -/
def fusedLcs (s : State) : Nat := let v := thermometer s 512 3; if v = 3 then 4 else v
/-- LCS.STATE: DEBUG 3 once an unlock has opened the port (R366). -/
def lcsOf (s : State) : Nat := if s.dev.debugOpen then 3 else fusedLcs s
/-- The debug port is open (R363, R366). -/
def portOpen (s : State) : Bool := s.dev.debugOpen || fusedLcs s = 0 || fusedLcs s = 4

/-- WBOUND (R365). -/
def boundWord (s : State) : Word :=
  (List.range 64).foldl (fun w n => if (s.world n).bound then w ||| putAt 1 n else w) 0

/-- What an `ld64` of an SCTL device register reads (R365). -/
def deviceWord (s : State) (a : Nat) : Word :=
  let d := s.dev
  if a = 0x10000000 then Config.devId
  else if a = 0x10000008 then BitVec.ofNat 64 (lcsOf s)
  else if 0x10000010 ≤ a ∧ a < 0x10000038 then BitVec.ofNat 64 (thermometer s (64 * ((a - 0x10000010) / 8)) 64)
  else if a = 0x10000048 then putAt (if d.ffail then 1 else 0) 1 ||| putAt (if d.fbusy.isSome then 1 else 0) 0
  else if a = 0x10010000 then d.rsaMsgA
  else if a = 0x10010008 then d.rsaMsgL.zeroExtend 64
  else if a = 0x10010010 then d.rsaSigA
  else if a = 0x10010020 then
    putAt (if d.rsaRun.isSome then 1 else 0) 63 ||| putAt (if d.rsaDone then 1 else 0) 1 ||| putAt (if d.rsaPass then 1 else 0) 0
  else if a = 0x10030008 then boundWord s
  else if a = 0x10030018 then
    putAt (if d.zclean then 1 else 0) 2 ||| putAt (if d.tearing.isEmpty then 0 else 1) 1 ||| putAt (if d.zbusy then 1 else 0) 0
  else if 0x10040040 ≤ a ∧ a < 0x10040080 then d.mval.extractLsb' (8 * (a - 0x10040040)) 64
  else if 0x10040080 ≤ a ∧ a < 0x100400C0 then (Tbl.get 0 s.meas d.mread).extractLsb' (8 * (a - 0x10040080)) 64
  else if a = 0x10050000 then putAt (if portOpen s then 1 else 0) 0
  else 0

/-- A record of an access that reaches nothing, in the controller's error log (R310, R334). -/
def logCtl (s : State) (n : Nat) (a kind synd : Nat) : State :=
  s.logAt (logKey 0 16 n) [BitVec.ofNat 64 a, putAt kind 56 ||| putAt 16 42 ||| putAt n 32 ||| putAt synd 0, 0, s.cycle]

/-- Such a record of kind 5, of an access that has no cause: its SYNDROME is a free value. -/
def logCtlOpen (s : State) (n : Nat) (a : Nat) : State :=
  let (v, s1) := s.freeVal
  logCtl s1 n a 5 (v.toNat % 2 ^ 32)

/-- CIPEND: source 0 is pending exactly while GO of the controller's own mailbox is 1 (R311). DEDUCED (log 50). -/
def cipendOf (s : State) (c : Ctx) : Word := setBits c.cipend (putAt (s.byte (ctlSpace c.core 0x100007)).toNat 0 >>> 7) 0 0

/-- A controller's load: the value, and the state with what it logs. -/
def ctlLoad (s : State) (n : Nat) (a size : Nat) : Nat × State :=
  match ctlPlace n a with
  | .sram | .mailbox => (s.readMem (ctlSpace n a) size, s)
  | .rom => (leValue ((List.range size).map (fun i => Config.bootRom (a - 0x200000 + i))), s)
  | .device => ((deviceWord s (a / 8 * 8)).toNat / 2 ^ (8 * (a % 8)) % 2 ^ (8 * size), s)
  | .nothing => (0, logCtlOpen s n a)

/-- GO of the SCTL's mailbox. -/
def mailGo (s : State) : Bool := bit (BitVec.ofNat 64 (s.readMem (ctlSpace 0 0x100000) 8)) 63
/-- A word of the SCTL's mailbox. -/
def mailWord (s : State) (i : Nat) : Word := BitVec.ofNat 64 (s.readMem (ctlSpace 0 (0x100000 + 8 * i)) 8)

/-- The SCTL has cleared GO: a refused unlock is logged by the mailbox unit (R372), and a request that came meanwhile has its turn
(R353). -/
def mailboxEnded (s : State) : State :=
  let s1 := { s with dev := { s.dev with served := false, taken := false, mailNext := none } }
  let s2 := if bits (mailWord s 0) 7 0 = 6 && mailWord s 1 = 2 then logCtl s1 0 0x101000 5 6 else s1
  match s.dev.mailNext with
  | some v => s2.writeMem (ctlSpace 0 0x100000) 8 v.toNat
  | none => s2

/-- The device registers whose value a store to another one may change at once: LCS, FSTAT, RSASTAT, WBOUND, KSTAT. -/
def statusAddrs : List Nat := [0x10000008, 0x10000048, 0x10010020, 0x10030008, 0x10030018]

/-- A store to a device register: until an `ordr`, a later load of another register may be performed before it, and reads the value
from before (R100, R373). DEDUCED (log 124). Stores themselves are performed in program
order: DESIGN CHOICE (log 142). -/
def storeDevice (dev : State → Nat → Word → State) (s : State) (a : Nat) (v : Word) : State :=
  let s1 := dev s a v
  let late := statusAddrs.filter (fun b => b ≠ a && deviceWord s1 b ≠ deviceWord s b && !s.dev.early.any (fun p => p.1 = b))
  { s1 with dev := { s1.dev with early := s1.dev.early ++ late.map (fun b => (b, deviceWord s b)) } }

/-- A program of the SCTL that reads word 0 of a request with GO set serves the request itself (R353, R373). DEDUCED (log 137). -/
def takeRequest (s : State) (n a : Nat) : State :=
  if n = 0 && a / 8 * 8 = 0x100000 && mailGo s && !s.dev.served then { s with dev := { s.dev with taken := true } } else s

/-- A load of a controller: one of a device register that an earlier store changes may be performed before the store. -/
def loadCtl (s : State) (n : Nat) (a size : Nat) : Nat × State :=
  match ctlPlace n a, s.dev.early.find? (fun p => p.1 = a / 8 * 8) with
  | .device, some p =>
    let (f, s1) := s.freeVal
    if bit f 0 then (p.2.toNat / 2 ^ (8 * (a % 8)) % 2 ^ (8 * size), s1)
    else ctlLoad { s1 with dev := { s1.dev with early := s1.dev.early.filter (fun q => q.1 ≠ p.1) } } n a size
  | _, _ => ctlLoad (takeRequest s n a) n a size

/-- A controller's load may reach another controller's mailbox only through its own registers; the SCTL reads and writes
every mailbox by the controller's space (R310). Stores are performed in program order, which R100 leaves open: DESIGN CHOICE
(log 142). -/
def ctlStore (s : State) (n : Nat) (a size v : Nat) : State :=
  match ctlPlace n a with
  | .sram => s.writeMem (ctlSpace n a) size v
  | .mailbox =>
    let s1 := s.writeMem (ctlSpace n a) size v
    if n = 0 && mailGo s && !mailGo s1 then mailboxEnded s1 else s1
  | .rom => s
  | .device => s
  | .nothing => logCtlOpen s n a

/-! ## Checks -/

/-- The whole access lies in [lo, hi), each with the own die's number in one form (R298). -/
def within (c lo hi : Word) (n : Nat) : Bool := lo.toNat ≤ c.toNat && c.toNat + n ≤ hi.toNat

/-- The first cause of an access by a context (R89, R298). -/
def accessCause (s : State) (c : Ctx) (va : Word) (size : Nat) (store : Bool) : Option Cause :=
  match c.kind with
  | .controller => if va.toNat % size ≠ 0 then some 0x021#9 else none
  | .translator =>
    match checkVa va size with
    | some k => some k
    | none =>
      let m := c.meter
      let at_ := canonVa s c.die
      if within (at_ va) (at_ m.owBase) (at_ m.owLim) size || (!store && within (at_ va) (at_ m.pwBase) (at_ m.pwLim) size) then none
      else some 0x182#9
  | _ => checkVa va size

/-- A value of n bytes extended to 64 bits. -/
def extend (signed : Bool) (n v : Nat) : Word :=
  let w := 8 * n
  if signed && 2 ^ (w - 1) ≤ v % 2 ^ w then BitVec.ofInt 64 ((v % 2 ^ w : Nat) - (2 ^ w : Nat) : Int) else BitVec.ofNat 64 (v % 2 ^ w)

/-- The address of a Pliren memory operand (R89). -/
def memVa (s : State) (b : GReg) (i : BitVec 14) : Word := s.rG b + i.signExtend 64

/-! ## Loads (R92) -/

/-- A load of n bytes of the core's own unit memory: the value, or 0 where the granule is uncorrectable (R90, R336). -/
def loadOwn (s : State) (va : Word) (n : Nat) : Nat × State :=
  let c := s.cx
  let loc := ownKey s c va
  let (ue, s1) := readEcc s loc n (some va) (some c)
  if ue then (0, consume s1 s.cur va c.pc) else (s.readMem loc n, s1)

/-- The load counter has room, and nothing of a translator's is outstanding (R111, R298). -/
def loadRoom (s : State) : Bool :=
  s.cx.loads < 63 && !(s.cx.kind = .translator && s.ops.any (fun o => o.ctx = s.cur))

/-- A load of n bytes. -/
def execLoad (s : State) (i : Instr) (d b : GReg) (disp : BitVec 14) (n : Nat) (signed : Bool) : Out :=
  issue s i (fun s =>
    let c := s.cx
    let va := memVa s b disp
    match accessCause s c va n false with
    | some k => raiseHere s k va (tinfo1 i n false)
    | none =>
      if c.kind = .controller then
        let (v, s1) := loadCtl s c.core va.toNat n
        retire (s1.wG d (extend signed n v)) 4
      else if c.kind ≠ .translator && ownUM s c va then
        let (v, s1) := loadOwn s va n
        retire (s1.wG d (extend signed n v)) 4
      else if !loadRoom s then s
      else
        let (op, s1) := newOp s (regDest c (gS d)) 1 0x042#9 false
        retire (sendReq s1 .load op 0 signed va n (forwarded s c.coreKey va n)) 4)

def execLd8s (d b : GReg) (imm : BitVec 14) (s : State) : Out := execLoad s (.ld8s d b imm) d b imm 1 true
def execLd8z (d b : GReg) (imm : BitVec 14) (s : State) : Out := execLoad s (.ld8z d b imm) d b imm 1 false
def execLd16s (d b : GReg) (imm : BitVec 14) (s : State) : Out := execLoad s (.ld16s d b imm) d b imm 2 true
def execLd16z (d b : GReg) (imm : BitVec 14) (s : State) : Out := execLoad s (.ld16z d b imm) d b imm 2 false
def execLd32s (d b : GReg) (imm : BitVec 14) (s : State) : Out := execLoad s (.ld32s d b imm) d b imm 4 true
def execLd32z (d b : GReg) (imm : BitVec 14) (s : State) : Out := execLoad s (.ld32z d b imm) d b imm 4 false
def execLd64 (d b : GReg) (imm : BitVec 14) (s : State) : Out := execLoad s (.ld64 d b imm) d b imm 8 false

/-! ## Stores (R93) -/

/-- A store's bytes at its own unit memory: performed at once. -/
def storeOwn (s : State) (va : Word) (bs : List Byte) : State :=
  s.write s.cx.coreKey false (ownKey s s.cx va) va bs

/-- The journal is full: cause 0x0A1 (R147). DEDUCED (log 39). -/
def journalFull (s : State) (i : Instr) (va : Word) (n : Nat) : State :=
  if upcallStalls s s.cur 0x0A1#9 then s
  else
    raiseHere (s.modCore s.cx.coreKey (fun c => { c with fullCnt := satTo (c.fullCnt + 1) 65535 })) 0x0A1#9 va (tinfo1 i n true)

/-- A store of n bytes by a compute context. -/
def storeCompute (s : State) (i : Instr) (va : Word) (n : Nat) (v : Word) : State :=
  beforeWrite s (accessFoot s va n) (fun s =>
    if ownUM s s.cx va then retire (storeOwn s va (leBytes v.toNat n)) 4
    else
      match postOne s s.cur s.cx.pc s.nextId va va (leBytes v.toNat n) with
      | none => journalFull s i va n
      | some s1 => retire { s1 with nextId := s1.nextId + 1 } 4)

/-- A translator's store: performed before the next access issues (R298). -/
def storeTranslator (s : State) (va : Word) (n : Nat) (v : Word) : State :=
  if !loadRoom s then s
  else
    let (op, s1) := newOp s .none 1 0x041#9 false
    retire (sendReq s1 (.store (v.toNat % 2 ^ (8 * n))) op 0 false va n []) 4

/-- A store of n bytes; `dev` is what it does at a device register of the SCTL. -/
def storeBy (dev : State → Nat → Word → State) (s : State) (i : Instr) (v b : GReg) (disp : BitVec 14) (n : Nat) : Out :=
  issue s i (fun s =>
    let c := s.cx
    let va := memVa s b disp
    match accessCause s c va n true with
    | some k => raiseHere s k va (tinfo1 i n true)
    | none =>
      match c.kind with
      | .controller =>
        if ctlPlace c.core va.toNat = .device then retire (storeDevice dev s va.toNat (s.rG v)) 4
        else retire (ctlStore s c.core va.toNat n ((s.rG v).toNat % 2 ^ (8 * n))) 4
      | .translator => storeTranslator s va n (s.rG v)
      | _ => storeCompute s i va n (s.rG v))

/-- A store narrower than 8 bytes changes no device register: it is logged (R365). -/
def execStore (s : State) (i : Instr) (v b : GReg) (disp : BitVec 14) (n : Nat) : Out :=
  storeBy (fun s a _ => logCtlOpen s 0 a) s i v b disp n

def execSt8 (v b : GReg) (imm : BitVec 14) (s : State) : Out := execStore s (.st8 v b imm) v b imm 1
def execSt16 (v b : GReg) (imm : BitVec 14) (s : State) : Out := execStore s (.st16 v b imm) v b imm 2
def execSt32 (v b : GReg) (imm : BitVec 14) (s : State) : Out := execStore s (.st32 v b imm) v b imm 4

/-! ## ordr (R100) -/

/-- The loads counter is zero; a controller's stores have been performed, so that no later load is performed before one. -/
def execOrdr (s : State) : Out :=
  issue s .ordr (fun s =>
    if s.cx.loads ≠ 0 then s
    else retire (if s.cx.kind = .controller then { s with dev := { s.dev with early := [] } } else s) 4)

/-! ## Bit access (R108 to R110) -/

/-- BA as the byte address and the bit within it, as numbers (R108). -/
def baVa (ba : Word) : Word := ba &&& ~~~0x0000003800000000#64
def baBit (ba : Word) : Nat := bits ba 37 35
def baByte (ba : Word) : Nat := bits ba 34 0
/-- The size of a level's region in bytes. -/
def levelBytes (lvl : Nat) : Nat := if lvl = 0 then 0x100000 else if lvl = 1 then 0x400000 else 0x4000000
/-- BA advanced by w bits. -/
def baAdvance (ba : Word) (w : Nat) : Word :=
  let e := baByte ba * 8 + baBit ba + w
  setBits (setBits ba (putAt (e / 8 % 2 ^ 35) 0) 34 0) (putAt (e % 8) 35) 37 35

/-- The cause of a bit access of w bits with BA (R110). -/
def bitCause (s : State) (c : Ctx) (w : Nat) (store : Bool) : Option Cause :=
  let va := baVa c.ba
  if !bit c.ba 48 || vaDie c.ba = 0x7FFF then some 0x027#9
  else
    match checkVa va 1 with
    | some k => some k
    | none =>
      if 8 * levelBytes (vaLevel va) < baByte c.ba * 8 + baBit c.ba + w then some 0x024#9
      else if store && !ownUM s c va then some 0x027#9
      else none

/-- TADDR of a cause of a bit access: BA for 0x027, the va otherwise (R114). -/
def bitTaddr (c : Ctx) (k : Cause) : Word := if k = 0x027#9 then c.ba else baVa c.ba

/-- w bits from bit sh of memory at a byte location. -/
def bitsFrom (s : State) (loc sh w : Nat) : Nat := s.readMem loc ((sh + w + 7) / 8) / 2 ^ sh % 2 ^ w

def execLdbits (d : SReg) (sc : BitVec 1) (w : BitVec 5) (s : State) : Out :=
  let i := Instr.ldbits d sc w
  let n := w.toNat + 1
  issue s i (fun s =>
    let c := s.cx
    match bitCause s c n false with
    | some k => raiseHere s k (bitTaddr c k) (tinfo1 i n false)
    | none =>
      let va := baVa c.ba
      let sh := baBit c.ba
      let adv (st : State) : State := st.modCx (fun x => { x with ba := baAdvance c.ba n })
      let bytes := (sh + n + 7) / 8
      if ownUM s c va then
        let (v, s1) := loadOwn s va bytes
        let x := v / 2 ^ sh % 2 ^ n
        retire ((adv s1).wS d (if sc = 1 && 2 ^ (n - 1) ≤ x then BitVec.ofNat 64 (2 ^ 64 - 2 ^ n + x) else BitVec.ofNat 64 x)) 4
      else if 63 ≤ c.loads then s
      else
        let (op, s1) := newOp s (regDest c d) 1 0x042#9 false
        retire (adv (sendReq s1 (.bits sh n) op 0 (sc = 1) va bytes (forwarded s c.coreKey va bytes))) 4)

def execStbits (a : SReg) (w : BitVec 5) (s : State) : Out :=
  let i := Instr.stbits a w
  let n := w.toNat + 1
  issue s i (fun s =>
    let c := s.cx
    match bitCause s c n true with
    | some k => raiseHere s k (bitTaddr c k) (tinfo1 i n true)
    | none =>
      let va := baVa c.ba
      let sh := baBit c.ba
      let v := (s.rS a).toNat
      beforeWrite s (accessFoot s va ((sh + n + 7) / 8)) (fun s =>
        let bs := mergeBits s (8 * ownKey s c va + sh) n v
        retire ((storeOwn s va bs).modCx (fun x => { x with ba := baAdvance c.ba n })) 4))

def execSetba (a : SReg) (s : State) : Out :=
  issue s (.setba a) (fun s => retire (s.modCx (fun c => { c with ba := s.rS a })) 4)

end Sys2Proof.Machine
end

