-- ==== Sys2Proof/Machine/Planes.lean ====
section
/-!
DEFINITION. Plane instructions (spec 05): arithmetic, logic, comparison, selection, reductions, rearrangement, conversion,
masks and shape, plane memory and vector atomics.
-/
namespace Sys2Proof.Machine

/-! ## Elements, halves and masks (R117 to R121) -/

/-- The table key of an element of a plane. -/
def planeKey (p r c : Nat) : Nat := p * 2048 + r * 64 + c
def planeAt (s : State) (core p r c : Nat) : Word32 := Tbl.get 0 (s.core core).planes (planeKey p r c)
/-- The bytes of a plane granule as they stand. -/
def planeGranBytes (s : State) (core n : Nat) : List Byte :=
  (List.range 16).flatMap (fun i => leBytes (Tbl.get (0 : Word32) (s.core core).planes (16 * n + i)).toNat 4)

/-- One element written, recorded where a superstep is open (R340). -/
def putElem (s : State) (core key : Nat) (v : Word32) : State :=
  let co := s.core core
  let s1 := if !co.snap.isOpen then s
            else noteWrite s core false (planeGran core key) 0 true (planeGranBytes s core (key / 16))
  s1.modCore core (fun x => { x with planes := Tbl.put 0 x.planes key v })
def putElems (s : State) (core : Nat) (l : List (Nat × Word32)) : State :=
  l.foldl (fun st p => putElem st core p.1 p.2) s

/-- The elements of the shape in row-major order. -/
def shapeElems (c : Ctx) : List (Nat × Nat) :=
  (List.range c.rows).flatMap (fun r => (List.range c.cols).map (fun q => (r, q)))

def isPair (t : BitVec 4) : Bool := 3 ≤ t.toNat && t.toNat ≤ 5
/-- Bit (r, c, h) of a mask (R120). -/
def maskBit (m : BitVec 4096) (r c h : Nat) : Bool := m.getLsbD (128 * r + 2 * c + h)
/-- Which halves of an element a mask enables: both or none for a 32-bit type. -/
def enables (m : BitVec 4096) (t : BitVec 4) (r c : Nat) : Bool × Bool :=
  if isPair t then (maskBit m r c 0, maskBit m r c 1) else (maskBit m r c 0, maskBit m r c 0)
def anyHalf (e : Bool × Bool) : Bool := e.1 || e.2

def loHalf (v : Word32) : Nat := v.toNat % 65536
def hiHalf (v : Word32) : Nat := v.toNat / 65536
def ofHalves (l h : Nat) : Word32 := BitVec.ofNat 32 (l % 65536 + 65536 * h)
/-- The enabled halves of a new element over the old one. -/
def mergeHalves (old new : Word32) (e : Bool × Bool) : Word32 :=
  if e.1 && e.2 then new
  else ofHalves (if e.1 then loHalf new else loHalf old) (if e.2 then hiHalf new else hiHalf old)

/-- The format code of a plane type: R40's, with 32 for I32 and 33 for N32. -/
def typeFmt (t : BitVec 4) : Nat :=
  match t.toNat with
  | 0 => 1 | 1 => 32 | 2 => 33 | 3 => 3 | 4 => 4 | 5 => 5 | _ => 13
/-- The width of an element or half. -/
def typeWidth (t : BitVec 4) : Nat := if isPair t then 16 else 32

/-- An operation over the bits of a, b and the old destination d. -/
abbrev ElemOp := Nat → Nat → Nat → Nat × FlagSet

/-- An operation applied to an element: each half by itself for a pair type; only enabled parts are computed. -/
def applyOp (t : BitVec 4) (op : ElemOp) (e : Bool × Bool) (a b d : Word32) : Word32 × FlagSet :=
  if isPair t then
    let (l, f0) := if e.1 then op (loHalf a) (loHalf b) (loHalf d) else (loHalf d, 0)
    let (h, f1) := if e.2 then op (hiHalf a) (hiHalf b) (hiHalf d) else (hiHalf d, 0)
    (ofHalves l h, f0 ||| f1)
  else if e.1 then
    let (x, f) := op a.toNat b.toNat d.toNat
    (BitVec.ofNat 32 x, f)
  else (d, 0)

/-- The end of a plane instruction of n bytes that raised flags: sticky bits, and the trap after completion (R60, R61). -/
def planeFinish (s : State) (fl : FlagSet) (n : Nat) : State :=
  let pc := s.cx.pc
  let s1 := retire (s.modCx (fun c => { c with ast := c.ast ||| fl.zeroExtend 64 })) n
  match lowestFlag (fl &&& s.cx.ast.extractLsb' 8 7) with
  | none => s1
  | some i => raiseExact s1 s.cur (BitVec.ofNat 9 (0x0E1 + i)) (pc.zeroExtend 64) (fl.zeroExtend 64) s1.cx.pc

/-- The operand b of an instruction: a plane, or imm32 for every element (R36). -/
inductive SrcB where
  | plane (p : PReg)
  | imm (v : Word32)
  deriving DecidableEq, Repr

def SrcB.at (s : State) (core r c : Nat) : SrcB → Word32
  | .plane p => planeAt s core p.toNat r c
  | .imm v => v

/-- THE COMMON EFFECT (R121): all reads, then the enabled writes, the flags, the trap. -/
def elementwise (s : State) (d a : PReg) (b : SrcB) (k : KReg) (t : BitVec 4) (op : ElemOp) (n : Nat) : State :=
  let c := s.cx
  let core := c.coreKey
  let m := c.mask k.toNat
  let out := (shapeElems c).filterMap (fun (r, q) =>
    let e := enables m t r q
    if anyHalf e then
      let (v, f) := applyOp t op e (planeAt s core a.toNat r q) (b.at s core r q) (planeAt s core d.toNat r q)
      some (planeKey d.toNat r q, v, f)
    else none)
  planeFinish (putElems s core (out.map (fun x => (x.1, x.2.1)))) (out.foldl (fun f x => f ||| x.2.2) 0) n

/-- The same as a meaning. -/
def planeOp (s : State) (i : Instr) (d a : PReg) (b : SrcB) (k : KReg) (t : BitVec 4) (op : ElemOp) (n : Nat) : Out :=
  issue s i (fun s => elementwise s d a b k t op n)

/-! ## Arithmetic (R124 to R126) -/

/-- Two values read in a type. -/
def asInt (t : BitVec 4) (x : Nat) : Int :=
  if t = 2#4 then (x % 2 ^ 32 : Nat) else signedOf (typeWidth t) (x % 2 ^ typeWidth t)
def ofIntW (t : BitVec 4) (x : Int) : Nat := (x % 2 ^ typeWidth t).toNat
def floatOf (t : BitVec 4) : Option FloatFmt := match fmtClass (typeFmt t) with | .float f => some f | _ => none

/-- ROUND of an exact value with the flags of the operation that gave it (R59). -/
def rounded (f : FloatFmt) (m : Rnd) (p : FVal × FlagSet) : Nat × FlagSet :=
  let (b, fl) := f.round m p.1
  (b, p.2 ||| fl)

def opAdd (t : BitVec 4) (m : Rnd) : ElemOp := fun a b _ =>
  match floatOf t with
  | some f => rounded f m (FVal.add m (f.value a) (f.value b))
  | none => if t = 6#4 then m8Op 0 a b else ((a + b) % 2 ^ typeWidth t, 0)
def opSub (t : BitVec 4) (m : Rnd) : ElemOp := fun a b _ =>
  match floatOf t with
  | some f => rounded f m (FVal.add m (f.value a) (f.value b).neg)
  | none => if t = 6#4 then m8Op 1 a b else (ofIntW t (asInt t a - asInt t b), 0)
def opMul (t : BitVec 4) (m : Rnd) : ElemOp := fun a b _ =>
  match floatOf t with
  | some f => rounded f m (FVal.mul (f.value a) (f.value b))
  | none => if t = 6#4 then m8Op 2 a b else (a * b % 2 ^ typeWidth t, 0)
def opMulh (t : BitVec 4) : ElemOp := fun a b _ => (ofIntW t (asInt t a * asInt t b / 2 ^ typeWidth t), 0)
/-- DEDUCED (log 97). -/
def opFma (t : BitVec 4) (m : Rnd) : ElemOp := fun a b d =>
  match floatOf t with
  | some f =>
    let (p, f1) := FVal.mul (f.value a) (f.value b)
    let (v, f2) := FVal.add m p (f.value d)
    rounded f m (v, f1 ||| f2)
  | none => (d, 0)
def opMin (t : BitVec 4) : ElemOp := fun a b _ =>
  match floatOf t with
  | some f => rounded f .rne (FVal.minOf (f.value a) (f.value b), 0)
  | none => (if asInt t b < asInt t a then b else a, 0)
def opMax (t : BitVec 4) : ElemOp := fun a b _ =>
  match floatOf t with
  | some f => rounded f .rne (FVal.maxOf (f.value a) (f.value b), 0)
  | none => (if asInt t a < asInt t b then b else a, 0)
/-- An integer result of `vabs` or `vneg`: the one that does not fit saturates (R125). -/
def satNeg (t : BitVec 4) (x : Int) : Nat × FlagSet :=
  let top : Int := 2 ^ (typeWidth t - 1) - 1
  if top < x then (ofIntW t top, fSAT) else (ofIntW t x, 0)
def opAbs (t : BitVec 4) : ElemOp := fun a _ _ =>
  match floatOf t with
  | some f => rounded f .rne ((f.value a).abs, 0)
  | none => satNeg t (if asInt t a < 0 then -(asInt t a) else asInt t a)
def opNeg (t : BitVec 4) : ElemOp := fun a _ _ =>
  match floatOf t with
  | some f => rounded f .rne ((f.value a).neg, 0)
  | none => satNeg t (-(asInt t a))
def opDiv (t : BitVec 4) (m : Rnd) : ElemOp := fun a b _ =>
  match floatOf t with
  | some f => rounded f m (FVal.div (f.value a) (f.value b))
  | none =>
    if b = 0 then (2 ^ typeWidth t - 1, fDVZ)
    else
      let q := Int.tdiv (asInt t a) (asInt t b)
      if t = 1#4 then satNeg t q else (ofIntW t q, 0)
def opSqrt (t : BitVec 4) (m : Rnd) : ElemOp := fun a _ _ =>
  match floatOf t with
  | some f => rounded f m (FVal.sqrt (f.value a))
  | none => (a, 0)

def execVadd (d a b : PReg) (k : KReg) (r : BitVec 2) (t : BitVec 4) (s : State) : Out :=
  planeOp s (.vadd d a b k r t) d a (.plane b) k t (opAdd t (Rnd.ofCode r)) 4
def execVsub (d a b : PReg) (k : KReg) (r : BitVec 2) (t : BitVec 4) (s : State) : Out :=
  planeOp s (.vsub d a b k r t) d a (.plane b) k t (opSub t (Rnd.ofCode r)) 4
def execVmul (d a b : PReg) (k : KReg) (r : BitVec 2) (t : BitVec 4) (s : State) : Out :=
  planeOp s (.vmul d a b k r t) d a (.plane b) k t (opMul t (Rnd.ofCode r)) 4
def execVmulh (d a b : PReg) (k : KReg) (r : BitVec 2) (t : BitVec 4) (s : State) : Out :=
  planeOp s (.vmulh d a b k r t) d a (.plane b) k t (opMulh t) 4
def execVfma (d a b : PReg) (k : KReg) (r : BitVec 2) (t : BitVec 4) (s : State) : Out :=
  planeOp s (.vfma d a b k r t) d a (.plane b) k t (opFma t (Rnd.ofCode r)) 4
def execVmin (d a b : PReg) (k : KReg) (r : BitVec 2) (t : BitVec 4) (s : State) : Out :=
  planeOp s (.vmin d a b k r t) d a (.plane b) k t (opMin t) 4
def execVmax (d a b : PReg) (k : KReg) (r : BitVec 2) (t : BitVec 4) (s : State) : Out :=
  planeOp s (.vmax d a b k r t) d a (.plane b) k t (opMax t) 4
def execVabs (d a : PReg) (k : KReg) (r : BitVec 2) (t : BitVec 4) (s : State) : Out :=
  planeOp s (.vabs d a k r t) d a (.imm 0) k t (opAbs t) 4
def execVneg (d a : PReg) (k : KReg) (r : BitVec 2) (t : BitVec 4) (s : State) : Out :=
  planeOp s (.vneg d a k r t) d a (.imm 0) k t (opNeg t) 4
def execVdiv (d a b : PReg) (k : KReg) (r : BitVec 2) (t : BitVec 4) (s : State) : Out :=
  planeOp s (.vdiv d a b k r t) d a (.plane b) k t (opDiv t (Rnd.ofCode r)) 4
def execVsqrt (d a : PReg) (k : KReg) (r : BitVec 2) (t : BitVec 4) (s : State) : Out :=
  planeOp s (.vsqrt d a k r t) d a (.imm 0) k t (opSqrt t (Rnd.ofCode r)) 4
def execVaddImm (d a : PReg) (k : KReg) (r : BitVec 2) (t : BitVec 4) (imm : BitVec 32) (s : State) : Out :=
  planeOp s (.vaddImm d a k r t imm) d a (.imm imm) k t (opAdd t (Rnd.ofCode r)) 8
def execVsubImm (d a : PReg) (k : KReg) (r : BitVec 2) (t : BitVec 4) (imm : BitVec 32) (s : State) : Out :=
  planeOp s (.vsubImm d a k r t imm) d a (.imm imm) k t (opSub t (Rnd.ofCode r)) 8
def execVmulImm (d a : PReg) (k : KReg) (r : BitVec 2) (t : BitVec 4) (imm : BitVec 32) (s : State) : Out :=
  planeOp s (.vmulImm d a k r t imm) d a (.imm imm) k t (opMul t (Rnd.ofCode r)) 8
def execVmulhImm (d a : PReg) (k : KReg) (r : BitVec 2) (t : BitVec 4) (imm : BitVec 32) (s : State) : Out :=
  planeOp s (.vmulhImm d a k r t imm) d a (.imm imm) k t (opMulh t) 8
def execVminImm (d a : PReg) (k : KReg) (r : BitVec 2) (t : BitVec 4) (imm : BitVec 32) (s : State) : Out :=
  planeOp s (.vminImm d a k r t imm) d a (.imm imm) k t (opMin t) 8
def execVmaxImm (d a : PReg) (k : KReg) (r : BitVec 2) (t : BitVec 4) (imm : BitVec 32) (s : State) : Out :=
  planeOp s (.vmaxImm d a k r t imm) d a (.imm imm) k t (opMax t) 8
def execVdivImm (d a : PReg) (k : KReg) (r : BitVec 2) (t : BitVec 4) (imm : BitVec 32) (s : State) : Out :=
  planeOp s (.vdivImm d a k r t imm) d a (.imm imm) k t (opDiv t (Rnd.ofCode r)) 8

/-! ## Logic and shifts (R127) -/

def opAnd : ElemOp := fun a b _ => (a &&& b, 0)
def opOr : ElemOp := fun a b _ => (a ||| b, 0)
def opXor : ElemOp := fun a b _ => (a ^^^ b, 0)
def opShl (t : BitVec 4) : ElemOp := fun a b _ => (a * 2 ^ (b % typeWidth t) % 2 ^ typeWidth t, 0)
def opShr (t : BitVec 4) : ElemOp := fun a b _ => (a / 2 ^ (b % typeWidth t), 0)
def opSar (t : BitVec 4) : ElemOp := fun a b _ =>
  let w := typeWidth t
  ((signedOf w a / 2 ^ (b % w) % 2 ^ w).toNat, 0)
def opPopc (t : BitVec 4) : ElemOp := fun a _ _ => (((List.range (typeWidth t)).filter (fun i => a.testBit i)).length, 0)
def opClz (t : BitVec 4) : ElemOp := fun a _ _ => (if a = 0 then typeWidth t else typeWidth t - 1 - Nat.log2 a, 0)

def execVand (d a b : PReg) (k : KReg) (t : BitVec 4) (s : State) : Out :=
  planeOp s (.vand d a b k t) d a (.plane b) k t opAnd 4
def execVor (d a b : PReg) (k : KReg) (t : BitVec 4) (s : State) : Out :=
  planeOp s (.vor d a b k t) d a (.plane b) k t opOr 4
def execVxor (d a b : PReg) (k : KReg) (t : BitVec 4) (s : State) : Out :=
  planeOp s (.vxor d a b k t) d a (.plane b) k t opXor 4
def execVshl (d a b : PReg) (k : KReg) (t : BitVec 4) (s : State) : Out :=
  planeOp s (.vshl d a b k t) d a (.plane b) k t (opShl t) 4
def execVshr (d a b : PReg) (k : KReg) (t : BitVec 4) (s : State) : Out :=
  planeOp s (.vshr d a b k t) d a (.plane b) k t (opShr t) 4
def execVsar (d a b : PReg) (k : KReg) (t : BitVec 4) (s : State) : Out :=
  planeOp s (.vsar d a b k t) d a (.plane b) k t (opSar t) 4
def execVpopc (d a : PReg) (k : KReg) (t : BitVec 4) (s : State) : Out :=
  planeOp s (.vpopc d a k t) d a (.imm 0) k t (opPopc t) 4
def execVclz (d a : PReg) (k : KReg) (t : BitVec 4) (s : State) : Out :=
  planeOp s (.vclz d a k t) d a (.imm 0) k t (opClz t) 4
def execVandImm (d a : PReg) (k : KReg) (t : BitVec 4) (imm : BitVec 32) (s : State) : Out :=
  planeOp s (.vandImm d a k t imm) d a (.imm imm) k t opAnd 8
def execVorImm (d a : PReg) (k : KReg) (t : BitVec 4) (imm : BitVec 32) (s : State) : Out :=
  planeOp s (.vorImm d a k t imm) d a (.imm imm) k t opOr 8
def execVxorImm (d a : PReg) (k : KReg) (t : BitVec 4) (imm : BitVec 32) (s : State) : Out :=
  planeOp s (.vxorImm d a k t imm) d a (.imm imm) k t opXor 8
def execVshlImm (d a : PReg) (k : KReg) (t : BitVec 4) (imm : BitVec 32) (s : State) : Out :=
  planeOp s (.vshlImm d a k t imm) d a (.imm imm) k t (opShl t) 8
def execVshrImm (d a : PReg) (k : KReg) (t : BitVec 4) (imm : BitVec 32) (s : State) : Out :=
  planeOp s (.vshrImm d a k t imm) d a (.imm imm) k t (opShr t) 8
def execVsarImm (d a : PReg) (k : KReg) (t : BitVec 4) (imm : BitVec 32) (s : State) : Out :=
  planeOp s (.vsarImm d a k t imm) d a (.imm imm) k t (opSar t) 8

/-! ## Compare, select, fill (R128, R129) -/

/-- A condition between two values of a type: 0 eq, 1 ne, 2 lt, 3 le, 4 gt, 5 ge, 6 unordered. -/
def compares (t : BitVec 4) (cond a b : Nat) : Bool :=
  match floatOf t with
  | some f =>
    let x := f.value a
    let y := f.value b
    let un := x = .nan || y = .nan
    match cond with
    | 0 => !un && x.eqv y
    | 1 => un || !(x.eqv y)
    | 2 => !un && x.lt y
    | 3 => !un && !(y.lt x)
    | 4 => !un && y.lt x
    | 5 => !un && !(x.lt y)
    | _ => un
  | none =>
    let x := asInt t a
    let y := asInt t b
    match cond with
    | 0 => x = y | 1 => x ≠ y | 2 => x < y | 3 => x ≤ y | 4 => y < x | 5 => y ≤ x | _ => false

/-- A mask with exactly the bits of a list set. -/
def maskOf (l : List Nat) : BitVec 4096 := l.foldl (fun m i => m ||| ((1#4096) <<< i)) 0
def maskIdx (r c h : Nat) : Nat := 128 * r + 2 * c + h

/-- `vcmp` (R128). -/
def compareMask (s : State) (cond : Nat) (a : PReg) (b : SrcB) (k : KReg) (t : BitVec 4) : BitVec 4096 :=
  let c := s.cx
  let core := c.coreKey
  let m := c.mask k.toNat
  maskOf ((shapeElems c).flatMap (fun (r, q) =>
    let e := enables m t r q
    let x := planeAt s core a.toNat r q
    let y := b.at s core r q
    if isPair t then
      (if e.1 && compares t cond (loHalf x) (loHalf y) then [maskIdx r q 0] else []) ++
        (if e.2 && compares t cond (hiHalf x) (hiHalf y) then [maskIdx r q 1] else [])
    else if e.1 && compares t cond x.toNat y.toNat then [maskIdx r q 0, maskIdx r q 1] else []))

def condOf (h : BitVec 1) (c : BitVec 2) : Nat := 4 * h.toNat + c.toNat

def execVcmp (h : BitVec 1) (q : KReg) (a b : PReg) (k : KReg) (c : BitVec 2) (t : BitVec 4) (s : State) : Out :=
  issue s (.vcmp h q a b k c t) (fun s =>
    retire (s.modCx (fun x => x.setMask q.toNat (compareMask s (condOf h c) a (.plane b) k t))) 4)
def execVcmpImm (h : BitVec 1) (q : KReg) (a : PReg) (k : KReg) (c : BitVec 2) (t : BitVec 4) (imm : BitVec 32)
    (s : State) : Out :=
  issue s (.vcmpImm h q a k c t imm) (fun s =>
    retire (s.modCx (fun x => x.setMask q.toNat (compareMask s (condOf h c) a (.imm imm) k t))) 8)

/-- Values written to every element of the shape that a function gives one for, all read before any is written. -/
def fillPlane (s : State) (d : PReg) (f : Nat → Nat → Option Word32) (n : Nat) : State :=
  let c := s.cx
  retire (putElems s c.coreKey
    ((shapeElems c).filterMap (fun (r, q) => (f r q).map (fun v => (planeKey d.toNat r q, v))))) n

/-- An element as a unit writes it: bits 31:25 of M8 are zero (R54). -/
def written32 (t : BitVec 4) (v : Word32) : Word32 := if t = 6#4 then v &&& 0x01FFFFFF#32 else v

/-- `vsel` (R129). In type M8 a poison element is copied as it is, with no flag: DESIGN CHOICE (log 143). -/
def execVsel (d a b : PReg) (k : KReg) (t : BitVec 4) (s : State) : Out :=
  issue s (.vsel d a b k t) (fun s =>
    let core := s.cx.coreKey
    let m := s.cx.mask k.toNat
    fillPlane s d (fun r q =>
      some (written32 t (mergeHalves (planeAt s core b.toNat r q) (planeAt s core a.toNat r q) (enables m t r q)))) 4)

/-- A value into every enabled element or half; M8 takes 25 bits. -/
def broadcast (s : State) (d : PReg) (k : KReg) (t : BitVec 4) (v : Word32) (n : Nat) : State :=
  let core := s.cx.coreKey
  let m := s.cx.mask k.toNat
  let v := written32 t v
  fillPlane s d (fun r q =>
    let e := enables m t r q
    if anyHalf e then some (mergeHalves (planeAt s core d.toNat r q) v e) else none) n

def execVbcast (d : PReg) (a : SReg) (k : KReg) (t : BitVec 4) (s : State) : Out :=
  issue s (.vbcast d a k t) (fun s => broadcast s d k t ((s.rS a).truncate 32) 4)
def execVbcastImm (d : PReg) (k : KReg) (t : BitVec 4) (imm : BitVec 32) (s : State) : Out :=
  issue s (.vbcastImm d k t imm) (fun s => broadcast s d k t imm 8)
def execVidx (d : PReg) (k : KReg) (t : BitVec 4) (s : State) : Out :=
  issue s (.vidx d k t) (fun s =>
    let m := s.cx.mask k.toNat
    let cols := s.cx.cols
    fillPlane s d (fun r q => if maskBit m r q 0 then some (BitVec.ofNat 32 (r * cols + q)) else none) 4)

/-! ## Reductions and scans (R130) -/

/-- The operator of a reduction. -/
def redOp (o : BitVec 3) (t : BitVec 4) (m : Rnd) (a b : Nat) : Nat × FlagSet :=
  match o.toNat with
  | 0 => opAdd t m a b 0
  | 1 => opMin t a b 0
  | 2 => opMax t a b 0
  | 3 => opAnd a b 0
  | 4 => opOr a b 0
  | _ => opXor a b 0

/-- The value of an element that starts a line: a NaN becomes the canonical one (R52). -/
def redStart (t : BitVec 4) (v : Nat) : Nat :=
  match floatOf t with
  | some f => (f.round .rne (f.value v)).1
  | none => v

/-- The identity of an operator. -/
def redIdentity (o : BitVec 3) (t : BitVec 4) : Nat :=
  match o.toNat with
  | 1 => if t = 0#4 then 0x7F800000 else if t = 1#4 then 2 ^ 31 - 1 else 2 ^ 32 - 1
  | 2 => if t = 0#4 then 0xFF800000 else if t = 1#4 then 2 ^ 31 else 0
  | 3 => 2 ^ 32 - 1
  | _ => 0

/-- A line combined from its start: the running values at the enabled positions, the last, and the flags. -/
def combineLine (op : Nat → Nat → Nat × FlagSet) :
    List (Nat × Option Nat) → Option Nat → List (Nat × Nat) × Option Nat × FlagSet
  | [], acc => ([], acc, 0)
  | (_, none) :: l, acc => combineLine op l acc
  | (key, some v) :: l, acc =>
    let (x, f) := match acc with | none => (v, 0) | some a => op a v
    let (out, last, f1) := combineLine op l (some x)
    ((key, x) :: out, last, f ||| f1)

/-- `vred` and `vscan`. -/
def reduce (s : State) (d a : PReg) (x : BitVec 1) (o : BitVec 3) (k : KReg) (r : BitVec 2) (t : BitVec 4) (scan : Bool) :
    State :=
  let c := s.cx
  let core := c.coreKey
  let m := c.mask k.toNat
  let lines := if x = 0 then (List.range c.rows).map (fun i => (List.range c.cols).map (fun j => (i, j)))
               else (List.range c.cols).map (fun j => (List.range c.rows).map (fun i => (i, j)))
  let done : List (List (Nat × Nat) × FlagSet) := lines.map (fun (l : List (Nat × Nat)) =>
    let src : List (Nat × Option Nat) := l.map (fun (i, j) => (planeKey d.toNat i j,
      if maskBit m i j 0 then some (redStart t (planeAt s core a.toNat i j).toNat) else none))
    let (out, last, f) := combineLine (redOp o t (Rnd.ofCode r)) src none
    let key := (src.head?.map (·.1)).getD 0
    (if scan then out else [(key, last.getD (redIdentity o t))], f))
  planeFinish (putElems s core (done.flatMap (fun x => x.1.map (fun (q, v) => (q, BitVec.ofNat 32 v)))))
    (done.foldl (fun f x => f ||| x.2) 0) 4

def execVred (d a : PReg) (x : BitVec 1) (o : BitVec 3) (k : KReg) (r : BitVec 2) (t : BitVec 4) (s : State) : Out :=
  issue s (.vred d a x o k r t) (fun s => reduce s d a x o k r t false)
def execVscan (d a : PReg) (x : BitVec 1) (o : BitVec 3) (k : KReg) (r : BitVec 2) (t : BitVec 4) (s : State) : Out :=
  issue s (.vscan d a x o k r t) (fun s => reduce s d a x o k r t true)

/-! ## Rearrangement (R131) -/

def execVtrans (d a : PReg) (k : KReg) (t : BitVec 4) (s : State) : Out :=
  issue s (.vtrans d a k t) (fun s =>
    let core := s.cx.coreKey
    let m := s.cx.mask k.toNat
    retire (putElems s core ((shapeElems s.cx).filterMap (fun (r, q) =>
      let e := enables m t q r
      if anyHalf e then
        some (planeKey d.toNat q r, mergeHalves (planeAt s core d.toNat q r) (planeAt s core a.toNat r q) e)
      else none))) 4)
def execVperm (d a b : PReg) (k : KReg) (t : BitVec 4) (s : State) : Out :=
  issue s (.vperm d a b k t) (fun s =>
    let core := s.cx.coreKey
    let m := s.cx.mask k.toNat
    let cols := s.cx.cols
    fillPlane s d (fun r q =>
      let e := enables m t r q
      let j := (planeAt s core b.toNat r q).toNat % 64
      if anyHalf e then
        some (mergeHalves (planeAt s core d.toNat r q) (if cols ≤ j then 0 else planeAt s core a.toNat r j) e)
      else none) 4)

/-! ## Conversion (R132) -/

/-- A conversion between two formats, by bits. -/
def cvtBits (m : Rnd) (dst src bits_ : Nat) : Nat × FlagSet := convert m dst (fmtValue src bits_)

/-- A conversion of elements or halves in place. -/
def opCvt (m : Rnd) (dst src : Nat) : ElemOp := fun a _ _ => cvtBits m dst src a

/-- `vcvt.to` F64: element c goes to columns 2c and 2c + 1. -/
def cvtToF64 (s : State) (d a : PReg) (k : KReg) (m : Rnd) (t : BitVec 4) : State :=
  let c := s.cx
  let core := c.coreKey
  let out := ((shapeElems c).filter (fun (r, q) => maskBit (c.mask k.toNat) r q 0)).map (fun (r, q) =>
    (r, q, cvtBits m 0 (typeFmt t) (planeAt s core a.toNat r q).toNat))
  planeFinish (putElems s core (out.flatMap (fun (r, q, v, _) =>
    [(planeKey d.toNat r (2 * q), BitVec.ofNat 32 v), (planeKey d.toNat r (2 * q + 1), BitVec.ofNat 32 (v / 2 ^ 32))])))
    (out.foldl (fun f x => f ||| x.2.2.2) 0) 4

/-- `vcvt.from` F64. -/
def cvtFromF64 (s : State) (d a : PReg) (k : KReg) (m : Rnd) (t : BitVec 4) : State :=
  let c := s.cx
  let core := c.coreKey
  let out := ((shapeElems c).filter (fun (r, q) => maskBit (c.mask k.toNat) r q 0)).map (fun (r, q) =>
    (planeKey d.toNat r q, cvtBits m (typeFmt t) 0 ((planeAt s core a.toNat r (2 * q)).toNat
      + 2 ^ 32 * (planeAt s core a.toNat r (2 * q + 1)).toNat)))
  planeFinish (putElems s core (out.map (fun (q, v, _) => (q, BitVec.ofNat 32 v))))
    (out.foldl (fun f x => f ||| x.2.2) 0) 4

def execVcvtTo (d a : PReg) (f : BitVec 4) (k : KReg) (r : BitVec 2) (t : BitVec 4) (g : BitVec 1) (s : State) : Out :=
  let fmt := (g ++ f : BitVec 5).toNat
  let m := Rnd.ofCode r
  issue s (.vcvtTo d a f k r t g) (fun s =>
    if fmt = 0 then cvtToF64 s d a k m t
    else elementwise s d a (.imm 0) k t (opCvt m fmt (typeFmt t)) 4)
def execVcvtFrom (d a : PReg) (f : BitVec 4) (k : KReg) (r : BitVec 2) (t : BitVec 4) (g : BitVec 1) (s : State) : Out :=
  let fmt := (g ++ f : BitVec 5).toNat
  let m := Rnd.ofCode r
  issue s (.vcvtFrom d a f k r t g) (fun s =>
    if fmt = 0 then cvtFromF64 s d a k m t
    else elementwise s d a (.imm 0) k t (opCvt m (typeFmt t) fmt) 4)

/-! ## Masks and shape (R119, R133) -/

/-- SHAPEG (R119). -/
def shapeWord (c : Ctx) : Word := putAt c.planes.toNat 32 ||| putAt c.rows 16 ||| putAt c.cols 0
/-- MIN(MAX(v, 1), n), unsigned. -/
def clampShape (v : Word) (n : Nat) : Nat := min (max v.toNat 1) n

def execShape (d a b : SReg) (s : State) : Out :=
  issue s (.shape d a b) (fun s =>
    let c := s.cx
    let c1 := { c with rows := clampShape (c.readS a) 32, cols := clampShape (c.readS b) 64,
                       planes := if c.kind = CtxKind.control then 0xFFFF else c.planes }
    retire (s.modCx (fun _ => c1.writeS d (shapeWord c1))) 4)
def execShapeq (d : SReg) (s : State) : Out := setS s (.shapeq d) d (shapeWord s.cx) 4

/-- A mask instruction. -/
def setK (s : State) (i : Instr) (d : KReg) (m : BitVec 4096) : Out :=
  issue s i (fun s => retire (s.modCx (fun c => c.setMask d.toNat m)) 4)
def State.rK (s : State) (k : KReg) : BitVec 4096 := s.cx.mask k.toNat

def execKand (d a b : KReg) (s : State) : Out := setK s (.kand d a b) d (s.rK a &&& s.rK b)
def execKor (d a b : KReg) (s : State) : Out := setK s (.kor d a b) d (s.rK a ||| s.rK b)
def execKxor (d a b : KReg) (s : State) : Out := setK s (.kxor d a b) d (s.rK a ^^^ s.rK b)
def execKnot (d a : KReg) (s : State) : Out := setK s (.knot d a) d (~~~(s.rK a))

/-- The first enabled element of each run of a row. -/
def edgeMask (c : Ctx) (m : BitVec 4096) : BitVec 4096 :=
  maskOf ((shapeElems c).flatMap (fun (r, q) => (List.range 2).filterMap (fun h =>
    if maskBit m r q h && !(1 ≤ q && maskBit m r (q - 1) h) then some (maskIdx r q h) else none)))
/-- The counts of set bits in the shape. -/
def maskCounts (c : Ctx) (m : BitVec 4096) : Word :=
  let n (h : Nat) : Nat := ((shapeElems c).filter (fun (r, q) => maskBit m r q h)).length
  putAt (n 1) 32 ||| putAt (n 0) 0

def execKedge (d a : KReg) (s : State) : Out := setK s (.kedge d a) d (edgeMask s.cx (s.rK a))
def execKpop (d : SReg) (a : KReg) (s : State) : Out := setS s (.kpop d a) d (maskCounts s.cx (s.rK a)) 4

/-! ## Plane memory: elements (R134, R135) -/

/-- An element to be moved: row, column, address, enabled halves. -/
abbrev MemElem := Nat × Nat × Word × (Bool × Bool)

/-- The elements that an addressing gives, in row-major order; only enabled ones are addressed. -/
def memElems (c : Ctx) (k : KReg) (t : BitVec 4) (addr : Nat → Nat → Word) : List MemElem :=
  (shapeElems c).filterMap (fun (r, q) =>
    let e := enables (c.mask k.toNat) t r q
    if anyHalf e then some (r, q, addr r q, e) else none)

/-- A strided address: s0 as the stride packs the rows. -/
def strideVa (c : Ctx) (b st : SReg) (r q : Nat) : Word :=
  let stride : Word := if st = 0 then BitVec.ofNat 64 (4 * c.cols) else c.readS st
  c.readS b + BitVec.ofNat 64 r * stride + BitVec.ofNat 64 (4 * q)
/-- An indexed address. -/
def indexVa (s : State) (b : SReg) (i : PReg) (r q : Nat) : Word :=
  s.cx.readS b + (planeAt s s.cx.coreKey i.toNat r q).signExtend 64

/-- The first element that fails CHECKVA. -/
def elemCause (l : List MemElem) : Option (Cause × Word) := l.findSome? (fun e => (checkVa e.2.2.1 4).map (fun k => (k, e.2.2.1)))

/-- The key under which a request of a plane element carries its place and halves. -/
def elemTag (e : MemElem) : Nat :=
  (if e.2.2.2.1 then 4096 else 0) + (if e.2.2.2.2 then 8192 else 0) + e.1 * 64 + e.2.1
/-- An element that a request brings, written to its plane. -/
def putTagged (s : State) (core p tag : Nat) (v : Word32) : State :=
  let key := p * 2048 + tag % 2048
  putElem s core key
    (mergeHalves (Tbl.get 0 (s.core core).planes key) v (tag / 4096 % 2 = 1, tag / 8192 % 2 = 1))

/-- Elements in the core's own unit memory, read at issue; those of uncorrectable granules give 0, and the first of them is
consumed (R336). -/
def loadOwnElems (s : State) (p : PReg) (l : List MemElem) : State :=
  let core := s.cx.coreKey
  let (bad, s1) := l.foldl (fun (acc : Option Word × State) e =>
    let (ue, st) := readEcc acc.2 (ownKey s s.cx e.2.2.1) 4 (some e.2.2.1) (some s.cx)
    let v : Word32 := if ue then 0 else BitVec.ofNat 32 (s.readMem (ownKey s s.cx e.2.2.1) 4)
    (if ue then acc.1 <|> some e.2.2.1 else acc.1, putTagged st core p.toNat (elemTag e) v)) (none, s)
  match bad with
  | none => s1
  | some va => consume s1 s.cur va s.cx.pc

/-- A plane load (R137). -/
def planeLoad (s : State) (i : Instr) (p : PReg) (l : List MemElem) : State :=
  let c := s.cx
  match elemCause l with
  | some (k, va) => raiseHere s k va (tinfo1 i 4 false)
  | none =>
    let own := l.filter (fun e => ownUM s c e.2.2.1)
    let far := l.filter (fun e => !ownUM s c e.2.2.1)
    if far.isEmpty then retire (loadOwnElems s p own) 4
    else if 63 ≤ c.loads then s
    else
      let (op, s1) := newOp s (.plane p.toNat) far.length 0x042#9 false
      let s2 := far.foldl (fun st e =>
        sendReq st .load op (elemTag e) false e.2.2.1 4 (forwarded s c.coreKey e.2.2.1 4)) s1
      retire (loadOwnElems s2 p own) 4

def execVld (p : PReg) (b st : SReg) (k : KReg) (t : BitVec 4) (s : State) : Out :=
  let i := Instr.vld p b st k t
  issue s i (fun s => planeLoad s i p (memElems s.cx k t (strideVa s.cx b st)))
def execVldi (p : PReg) (b : SReg) (x : PReg) (k : KReg) (t : BitVec 4) (s : State) : Out :=
  let i := Instr.vldi p b x k t
  issue s i (fun s => planeLoad s i p (memElems s.cx k t (indexVa s b x)))

/-- The bytes of an element's enabled halves, with their address. -/
def elemBytes (v : Word32) (e : MemElem) : Word × List Byte :=
  if e.2.2.2.1 && e.2.2.2.2 then (e.2.2.1, leBytes v.toNat 4)
  else if e.2.2.2.1 then (e.2.2.1, leBytes (loHalf v) 2)
  else (e.2.2.1 + 2, leBytes (hiHalf v) 2)

/-- Elements posted one after another, each with its address and its bytes with theirs: the address of the first that needed a
new entry, and the state unless the journal lacks one (R134, R138, R147). -/
def postElems (s : State) (k : Nat) (pc : BitVec 48) (instr : Nat) :
    List (Word × Word × List Byte) → Option Word → Option Word × Option State
  | [], first => (first, some s)
  | (elem, va, bs) :: l, first =>
    match postOne s k pc instr elem va bs with
    | none => (first <|> some elem, none)
    | some s1 =>
      let grew := (s.core (k / 16)).journal.length < (s1.core (k / 16)).journal.length
      postElems s1 k pc instr l (if grew then first <|> some elem else first)

/-- A plane store (R138). -/
def planeStore (s : State) (i : Instr) (p : PReg) (l : List MemElem) : State :=
  let c := s.cx
  let core := c.coreKey
  match elemCause l with
  | some (k, va) => raiseHere s k va (tinfo1 i 4 true)
  | none =>
    let src := l.map (fun e => (e.2.2.1, elemBytes (planeAt s core p.toNat e.1 e.2.1) e))
    beforeWrite s (src.flatMap (fun e => accessFoot s e.2.1 e.2.2.length)) (fun s =>
      let far := src.filter (fun e => !ownUM s c e.1)
      match postElems s s.cur c.pc s.nextId far none with
      | (first, none) => journalFull s i (first.getD 0) 4
      | (_, some s1) =>
        let s2 := (src.filter (fun e => ownUM s c e.1)).foldl (fun st e => storeOwn st e.2.1 e.2.2) s1
        retire { s2 with nextId := s2.nextId + 1 } 4)

def execVst (p : PReg) (b st : SReg) (k : KReg) (t : BitVec 4) (s : State) : Out :=
  let i := Instr.vst p b st k t
  issue s i (fun s => planeStore s i p (memElems s.cx k t (strideVa s.cx b st)))
def execVsti (p : PReg) (b : SReg) (x : PReg) (k : KReg) (t : BitVec 4) (s : State) : Out :=
  let i := Instr.vsti p b x k t
  issue s i (fun s => planeStore s i p (memElems s.cx k t (indexVa s b x)))

/-! ## Bit-granular elements (R140) -/

/-- The place of packed element n of w bits: address, first bit within the byte, bytes touched. -/
def packedAt (ba : Word) (w n : Nat) : Word × Nat × Nat :=
  let b := baBit ba + n * w
  (baVa ba + BitVec.ofNat 64 (b / 8), b % 8, (b % 8 + w + 7) / 8)

/-- The enabled elements with their places. -/
def packedElems (c : Ctx) (k : KReg) (t : BitVec 4) (w : Nat) : List (MemElem × Nat × Nat) :=
  (memElems c k t (fun r q => (packedAt c.ba w (r * c.cols + q)).1)).map (fun e =>
    let p := packedAt c.ba w (e.1 * c.cols + e.2.1)
    (e, p.2.1, p.2.2))

/-- w bits as an element: sign-extended for I32. -/
def bitElem (t : BitVec 4) (w v : Nat) : Word32 :=
  if t = 1#4 && 2 ^ (w - 1) ≤ v then BitVec.ofNat 32 (2 ^ 32 - 2 ^ w + v) else BitVec.ofNat 32 v

def execVldb (p : PReg) (w : BitVec 5) (k : KReg) (t : BitVec 4) (s : State) : Out :=
  let i := Instr.vldb p w k t
  let n := w.toNat + 1
  issue s i (fun s =>
    let c := s.cx
    let span := c.rows * c.cols * n
    match bitCause s c span false with
    | some x => raiseHere s x (bitTaddr c x) (tinfo1 i n false)
    | none =>
      let adv (st : State) : State := st.modCx (fun x => { x with ba := baAdvance c.ba span })
      let l := packedElems c k t n
      if ownUM s c (baVa c.ba) then
        let (bad, s1) := l.foldl (fun (acc : Option Word × State) (e, sh, len) =>
          let loc := ownKey s c e.2.2.1
          let (ue, st) := readEcc acc.2 loc len (some e.2.2.1) (some c)
          let v := if ue then 0 else bitElem t n (bitsFrom s loc sh n)
          (if ue then acc.1 <|> some e.2.2.1 else acc.1, putTagged st c.coreKey p.toNat (elemTag e) v)) (none, s)
        let s2 := match bad with | none => s1 | some va => consume s1 s.cur va c.pc
        retire (adv s2) 4
      else if l.isEmpty then retire (adv s) 4
      else if 63 ≤ c.loads then s
      else
        let (op, s1) := newOp s (.plane p.toNat) l.length 0x042#9 false
        retire (adv (l.foldl (fun st (e, sh, len) =>
          sendReq st (.bits sh n) op (elemTag e) (t = 1#4) e.2.2.1 len (forwarded s c.coreKey e.2.2.1 len)) s1)) 4)

def execVstb (p : PReg) (w : BitVec 5) (k : KReg) (t : BitVec 4) (s : State) : Out :=
  let i := Instr.vstb p w k t
  let n := w.toNat + 1
  issue s i (fun s =>
    let c := s.cx
    let span := c.rows * c.cols * n
    match bitCause s c span true with
    | some x => raiseHere s x (bitTaddr c x) (tinfo1 i n true)
    | none =>
      let l := packedElems c k t n
      beforeWrite s (l.flatMap (fun (e, _, len) => accessFoot s e.2.2.1 len)) (fun s =>
        let s1 := l.foldl (fun st (e, sh, _) =>
          storeOwn st e.2.2.1 (mergeBits st (8 * ownKey st c e.2.2.1 + sh) n (planeAt s c.coreKey p.toNat e.1 e.2.1).toNat)) s
        retire (s1.modCx (fun x => { x with ba := baAdvance c.ba span })) 4))

/-! ## Vector atomics (R142) -/

/-- The old value and the new one of an atomic of n bytes: operators 0 to 6 of R35; the flags of an F32 add. -/
def atomicValue (o n : Nat) (float : Bool) (old operand : Nat) : Nat × FlagSet :=
  let t : BitVec 4 := if float then 0#4 else 1#4
  let w := 8 * n
  let sg (x : Nat) : Int := signedOf w (x % 2 ^ w)
  match o with
  | 0 => if float then opAdd t .rne old operand 0 else ((old + operand) % 2 ^ w, 0)
  | 1 => if float then opMin t old operand 0 else (if sg operand < sg old then operand else old, 0)
  | 2 => if float then opMax t old operand 0 else (if sg old < sg operand then operand else old, 0)
  | 3 => (old &&& operand, 0)
  | 4 => (old ||| operand, 0)
  | 5 => (old ^^^ operand, 0)
  | _ => (operand % 2 ^ w, 0)

/-- An N32 element compares unsigned: operators 8 + o of a request. -/
def atomicValueN (o old operand : Nat) : Nat × FlagSet :=
  match o with
  | 1 => (min old operand, 0)
  | 2 => (max old operand, 0)
  | _ => atomicValue o 4 false old operand

/-- The operator number that a request carries: N32 adds 8. -/
def atomicCode (o : BitVec 3) (t : BitVec 4) : Nat := if t = 2#4 then 8 + o.toNat else o.toNat
def atomicByCode (o n : Nat) (float : Bool) (old operand : Nat) : Nat × FlagSet :=
  if 8 ≤ o then atomicValueN (o - 8) old operand else atomicValue o n float old operand

/-- Elements in own unit memory, performed at issue in order: the old values go to the plane for a `vamo`, with the flags of
its F32 additions. -/
def atomicOwn (s : State) (p : PReg) (o : Nat) (float ret : Bool) (l : List (MemElem × Word32)) : State × FlagSet :=
  let c := s.cx
  l.foldl (fun (acc : State × FlagSet) (e, v) =>
    let (st, raised) := acc
    let loc := ownKey st c e.2.2.1
    let (ue, st1) := readEcc st loc 4 (some e.2.2.1) (some c)
    if ue then
      (consume (if ret then putTagged st1 c.coreKey p.toNat (elemTag e) 0 else st1) s.cur e.2.2.1 c.pc, raised)
    else
      let old := st1.readMem loc 4
      let (new, fl) := atomicByCode o 4 float old v.toNat
      let st2 := storeOwn st1 e.2.2.1 (leBytes new 4)
      if ret then (putTagged st2 c.coreKey p.toNat (elemTag e) (BitVec.ofNat 32 old), raised ||| fl) else (st2, raised)) (s, 0)

/-- A vector atomic (R142): the flags of elements performed at issue trap as those of any plane instruction (R61); those of the
others when the last has returned. DEDUCED (log 109). -/
def vectorAtomic (s : State) (i : Instr) (p : PReg) (b : SReg) (x : PReg) (t : BitVec 4) (o : BitVec 3) (ret : Bool) : State :=
  let c := s.cx
  let l := (memElems c 0 t (indexVa s b x)).map (fun e => (e, planeAt s c.coreKey p.toNat e.1 e.2.1))
  let float := t = 0#4
  match elemCause (l.map (·.1)) with
  | some (k, va) => raiseHere s k va (tinfo1 i 4 false)
  | none =>
    if 63 ≤ c.loads then s
    else
    beforeWrite s (l.flatMap (fun e => accessFoot s e.1.2.2.1 4)) (fun s =>
      let far := l.filter (fun e => !ownUM s c e.1.2.2.1)
      let own := l.filter (fun e => ownUM s c e.1.2.2.1)
      let finish (st : State) : State := let (st1, fl) := atomicOwn st p (atomicCode o t) float ret own; planeFinish st1 fl 4
      if far.isEmpty then finish s
      else
        let (op, s1) := newOp s (if ret then .plane p.toNat else .none) far.length 0x043#9 false
        let s2 := far.foldl (fun st e =>
          sendReq st (.atomic (atomicCode o t) (e.2.zeroExtend 64) 0 float) op (elemTag e.1) false e.1.2.2.1 4 []) s1
        finish s2)

def execVamo (p : PReg) (b : SReg) (x : PReg) (t : BitVec 4) (o : BitVec 3) (s : State) : Out :=
  let i := Instr.vamo p b x t o
  issue s i (fun s => vectorAtomic s i p b x t o true)
def execVrst (p : PReg) (b : SReg) (x : PReg) (t : BitVec 4) (o : BitVec 3) (s : State) : Out :=
  let i := Instr.vrst p b x t o
  issue s i (fun s => vectorAtomic s i p b x t o false)

end Sys2Proof.Machine
end

