-- ==== Sys2Proof/Machine/Remote.lean ====
section
/-!
DEFINITION. Requests at their owners (spec 11; 08 R236 to R238; 07 R189 to R192; 21 R404, R405): routing, translation, parks,
page requests, leases, merges, drains, the return of loads; scalar atomics and SC operations; the registers of R261.
-/
namespace Sys2Proof.Machine

/-! ## Who asks and what for -/

def Req.coreKey (r : Req) : Nat := r.ctx / 16
def Req.clusterKey (r : Req) : Nat := r.die * 48 + r.cluster
def Req.isAtomic (r : Req) : Bool := match r.kind with | .atomic .. => true | _ => false
/-- A write that a merge holds: SC operations keep to the clk of their window (R238, R271). -/
def Req.writes (r : Req) : Bool :=
  match r.kind with
  | .atomic .. | .drain _ | .store _ | .engWrite .. | .fill _ => true
  | _ => false
/-- The permissions it needs (R254). -/
def Req.need (r : Req) : BitVec 3 :=
  match r.kind with
  | .load | .bits .. | .engRead .. => permR
  | .fetch => permX
  | .atomic .. => permRW
  | .drain _ | .store _ | .engWrite .. => permW
  | _ => permRW
/-- The cause that its refusal has (R164, R95). -/
def Req.cause (s : State) (r : Req) : Cause :=
  match r.kind with
  | .drain _ | .engWrite .. => 0x041#9
  | .engRead .. => 0x042#9
  | .fetch => 0x02A#9
  | .fill _ => 0#9
  | _ => ((s.op r.op).map (·.cause)).getD 0x042#9
/-- The PC of its instruction. -/
def Req.pc (s : State) (r : Req) : BitVec 48 :=
  match r.kind with
  | .drain e => (((s.core r.coreKey).journal.find? (fun x => x.id = e)).map (·.pc)).getD 0
  | .fetch => (s.ctx r.ctx).pc
  | _ => ((s.op r.op).map (·.pc)).getD (s.ctx r.ctx).pc

/-! ## Twin runs (R343) -/

/-- The twin run that a core belongs to, with its slice. -/
def twinOn (s : State) (core : Nat) : Option (Slice × TwinRun) :=
  (sliceOn s core).bind (fun x => (x.runs.find? (fun t => t.cores.contains core && !t.finished)).map (fun t => (x, t)))

/-- One step of CRC-64 (ECMA-182, reflected). -/
def crcBits (c : Nat) : Nat → Nat
  | 0 => c
  | n + 1 => crcBits (if c % 2 = 1 then (c / 2) ^^^ 0xC96C5795D7870F42 else c / 2) n
def crc64 (l : List Byte) : Nat := (l.foldl (fun c b => crcBits (c ^^^ b.toNat) 8) (2 ^ 64 - 1)) ^^^ (2 ^ 64 - 1)

/-- The log area of a core of a run, and its records so far. -/
def twinArea (t : TwinRun) (core : Nat) : Nat := t.g * t.cores.length + rankIn t.cores core
def twinCount (t : TwinRun) (core : Nat) : Nat := ((t.counts.find? (fun p => p.1 = twinArea t core)).map (·.2)).getD 0
/-- The address of its next record. -/
def twinNext (m : SnapMap) (t : TwinRun) (core : Nat) : Word :=
  m.logBase + BitVec.ofNat 64 (twinArea t core * m.logSize + 0x2000 + 128 * twinCount t core)

/-- A run changes. -/
def modRun (s : State) (x : Slice) (t : TwinRun) (f : TwinRun → TwinRun) : State :=
  s.modSlice x.id (fun y => { y with runs := y.runs.map (fun q => if q.g = t.g then f q else q) })

/-- The record of a write outside the clusters of a twin run, and the bytes that its CRC covers. -/
def twinData (mask : BitVec 64) (bs : List Byte) : List Byte :=
  (List.range 64).map (fun i => if mask.getLsbD i then (bs[i]?).getD 0 else 0)

/-- A write outside the clusters of a twin run, appended to the log area of the core: a full area marks the run OVERFLOW, a page that
is not mapped makes the write wait (true). An area that refuses the record is taken as full: DESIGN CHOICE (log 134). -/
def twinAppend (s : State) (core : Nat) (x : Slice) (t : TwinRun) (va : Word) (mask : BitVec 64) (bs : List Byte) : State × Bool :=
  match (s.job x.job).bind (·.snap) with
  | none => (s, true)
  | some m =>
    let n := twinCount t core
    let world := (s.core core).world
    let data := twinData mask bs
    if m.logSize < 0x2000 + 128 * (n + 1) then (modRun s x t (fun q => { q with overflow := true }), true)
    else
      match unitWaits s world (core / 192) permW (twinNext m t core) 128 with
      | some s1 => (s1, false)
      | none =>
        match vaWrite s world (core / 192) (twinNext m t core)
            (data ++ leBytes va.toNat 8 ++ leBytes mask.toNat 8 ++ List.replicate 48 0) with
        | none => (modRun s x t (fun q => { q with overflow := true }), true)
        | some s1 =>
          (modRun s1 x t (fun q =>
            { q with counts := (twinArea t core, n + 1) :: q.counts.filter (fun p => p.1 ≠ twinArea t core),
                     sum := q.sum + BitVec.ofNat 64 (crc64 (leBytes va.toNat 8 ++ leBytes mask.toNat 8 ++ data)) }), true)

/-- Does the location of a scratchpad lie in the clusters of a run? -/
def insideRun (t : TwinRun) (loc : Nat) : Bool :=
  match clusterOfLoc loc with
  | some k => t.cores.any (fun c => c / 4 = k)
  | none => false

/-- Where a request is, and whether it has its answer. -/
def Req.atOwner (r : Req) : Bool := r.st = .sent || r.st = .input
def Req.open_ (r : Req) : Bool := match r.st with | .replied .. => false | _ => true
def Req.hasWalker (r : Req) : Bool := match r.st with | .walking _ | .walked => true | _ => false

/-- The class of a request on a link: atomics and fills, reads, writes (R308). DEDUCED (log 114). -/
def Req.linkClass (r : Req) : Nat :=
  match r.kind with
  | .atomic .. | .fill _ | .sc .. => 0
  | .load | .bits .. | .fetch | .xlat | .engRead .. => 1
  | .drain _ | .store _ | .engWrite .. => 2

/-- Every byte of a load comes from the journal: it is served there (R92, R404). -/
def allForwarded (r : Req) : Bool := (match r.kind with | .load | .bits .. => true | _ => false) && r.fwd.length = r.size

/-- The die to which a request crosses a die-to-die link: its owner's, or die 0 with the CXL port for host memory (R264, R308). -/
def Req.crossesTo (s : State) (r : Req) : Option Nat :=
  if vaDie r.va = 0x7FFF then (if r.die = 0 then none else some 0)
  else
    match r.route with
    | some (p, d) => if p = s.pkg && d ≠ r.die then some d else none
    | none => none

/-- A request for host memory has no keyed stream to travel in (R351). DESIGN CHOICE (log 138). -/
def streamBehind (s : State) (r : Req) : Bool :=
  vaDie r.va = 0x7FFF && r.st = .sent && (s.world r.world).bound && !(s.world r.world).streamUp

/-- A request has not come out of the die-to-die link that it crosses: the link is down, or a request of its class went over it
before (R308, R325). One for the host waits for its stream too. -/
def linkBehind (s : State) (r : Req) : Bool :=
  streamBehind s r ||
  match r.crossesTo s with
  | some d =>
    r.arrived.isNone && r.st = .sent &&
      (!d2dUp s r.die d ||
        s.reqs.any (fun q => q.id < r.id && q.die = r.die && q.crossesTo s = some d && q.st = .sent && q.arrived.isNone &&
          q.linkClass = r.linkClass && !allForwarded q && (match q.kind with | .sc .. => false | _ => true)))
  | none => false

/-! ## What meets a request at its owner (R249 to R255, R266, R318, R319) -/

inductive Fate where
  /-- It can be performed at a location. -/
  | perform (loc : Nat)
  /-- Host memory (with its location) or another package answers. -/
  | outside (host : Option Nat)
  /-- A miss of the TLB of a die. -/
  | walk (die : Nat)
  /-- Refused, and logged in an array of a die. -/
  | refuse (die cls idx : Nat)
  /-- A scheduler holds it (R319). -/
  | heldBy (sched : Nat)
  /-- A cluster holds the line (R266). -/
  | leased (ck line : Nat)
  /-- A merge holds the granule (R238). -/
  | locked (gran : Nat)
  /-- Requests that arrived earlier are held for the granule: by the recall of a lease, or else by a merge (R238, R266). -/
  | behind (gran : Nat) (lease : Bool)
  /-- It waits at the input of the translation unit (R257). -/
  | input
  deriving DecidableEq, Repr

/-- A granule that another request's merge locks. -/
def mergeLocked (s : State) (r : Req) (loc : Nat) : Bool :=
  r.writes && s.merges.any (fun m => m.1 = loc / 64 * 64 && m.2 ≠ r.id)

/-- A request held for a granule that arrived before this one: a merge holds only writes (R238, R266). -/
def heldBefore (s : State) (r : Req) (loc : Nat) : Option Bool :=
  (s.reqs.find? (fun q => q.id ≠ r.id && q.open_ &&
    (match q.heldAt with
     | some (g, lease) => g = loc / 64 * 64 && (lease || r.writes)
     | none => false) &&
    (match r.heldAt, r.arrived with
     | some (g, _), some t => if g = loc / 64 * 64 then q.arrived.getD 0 < t else true
     | _, _ => true))).bind (fun q => q.heldAt.map (·.2))

/-- At a granule that is not leased. -/
def atGranule (s : State) (r : Req) (loc : Nat) : Fate :=
  match heldBefore s r loc with
  | some lease => .behind (loc / 64 * 64) lease
  | none => if mergeLocked s r loc then .locked (loc / 64 * 64) else .perform loc

/-- A translated request at the memory of its die. -/
def afterPa (s : State) (r : Req) (die pa : Nat) : Fate :=
  if 0x8000000000 ≤ pa then .refuse die 10 0
  else
    let k := schedKey pa
    let sc := s.sched k
    if sc.state = 5 then .refuse die 4 (arrayOfLoc pa).2
    else
      match leaseHolder s die (pa / 64) with
      | some (ck, l) => if r.isAtomic && r.clusterKey = ck && !l.recalled then .perform pa else .leased ck (pa / 64)
      | none =>
        match atGranule s r pa with
        | .perform loc => if sc.state ≠ 0 || (sc.held ≠ [] && sc.held.head? ≠ some r.id) then .heldBy k else .perform loc
        | f => f

/-- A request whose world is not bound is refused by the unit that receives it (R350). -/
def boundWorld (s : State) (r : Req) : Bool := (s.world r.world).bound

/-- The array that a scratchpad address names, for its log. -/
def scratchArray (va : Word) : Nat × Nat :=
  match vaLevel va with
  | 0 => (1, vaCluster va * 8 + vaCore va)
  | 1 => (2, vaCluster va)
  | _ => (3, 0)

/-- The world key of a cluster that the request enters from outside (R237). -/
def keyRefuses (s : State) (r : Req) (pa : Nat) : Bool :=
  match clusterOfLoc pa with
  | some ck => ck ≠ r.clusterKey && (s.cluster ck).keyWorld ≠ some r.world
  | none => false

/-- Requests of the world wait at the input of the die's translation unit, and arrived before this one (R257). -/
def inputAhead (s : State) (r : Req) : Bool :=
  s.reqs.any (fun q => q.st = .input && q.id ≠ r.id && q.world = r.world && q.route = r.route &&
    (match r.arrived with | some t => q.arrived.getD 0 < t | none => true))

/-- The translation that a request has: its own, which it keeps while it is held (R263), or the TLB's. -/
def translated (s : State) (r : Req) : Option Nat :=
  match placeVia s r.route r.world r.va with
  | .paged d => r.pa.or ((tlbFind s d r.world (bits r.va 47 0)).map (fun t => t.map (bits r.va 47 0)))
  | _ => none

/-- THE FATE of a request that reaches its owner; one that was held keeps its translation (R263). DEDUCED (log 33). -/
def fateAt (s : State) (r : Req) : Fate :=
  match placeVia s r.route r.world r.va with
  | .noDie => .refuse r.die 14 0
  | .away => if boundWorld s r && (Tbl.get none (s.world r.world).keys 1).isSome then .outside none else .refuse r.die 14 0
  | .host off => if boundWorld s r then .outside (some (hostKey off)) else .refuse 0 14 0
  | .notOurs d => .refuse d (scratchArray r.va).1 (scratchArray r.va).2
  | .phys pa =>
    if !boundWorld s r || keyRefuses s r pa then .refuse (dieOfLoc pa) (arrayOfLoc pa).1 (arrayOfLoc pa).2
    else atGranule s r pa
  | .paged d =>
    if !boundWorld s r then .refuse d 10 0
    else
    match r.pa with
    | some pa => afterPa s r d pa
    | none =>
    if inputAhead s r then .input
    else
      match tlbFind s d r.world (bits r.va 47 0) with
      | some t => if permits t.perm r.need then afterPa s r d (t.map (bits r.va 47 0)) else .refuse d 10 0
      | none => .walk d

/-! ## Replies -/

/-- The unit of engine 0 or 1, or of the copy engine, of a cluster. -/
def engineUnit (ck eng : Nat) : Nat := ck / 48 * 1024 + (if eng = 2 then 336 + ck % 48 else 240 + 2 * (ck % 48) + eng)

/-- The unit that sent a request: an engine for a pool entry, or the context's core. -/
def Req.unit (s : State) (r : Req) : Nat :=
  let eng (ck q : Nat) : Nat := engineUnit ck ((((s.cluster ck).pool.find? (fun e => e.seq = q)).bind (·.engine)).getD 2)
  match r.kind with
  | .engRead ck q => eng ck q
  | .engWrite ck q _ => eng ck q
  | _ => ctxUnit s (s.ctx r.ctx)

/-- The answer to a request is sent (R332). -/
def replyReq (s : State) (r : Req) (v : Nat) (fl : FlagSet) (refused : Bool) : State :=
  (s.noteAnswer r.id (r.unit s) r.route).modReq r.id (fun x => { x with st := .replied v fl refused })

def modEntry (s : State) (core id : Nat) (f : JEntry → JEntry) : State :=
  s.modCore core (fun c => { c with journal := c.journal.map (fun e => if e.id = id then f e else e) })
def State.entry (s : State) (core id : Nat) : Option JEntry := (s.core core).journal.find? (fun e => e.id = id)

/-- The requests of an instruction that are parked. -/
def parkedOf (s : State) (op : Nat) : List Req := s.reqs.filter (fun r => r.op = op && r.st = .parked)

/-- The notice of R258, once every request of an instruction or entry that parked, and for which 0x061 was raised, has been
performed or refused. -/
def noticeDone (s : State) (r : Req) : State :=
  match r.kind with
  | .drain e =>
    match s.entry r.coreKey e with
    | some x =>
      if x.noticed && x.parkedAt.isSome then
        postNotice (modEntry s r.coreKey e (fun y => { y with parkedAt := none })) (entryCtx r.coreKey x) x.pc
      else s
    | none => s
  | _ =>
    match s.op r.op with
    | some o =>
      if o.noticed && o.parkedAt.isSome && !s.reqs.any (fun q => q.op = r.op && q.hasParked && q.open_) then
        postNotice (s.modOp r.op (fun y => { y with parkedAt := none })) o.ctx o.pc
      else s
    | none => s

/-- A drained entry has its answer: the acknowledgement is on its way (R148). -/
def entryAnswered (s : State) (r : Req) (e : Nat) (refused : Bool) : State :=
  modEntry (({ s with merges := s.merges.filter (fun m => m.2 ≠ r.id) }.dropReq r.id).noteAnswer r.id (r.unit s) r.route) r.coreKey e
    (fun x => { x with st := if refused then .refused else .performed })

/-- The addresses that a refused request is logged under: each store element of a journal entry (R136). -/
def Req.refusedVas (s : State) (r : Req) : List Word :=
  match r.kind with
  | .drain e =>
    match s.entry r.coreKey e with
    | some x => x.elems
    | none => [r.va]
  | _ => [r.va]

/-- A request waits in no scheduler's holding queue any more. -/
def unqueueHeld (s : State) (id : Nat) : State :=
  (s.scheds.filter (fun p => p.2.held.contains id)).foldl (fun st p =>
    st.modSched p.1 (fun x => { x with held := x.held.filter (· ≠ id) })) s

/-- The other requests of a pool entry that are without an answer go: a refused entry performs nothing more (R235). -/
def withdrawEntry (s : State) (r : Req) (cluster seq : Nat) : State :=
  withdraw s (fun q => q.id ≠ r.id && q.open_ && (match q.kind with
    | .engRead c n => c = cluster && n = seq
    | .engWrite c n _ => c = cluster && n = seq
    | _ => false))

/-- A refusal: logged at a unit, each refused element by itself, and answered (R136, R254, R164); whether an injected error
caused it (R346). -/
def refuseInj (s : State) (r : Req) (die cls idx : Nat) (inj : Bool) : State :=
  let s1 := (r.refusedVas s).foldl (fun st va =>
    st.logRecInj die cls idx va 5 inj (r.cause s).toNat (some (s.ctx r.ctx))) s
  let s2 := match r.kind with
    | .drain e => entryAnswered s1 r e true
    | .fill _ => replyReq s1 r 2 0 false
    | .engRead c q => replyReq (withdrawEntry s1 r c q) r (r.cause s).toNat 0 true
    | .engWrite c q _ => replyReq (withdrawEntry s1 r c q) r (r.cause s).toNat 0 true
    | _ => replyReq s1 r 0 0 true
  noticeDone (unqueueHeld s2 r.id) r

def refuseReq (s : State) (r : Req) (die cls idx : Nat) : State := refuseInj s r die cls idx false

/-- The granule of a location holds an error that was injected. -/
def injectedAt (s : State) (loc : Nat) : Bool := s.ues.any (fun u => u.1 = loc / 64 * 64 && u.2)

/-! ## Performing (R404) -/

/-- Memory bytes with those that the journal forwards. -/
def overlay (bs : List Byte) (fwd : List (Nat × Byte)) : List Byte :=
  (List.range bs.length).map (fun i =>
    match fwd.find? (fun f => f.1 = i) with
    | some f => f.2
    | none => (bs[i]?).getD 0)

/-- Sealed memory of this package: DM and the stacks (R236). -/
def sealedLoc (loc : Nat) : Bool := loc < 2 ^ 56 && (clusterOfLoc loc).isNone

/-- Is a phase closed by the arrival that closed another (R193)? DEDUCED (log 22). -/
def phaseClosed (p closed : BitVec 16) : Bool := (closed - p).toNat < 2 ^ 15

/-- An entry belongs to the barrier that opened the core's superstep: its drain goes to the superstep before (R340). -/
def ofClosing (s : State) (core : Nat) (e : JEntry) : Bool :=
  (s.core core).snap.isOpen && phaseClosed e.phase (s.core core).snap.closed

/-- The bytes of an entry written at its granule: a whole granule at once, else byte by byte. DEDUCED (log 24). -/
def writeEntry (s : State) (core : Nat) (e : JEntry) (loc : Nat) : State :=
  let old := ofClosing s core e
  if e.mask = BitVec.allOnes 64 then
    s.write core old loc e.gran ((List.range 64).map (fun i => (e.byteAt i).getD 0))
  else
    (List.range 64).foldl (fun st i =>
      match e.byteAt i with
      | some b => st.write core old (loc + i) (e.gran + BitVec.ofNat 64 i) [b]
      | none => st) s

/-- The merge read of a write of less than a granule of sealed memory locks the granule; an uncorrectable one refuses it
(R238, R336). -/
def mergeRead (s : State) (r : Req) (loc : Nat) : State :=
  let (ue, s1) := readEcc s (loc / 64 * 64) 64 (some (granOf r.va)) (some (s.ctx r.ctx))
  if ue then refuseInj s1 r (dieOfLoc loc) (arrayOfLoc loc).1 (arrayOfLoc loc).2 (injectedAt s loc)
  else
    (unqueueHeld { s1 with merges := s1.merges ++ [(loc / 64 * 64, r.id)] } r.id).modReq r.id (fun x =>
      { x with st := .merging, heldAt := none })

/-- A drained entry at its location: performed, or its merge read locks the granule (R238). -/
def performDrain (s : State) (r : Req) (id loc : Nat) : State :=
  match s.entry r.coreKey id with
  | none => s.dropReq r.id
  | some e =>
    if e.mask ≠ BitVec.allOnes 64 && sealedLoc loc && r.st ≠ .merging then mergeRead s r loc
    else
      match writeWaits s r.coreKey (ofClosing s r.coreKey e) loc e.gran 64 with
      | some s1 => s1
      | none => noticeDone (entryAnswered (writeEntry s r.coreKey e loc) r id false) r

/-- An atomic's old and new value (R269, R142): operator 7 compares and swaps. -/
def atomicResult (r : Req) (o : Nat) (operand expect : Word) (float : Bool) (old : Nat) : Nat × FlagSet :=
  let w := 2 ^ (8 * r.size)
  if o = 7 then (if old = expect.toNat % w then operand.toNat % w else old, 0)
  else atomicByCode o r.size float old (operand.toNat % w)

/-- The predictor of a cluster counts an atomic to a line: true when it carries a lease request (R266). -/
def predict (s : State) (ck line : Nat) : Bool × State :=
  let cl := s.cluster ck
  let old := ((cl.predictor.find? (fun p => p.1 = line)).map (·.2)).getD []
  let now := (old.filter (fun t => s.clk < t + 4096)) ++ [s.clk]
  (4 ≤ now.length && !cl.leaseRefused.contains line,
   s.modCluster ck (fun c => { c with predictor := (line, now) :: c.predictor.filter (fun p => p.1 ≠ line) }))

/-- A line comes to a cluster's lease buffer; the least recently used one goes (R266). -/
def grantLease (s : State) (ck line : Nat) : State :=
  s.modCluster ck (fun c =>
    { c with leases := (if 64 ≤ c.leases.length then c.leases.drop 1 else c.leases) ++ [{ line := line, recalled := false }],
             grants := satTo (c.grants + 1) 65535 })

/-- The line of memory that a request for paged space is for, where it has one. -/
def reqLine (s : State) (q : Req) : Option Nat :=
  match placeVia s q.route q.world q.va with
  | .paged d =>
    match translated s q with
    | some pa => some (pa / 64)
    | none => match walk (unheld s) q.world d (bits q.va 47 0) with | .ok pa _ _ _ => some (pa / 64) | _ => none
  | _ => none

/-- A request for the line other than r is queued at its owner. -/
def lineQueued (s : State) (r : Req) (line : Nat) : Bool :=
  s.reqs.any (fun q => q.id ≠ r.id && q.open_ && (q.st ≠ .sent || q.arrived.isSome) && reqLine s q = some line)

/-- What an atomic to paged space does to the predictor and the leases of its line. -/
def leaseStep (s : State) (r : Req) (loc : Nat) : State :=
  let ck := r.clusterKey
  let line := loc / 64
  if !(loc < 0x8000000000) || dieOfLoc loc ≠ r.die then s
  else
    let (asks, s1) := predict s ck line
    if (s.cluster ck).leases.any (fun l => l.line = line) then
      s1.modCluster ck (fun c =>
        { c with leases := c.leases.filter (fun l => l.line ≠ line) ++ c.leases.filter (fun l => l.line = line) })
    else
    let busy := lineQueued s1 r line
    let marked := (s1.dieAt r.die).recallMarks.any (fun m => m.1 = line && s1.clk < m.2 + 65536)
    if asks && !busy && !marked && (s1.cluster ck).keyWorld = some r.world then grantLease s1 ck line else s1

/-- An atomic at its home. DEDUCED (log 31). -/
def performAtomic (s : State) (r : Req) (o : Nat) (operand expect : Word) (float : Bool) (loc : Nat) : State :=
  let outsideTwin := (twinOn s r.coreKey).any (fun p => !insideRun p.2 loc)
  if outsideTwin then refuseReq s r (dieOfLoc loc) (arrayOfLoc loc).1 (arrayOfLoc loc).2
  else
  match writeWaits s r.coreKey false loc r.va r.size with
  | some s1 => s1
  | none =>
    let (ue, s1) := readEcc s loc r.size (some r.va) (some (s.ctx r.ctx))
    if ue then noticeDone (replyReq (consume s1 r.ctx r.va (r.pc s)) r 0 0 false) r
    else
      let old := s1.readMem loc r.size
      let (new, fl) := atomicResult r o operand expect float old
      let s2 := if o = 7 && old ≠ expect.toNat % 2 ^ (8 * r.size) then s1
                else s1.write r.coreKey false loc r.va (leBytes new r.size)
      noticeDone (replyReq (leaseStep s2 r loc) r old fl false) r

/-- A read of n bytes for a register, a plane, a fetch or an engine. -/
def performRead (s : State) (r : Req) (loc : Nat) : State :=
  let (ue, s1) := readEcc s loc r.size (some r.va) (some (s.ctx r.ctx))
  let v := leValue (overlay (s1.bytes loc r.size) r.fwd)
  if !ue then noticeDone (replyReq s1 r v 0 false) r
  else
    match r.kind with
    | .engRead .. | .fetch => noticeDone (replyReq s1 r 0x161 0 true) r
    | _ => noticeDone (replyReq (consume s1 r.ctx r.va (r.pc s)) r 0 0 false) r

/-- THE ONE POINT where a request that is not held, parked or refused is performed. -/
def performAt (s0 : State) (r : Req) (loc : Nat) : State :=
  let s := unqueueHeld s0 r.id
  match r.kind with
  | .drain e => performDrain s r e loc
  | .atomic o operand expect float => performAtomic s r o operand expect float loc
  | .store v => noticeDone (replyReq (s.write r.coreKey false loc r.va (leBytes v r.size)) r 0 0 false) r
  | .engWrite _ _ data =>
    if data.length < 64 && sealedLoc loc && r.st ≠ .merging then mergeRead s r loc
    else
      match writeWaits s r.coreKey false loc r.va data.length with
      | some s1 => s1
      | none =>
      replyReq ({ s.write r.coreKey false loc r.va data with merges := s.merges.filter (fun m => m.2 ≠ r.id) }) r 0 0 false
  | _ => performRead s r loc

/-- A WRITE OF A TWIN RUN outside the run's own clusters is appended to its core's log area, not performed (R343); host memory
refuses it. -/
def twinWrite (s : State) (r : Req) : Option State :=
  match twinOn s r.coreKey with
  | none => none
  | some (x, t) =>
    let outside := match placeVia s r.route r.world r.va with
      | .phys loc => !insideRun t loc
      | .host _ => false
      | _ => true
    if !outside then none
    else
      match r.kind with
      | .drain id =>
        (s.entry r.coreKey id).map (fun e =>
          let (s1, done) := twinAppend s r.coreKey x t e.gran e.mask (leBytes e.data.toNat 64)
          if done then entryAnswered s1 r id false else s1)
      | .engWrite _ _ data =>
        let off := bits r.va 5 0
        let mask : BitVec 64 := BitVec.ofNat 64 ((2 ^ data.length - 1) * 2 ^ off)
        let (s1, done) := twinAppend s r.coreKey x t (granOf r.va) mask (List.replicate off 0 ++ data)
        some (if done then replyReq s1 r 0 0 false else s1)
      | _ => none

/-! ## Host memory and other packages (R249, R264) -/

/-- Which atomics a link carries: FetchAdd, Swap, CAS. -/
def linkAtomic (o : Nat) (float : Bool) : Bool := !float && (o = 0 || o = 6 || o = 7 || o = 8 || o = 14)

/-- The bytes that come back: those given, or for host memory as the model holds it, or free. -/
def outsideValue (s : State) (host : Option Nat) (ext : Ext) (n : Nat) : Nat × State :=
  if ext.data.length = n then (leValue ext.data, s)
  else
    match host with
    | some loc => (s.readMem loc n, s)
    | none => let (v, s1) := s.freeVal; (v.toNat % 2 ^ (8 * n), s1)

/-- A request that host memory or another package answers. DESIGN CHOICE (log 34). -/
def performOutside (s : State) (r : Req) (host : Option Nat) (ext : Ext) : State :=
  if host.isNone && !fabricUp s r.die then s else
  let isTwin := (twinOn s r.coreKey).isSome
  let (cls, idx) := (14, 0)
  let no := refuseReq s r (if host.isSome then 0 else r.die) cls idx
  match r.kind with
  | .drain id =>
    match s.entry r.coreKey id with
    | none => s.dropReq r.id
    | some e =>
      if !ext.ok || isTwin then no
      else
        match host with
        | some loc => entryAnswered (writeEntry s r.coreKey e loc) r id false
        | none => entryAnswered (spoilSnap s r.coreKey (ofClosing s r.coreKey e)) r id false
  | .atomic o operand expect float =>
    if !ext.ok || isTwin || (host.isSome && !linkAtomic o float) then no
    else
      let (old, s1) := outsideValue s host ext r.size
      let (new, fl) := atomicResult r o operand expect float old
      let s2 := match host with
        | some loc => if o = 7 && old ≠ expect.toNat % 2 ^ (8 * r.size) then s1
                      else s1.write r.coreKey false loc r.va (leBytes new r.size)
        | none => unrecoverable s1 r.coreKey
      replyReq s2 r old fl false
  | .store v =>
    if !ext.ok then no
    else
      match host with
      | some loc => replyReq (s.write r.coreKey false loc r.va (leBytes v r.size)) r 0 0 false
      | none => replyReq s r 0 0 false
  | .engWrite _ _ data =>
    if !ext.ok || isTwin then no
    else
      match host with
      | some loc => replyReq (s.write r.coreKey false loc r.va data) r 0 0 false
      | none => replyReq (unrecoverable s r.coreKey) r 0 0 false
  | _ =>
    if !ext.ok || (isTwin && host.isSome) then no
    else
      let (v, s1) := outsideValue s host ext r.size
      replyReq s1 r (leValue (overlay (leBytes v r.size) r.fwd)) 0 false

/-! ## xlat (R295) -/

/-- The world's stage 2 as it is but for MIG in the entry of a GA: what its two leaves say stays (R295). -/
def settledMig (s : State) (world die ga : Nat) : State :=
  let off (e : Word) : Word := e &&& ~~~0x80#64
  s.modWd world die (fun w =>
    if pteV (Tbl.get 0 w.stage2g (ga / 0x40000000)) then
      { w with stage2g := Tbl.put 0 w.stage2g (ga / 0x40000000) (off (Tbl.get 0 w.stage2g (ga / 0x40000000))) }
    else { w with stage2 := Tbl.put 0 w.stage2 (ga / 0x10000) (off (Tbl.get 0 w.stage2 (ga / 0x10000))) })

/-- The word that `xlat` returns; a field that the spec does not state is free. DESIGN CHOICE (log 37). -/
def xlatWord (s : State) (r : Req) : Word × State :=
  let mk (outcome : Nat) (low : Word) : Word := low ||| putAt outcome 1 ||| 1#64
  let open_ (outcome : Nat) (ga : Option Nat) : Word × State :=
    let (f, s1) := s.freeVal
    let keep : Word := match ga with | some g => putAt (g / 65536) 16 | none => f &&& 0x0000FFFFFFFF0000#64
    (mk outcome (keep ||| (f &&& 0xF80#64)), s1)
  let any_ : Word × State :=
    let (f, s1) := s.freeVal
    let o := f.toNat % 7
    (mk o (if o < 4 then f &&& 0xFFFFFFFFFFFF0F80#64 else f &&& 0xF80#64), s1)
  match placeVia s r.route r.world r.va with
  | .paged d =>
    let va := bits r.va 47 0
    match walk s r.world d va with
    | .ok _ perm size ga => (mk 0 (putAt (ga / 65536) 16 ||| putAt size 10 ||| putAt perm.toNat 7), s)
    | .absent st page ga =>
      open_ st (if st = 1 ∧ !bit (s.wd r.world d).s1root 0 then some (page * 65536) else ga)
    | .mig (some ga) =>
      match walk (settledMig s r.world d ga) r.world d va with
      | .ok _ perm size _ => (mk 3 (putAt (ga / 65536) 16 ||| putAt size 10 ||| putAt perm.toNat 7), s)
      | _ => open_ 3 (some ga)
    | .mig none => open_ 3 none
    | .malformed => open_ 4 (some 0)
    | .unreadable => open_ 6 (some 0)
    | .lost | .held _ | .leased .. => any_
  | .away => if vaScratch r.va then open_ 5 (some 0) else any_
  | _ => open_ 5 (some 0)

/-! ## Parks and page requests (R256 to R260) -/

def ownerIs (s : State) (r : Req) (world die : Nat) : Bool := r.world = world && r.route = some (s.pkg, die)
def parkedAtDie (s : State) (world die : Nat) : List Req := s.reqs.filter (fun r => r.st = .parked && ownerIs s r world die)
def walkingAtDie (s : State) (world die : Nat) : List Req :=
  s.reqs.filter (fun r => (match r.st with | .walking _ => true | _ => false) && ownerIs s r world die)
/-- Walkers of the world that wait for an entry of the park table, and walkers of the die in use (R255, R257). -/
def walkedAtDie (s : State) (world die : Nat) : Nat := (s.reqs.filter (fun r => r.st = .walked && ownerIs s r world die)).length
def walkersUsed (s : State) (die : Nat) : Nat := (s.reqs.filter (fun r => r.hasWalker && r.route = some (s.pkg, die))).length
/-- No park entry is left for the world: its quota of 256, or the die's 4,096 (R256, R257), for which the wait is a
DESIGN CHOICE (log 149). -/
def parkFull (s : State) (world die : Nat) : Bool :=
  256 ≤ (parkedAtDie s world die).length ||
    4096 ≤ (s.reqs.filter (fun r => r.st = .parked && r.route = some (s.pkg, die))).length

/-- A PARK: the entry, the request for its page, the date of R258. -/
def parkReq (s : State) (r : Req) (die : Nat) (page : Option (Nat × Nat)) : State :=
  let s1 := s.modReq r.id (fun x =>
    { x with st := .parked, page := page, hasParked := true, arrived := none, heldAt := none, pa := none })
  let s2 := match page with
    | some (st, p) => requestPage s1 r.world die st p r.need
    | none => s1
  let s3 := s2.modCtx r.ctx (fun c => { c with pulse := s.clk })
  let date (p : Option Nat) (noticed : Bool) : Option Nat := if noticed then p else p <|> some s.clk
  match r.kind with
  | .drain e => modEntry s3 r.coreKey e (fun x => { x with parkedAt := date x.parkedAt x.noticed })
  | _ => s3.modOp r.op (fun o => { o with parkedAt := date o.parkedAt o.noticed,
                                          parkVa := if o.parkedAt.isNone && !o.noticed then r.va else o.parkVa })

/-- A request that could not be performed has its place in the order of arrival (R238, R257, R266). -/
def stampArrival (s : State) (r : Req) : State :=
  if r.arrived.isSome then s
  else let (n, s1) := s.fresh; s1.modReq r.id (fun x => { x with arrived := some n })

/-- A request joins the holding queue of a scheduler, and leaves that of another; in the queue it keeps its place (R319). -/
def heldAtSched (s : State) (k id : Nat) : State :=
  if (s.sched k).held.contains id then s
  else (unqueueHeld s id).modSched k (fun x => { x with held := x.held ++ [id] })

/-- A held request is noted where it is held, with the translation that it has. -/
def holdReq (s0 : State) (r : Req) (f : Fate) : State :=
  let s := stampArrival s0 r
  let at_ (st : State) (g : Nat) (lease : Bool) : State :=
    (unqueueHeld st r.id).modReq r.id (fun x => { x with heldAt := some (g, lease) })
  let s1 := s.modReq r.id (fun x => { x with st := .sent, pa := r.pa })
  match f with
  | .input => s.modReq r.id (fun x => { x with st := .input })
  | .locked g => at_ s1 g false
  | .behind g lease => at_ s1 g lease
  | .heldBy k => heldAtSched s1 k r.id
  | .leased ck line => recallLine (at_ s1 (64 * line) true) ck line
  | _ => s1

/-- A walk ends in a park: where the world's quota is full it waits in its walker, and with 8 of the world's walkers waiting at
the input of the translation unit (R257). DEDUCED (log 115). -/
def parkOrWait (s : State) (r : Req) (die : Nat) (page : Option (Nat × Nat)) : State :=
  if !parkFull s r.world die then parkReq s r die page
  else if r.st = .walked then s
  else if walkedAtDie s r.world die < 8 then s.modReq r.id (fun x => { x with st := .walked, page := page })
  else holdReq s r .input

/-- THE END OF A WALK of a request on a die: performed, parked or refused (R254). A scheduler that holds the read of an entry, or
the recall of its line, holds the walk (R266, R319). -/
def finishWalk (s0 : State) (r : Req) (die : Nat) : State :=
  let va := bits r.va 47 0
  let s := walkEcc s0 r.world die va
  let inj := (walkReads (unheld s0) r.world die va).any (injectedAt s0)
  let no (st : State) : State := refuseInj st r die 10 0 inj
  let done (st : State) : State := st.modDie die (fun d => { d with noInstall := d.noInstall.filter (fun p => p.1 ≠ r.id) })
  match walk s0 r.world die va with
  | .held k => heldAtSched s0 k r.id
  | .leased ck line => recallLine s0 ck line
  | .ok pa perm size _ =>
    if !permits perm r.need then no (done s)
    else
      let span := (va / leafBytes size * leafBytes size, leafBytes size)
      let s1 := if (s.dieAt die).noInstall.any (fun p => p.1 = r.id && rangesMeet span p.2) then done s
                else
                  let t : TlbEntry := { world := r.world, page := va / 65536, size := size, perm := perm, pa := pa / 65536 * 65536 }
                  tlbInstall (done s) die t
      match afterPa s1 r die pa with
      | .perform loc => performAt s1 r loc
      | .refuse d cls idx => refuseReq s1 r d cls idx
      | f => holdReq s1 { r with pa := some pa } f
  | .absent st page _ => parkOrWait (unqueueHeld (done s) r.id) r die (some (st, page))
  | .mig _ => parkOrWait (unqueueHeld (done s) r.id) r die none
  | _ => no (done s)

/-! ## The events at owners -/

/-- A request that has arrived at its owner: a miss takes one of the die's 64 walkers, or waits (R255, R257). -/
def arriveReq (s : State) (r : Req) (ext : Ext) : State :=
  match twinWrite s r with
  | some s1 => s1
  | none =>
    match fateAt s r with
    | .perform loc => performAt s r loc
    | .outside h => performOutside s r h ext
    | .walk d =>
      if 8 ≤ walkedAtDie s r.world d then holdReq s r .input
      else if 64 ≤ walkersUsed s d then stampArrival s r
      else (stampArrival s r).modReq r.id (fun x => { x with st := .walking s.clk })
    | .refuse d cls idx => refuseReq s r d cls idx
    | f => holdReq s { r with pa := translated s r } f

/-- The walk of an `xlat` waits for a scheduler (R319). -/
def xlatHeld (s : State) (r : Req) : Bool :=
  match placeVia s r.route r.world r.va with
  | .paged d => match walk s r.world d (bits r.va 47 0) with | .held _ | .leased .. => true | _ => false
  | _ => false

/-- What holds it: a scheduler, or the recall of a line. -/
def xlatWaits (s : State) (r : Req) : State :=
  match placeVia s r.route r.world r.va with
  | .paged d =>
    match walk s r.world d (bits r.va 47 0) with
    | .held k => heldAtSched s k r.id
    | .leased ck line => recallLine s ck line
    | _ => s
  | _ => s

/-- The merged granule of a copy row comes back and frees the lock (R238). -/
def engMerged (s : State) (r : Req) : State :=
  match r.kind, s.merges.find? (fun m => m.2 = r.id) with
  | .engWrite .., some m => performAt s r (m.1 + bits r.va 5 0)
  | _, _ => s

/-- Loads, engine requests, a translator's stores, fetches and `xlat` (R404). -/
def execAccessAtOwner (id : Nat) (ext : Ext) (s : State) : Out :=
  event s (fun s =>
    match s.req id with
    | none => s
    | some r =>
      if r.st = .merging then engMerged s r
      else if !r.atOwner then s
      else
        match r.kind with
        | .drain _ | .atomic .. | .sc .. | .fill _ => s
        | .xlat => if linkBehind s r then s
                   else if xlatHeld s r then xlatWaits s r
                   else let (w, s1) := xlatWord s r; replyReq (unqueueHeld s1 r.id) r w.toNat 0 false
        | _ => if allForwarded r then replyReq s r (leValue (overlay (List.replicate r.size 0) r.fwd)) 0 false
               else if linkBehind s r then s
               else arriveReq s r ext)

/-- The end of a walk (R254); one that ends in a park waits for an entry (R257). -/
def execWalkEnd (id : Nat) (s : State) : Out :=
  event s (fun s =>
    match s.req id with
    | none => s
    | some r =>
      match r.st, r.route with
      | .walking _, some (_, d) => if inService s d 432 then finishWalk s r d else s
      | .walked, some (_, d) => parkOrWait s r d r.page
      | _, _ => s)

/-- A parked request is replayed once its page has been answered (R256). -/
def execParkReplay (id : Nat) (s : State) : Out :=
  event s (fun s =>
    match s.req id with
    | none => s
    | some r =>
      match r.route with
      | some (_, d) =>
        if r.st = .parked ∧ r.page = none then
          let s1 := s.modReq id (fun x => { x with st := .sent })
          finishWalk s1 { r with st := .sent } d
        else s
      | none => s)

/-- A waiting page request takes a queue entry that has come free, in the order of first park (R259). -/
def execPageRequestDeferredPost (world die : Nat) (s : State) : Out :=
  event s (fun s => s.modWd world die (fun w =>
    match w.requests.find? (fun q => !q.posted) with
    | some q => if queueRoom w then postPage w q.stage q.page else w
    | none => w))

/-- 0x061 after PNOTE clk (R258): the instruction or entry of a parked request. -/
def execParkNoticeTimeout (id : Nat) (s : State) : Out :=
  event s (fun s =>
    match s.req id with
    | none => s
    | some r =>
      let due (p : Option Nat) (k : Nat) : Bool :=
        match p with | some t => t + (s.ctx k).pnote.toNat ≤ s.clk | none => false
      let raise (st : State) (k : Nat) (va : Word) (pc : BitVec 48) (n : Nat) : State :=
        pend st k 0x061#9 va (putAt (pc.toNat / 4) 0 ||| putAt (satTo n (2 ^ 18 - 1)) 46)
      if r.st ≠ .parked then s
      else
        match r.kind with
        | .drain e =>
          match s.entry r.coreKey e with
          | some x =>
            let k := entryCtx r.coreKey x
            if !x.noticed && due x.parkedAt k && (s.ctx k).trap.upvec ≠ 0 then
              raise (modEntry s r.coreKey e (fun y => { y with noticed := true })) k r.va x.pc 1
            else s
          | none => s
        | _ =>
          match s.op r.op with
          | some o =>
            if !o.noticed && due o.parkedAt o.ctx && (s.ctx o.ctx).trap.upvec ≠ 0 then
              raise (s.modOp r.op (fun y => { y with noticed := true })) o.ctx o.parkVa o.pc (parkedOf s r.op).length
            else s
          | none => s)

/-- An older entry of the core for the same granule has not been performed (R405). -/
def olderPending (s : State) (core : Nat) (e : JEntry) : Bool :=
  (s.core core).journal.any (fun f => f.id < e.id && f.gran = e.gran && (f.st = .resting || f.st = .leaving || f.st = .inflight))

/-- Does a drained entry go to its owner as a merge (R238)? -/
def isMerge (s : State) (r : Req) (e : JEntry) : Bool :=
  e.mask ≠ BitVec.allOnes 64 &&
    match placeVia s r.route r.world r.va with
    | .phys pa => sealedLoc pa
    | .paged _ => true
    | _ => false

/-- A drained entry reaches its owner (R148). -/
def drainArrives (s : State) (core entry : Nat) (merge : Bool) (ext : Ext) : State :=
  match s.entry core entry with
  | none => s
  | some e =>
    match e.req.bind s.req with
    | none => s
    | some r =>
      if !r.atOwner || isMerge s r e ≠ merge || linkBehind s r then s
      else if olderPending s core e then stampArrival s r
      else arriveReq s r ext

def execDrainPerform (core entry : Nat) (ext : Ext) (s : State) : Out :=
  event s (fun s => drainArrives s core entry false ext)
/-- The merge read locks the granule (R238). -/
def execMergeRead (core entry : Nat) (s : State) : Out :=
  event s (fun s => drainArrives s core entry true { ok := true, data := [] })
/-- The merged granule comes back and frees the lock (R238). -/
def execMergeWriteback (core entry : Nat) (s : State) : Out :=
  event s (fun s =>
    match s.entry core entry with
    | none => s
    | some e =>
      match e.req.bind s.req with
      | none => s
      | some r =>
        match r.st, s.merges.find? (fun m => m.2 = r.id) with
        | .merging, some m => performDrain s r entry m.1
        | _, _ => s)

/-- A refused entry is reported: once for the entries that one instruction created, when the last of them is gone (R136,
R164). -/
def reportStores (s : State) (core : Nat) (e : JEntry) (refused : Bool) : State :=
  let c := s.core core
  let first := firstByte e.gran e.mask
  let mine := c.reports.find? (fun r => r.instr = e.instr)
  let rep : Option StReport :=
    if !refused then mine
    else
      match mine with
      | some r => some { r with count := r.count + e.elems.length }
      | none => some { instr := e.instr, ctxSlot := e.ctxSlot, pc := e.pc, taddr := first, slot := e.slot, count := e.elems.length }
  let rest := c.reports.filter (fun r => r.instr ≠ e.instr)
  match rep with
  | none => s
  | some r =>
    if c.journal.any (fun f => f.instr = e.instr) then s.modCore core (fun x => { x with reports := rest ++ [r] })
    else
      pend (s.modCore core (fun x => { x with reports := rest })) (core * 16 + r.ctxSlot) 0x041#9 r.taddr
        (putAt (r.pc.toNat / 4) 0 ||| putAt r.slot 46 ||| putAt (satTo r.count 511) 55)

/-! ## The return of a load (R92, R136, R142) -/

/-- The value of a request in the form that its destination takes. -/
def returnedWord (r : Req) (v : Nat) : Word :=
  match r.kind with
  | .bits sh w =>
    let x := v / 2 ^ sh % 2 ^ w
    if r.signed && 2 ^ (w - 1) ≤ x then BitVec.ofInt 64 ((x : Int) - (2 ^ w : Nat)) else BitVec.ofNat 64 x
  | .xlat => BitVec.ofNat 64 v
  | _ => extend r.signed r.size v

/-- A reply delivered: the element written, the instruction one request nearer its end. -/
def deliver (s : State) (r : Req) (o : Op) (v : Nat) (fl : FlagSet) (refused : Bool) : State :=
  let s0 := s.dropReq r.id
  let w : Word := if refused then 0 else returnedWord r v
  let s1 := match o.dest with
    | .none => s0
    | .reg pos => s0.modCtx o.ctx (fun c => c.writeResident pos w)
    | .plane p => putTagged s0 (o.ctx / 16) p r.elem (w.truncate 32)
  let s2 := match o.dest with
    | .plane _ => if fl = 0 then s1 else s1.modCtx o.ctx (fun c => { c with ast := c.ast ||| fl.zeroExtend 64 })
    | _ => s1
  let pos := r.elem % 2048
  let first := if !refused then o.firstRef
               else match o.firstRef with
                 | some (q, a) => if pos < q then some (pos, r.va) else some (q, a)
                 | none => some (pos, r.va)
  let o1 := { o with left := o.left - 1, refused := o.refused + (if refused then 1 else 0), firstRef := first,
                     flags := match o.dest with | .plane _ => o.flags ||| fl | _ => 0 }
  if o1.left ≠ 0 then s2.modOp o.id (fun _ => o1)
  else
    let s3 := ({ s2 with ops := s2.ops.filter (fun x => x.id ≠ o.id) }).modCtx o.ctx
      (fun c => { c with loads := c.loads - 1, pulse := s.clk })
    let s4 := match lowestFlag (o1.flags &&& (s3.ctx o.ctx).ast.extractLsb' 8 7) with
      | some i => pend s3 o.ctx (BitVec.ofNat 9 (0x0E1 + i)) (o.pc.zeroExtend 64) (o1.flags.zeroExtend 64)
      | none => s3
    match o1.firstRef with
    | none => s4
    | some (_, a) => pend s4 o.ctx o.cause a (putAt (o.pc.toNat / 4) 0 ||| putAt (satTo o1.refused 511) 55)

/-- The write of an element of a plane waits for the superstep log (R340). -/
def deliverWaits (s : State) (r : Req) (o : Op) : Option State :=
  match o.dest with
  | .plane p => planeKeysWait s (o.ctx / 16) [p * 2048 + r.elem % 2048]
  | _ => none

/-- The reply of a load, atomic, `xlat` or translator's store reaches its context. -/
def execLoadReturn (id : Nat) (s : State) : Out :=
  event s (fun s =>
    match s.req id with
    | none => s
    | some r =>
      match r.kind, r.st, s.op r.op with
      | .sc .., _, _ => s
      | _, .replied v fl refused, some o => (deliverWaits s r o).getD (deliver s r o v fl refused)
      | _, _, _ => s)

/-! ## Atomics at home (R142, R265 to R270) -/

/-- An earlier atomic of the context to the same bytes is not performed yet. DEDUCED (log 86). -/
def atomicBehind (s : State) (r : Req) : Bool :=
  s.reqs.any (fun q => q.id < r.id && q.ctx = r.ctx && q.isAtomic &&
    rangesMeet ((canonVa s q.die q.va).toNat, q.size) ((canonVa s r.die r.va).toNat, r.size) &&
    (match q.st with | .replied .. => false | _ => true))

def execAtomicAtHome (id : Nat) (ext : Ext) (s : State) : Out :=
  event s (fun s =>
    match s.req id with
    | none => s
    | some r =>
      if !r.isAtomic || !r.atOwner || linkBehind s r then s
      else if atomicBehind s r then stampArrival s r
      else arriveReq s r ext)

/-- A recalled line leaves the lease buffer; the predictor refuses it (R266). -/
def execLeaseWriteback (cluster line : Nat) (s : State) : Out :=
  event s (fun s => s.modCluster cluster (fun c =>
    if c.leases.any (fun l => l.line = line && l.recalled) then
      let ref := c.leaseRefused.filter (· ≠ line) ++ [line]
      { c with leases := c.leases.filter (fun l => l.line ≠ line),
               leaseRefused := (if 16 < ref.length then ref.drop 1 else ref) }
    else c))

/-- Every lease of a cluster is written back (R266). -/
def dropLeases (s : State) (ck : Nat) : State := s.modCluster ck (fun c => { c with leases := [] })

/-! ## publish (R204), for `.rel` and `publish` -/

/-- The granule of an entry lies in a scope: 1 cluster, 2 die, 3 package, 4 domain, 5 system. -/
def inScope (s : State) (c : Ctx) (scope : Nat) (g : Word) : Bool :=
  let place := routeDie s c.die g
  let host := vaDie g = 0x7FFF
  match scope with
  | 1 => !host && vaScratch g && vaLevel g ≤ 1 && vaCluster g = c.cluster && place = some (s.pkg, c.die)
  | 2 => !host && place = some (s.pkg, c.die)
  | 3 => !host && (place.map (·.1)) = some s.pkg
  | 4 => !host && (vaDie g < 0x6000 || vaDie g = 0x7FFE)
  | 5 => true
  | _ => false

/-- The entries of a scope that have not left leave in a drain; those that left in another drain and are not performed, and those
of a publication that a cause interrupted, are awaited with them (R204, R205, R408). DEDUCED (log 116). -/
def publishDrain (s : State) (scope : Nat) : List Nat × State :=
  let c := s.cx
  let (ids, s1) := drain s c.coreKey (fun e =>
    ((e.st = .resting || e.st = .leaving || e.st = .inflight) && inScope s c scope e.gran) || c.owed.contains e.id)
  (ids, s1.modCx (fun x => { x with owed := ids }))

/-! ## amo and cas (R268 to R270) -/

/-- An atomic with everything that its instruction names. -/
structure AtomicOp where
  i : Instr
  d : SReg
  va : Word
  size : Nat
  o : Nat
  operand : Word
  expect : Word
  /-- 0 none, 1 `.acq`, 2 + S `.rel` at scope S. -/
  order : Nat

/-- The atomic issues. -/
def AtomicOp.issue (x : AtomicOp) (s : State) : State :=
  let c := s.cx
  if 63 ≤ c.loads then s
  else if ownUM s c x.va then
    let loc := ownKey s c x.va
    let (ue, s1) := readEcc s loc x.size (some x.va) (some c)
    if ue then retire (consume (s1.wS x.d 0) s.cur x.va c.pc) 4
    else
      let old := s1.readMem loc x.size
      let w := 2 ^ (8 * x.size)
      let hit := old = x.expect.toNat % w
      let new := if x.o = 7 then x.operand.toNat % w else (atomicValue x.o x.size false old (x.operand.toNat % w)).1
      let s2 := if x.o = 7 && !hit then s1 else storeOwn s1 x.va (leBytes new x.size)
      retire (s2.wS x.d (extend true x.size old)) 4
  else
    let (op, s1) := newOp s (regDest c x.d) 1 0x042#9 (x.order = 1)
    retire (sendReq s1 (.atomic x.o x.operand x.expect false) op 0 true x.va x.size []) 4

/-- `.rel`: the loads have returned, then the scope is published, then the atomic issues. -/
def AtomicOp.released (x : AtomicOp) (s : State) : State :=
  if acked s s.cx.coreKey s.cx.waitEntries then x.issue (s.modCx (fun c => { c with owed := [] })) else s
def AtomicOp.ordered (x : AtomicOp) (s : State) : State :=
  if !acked s s.cx.coreKey s.cx.waitEntries then s
  else if x.order ≤ 1 then x.issue s
  else if s.cx.loads ≠ 0 then s
  else if x.order = 2 then x.issue s
  else
    let (ids, s1) := publishDrain s (x.order - 2)
    x.released (s1.modCx (fun c => { c with phase := 2, waitEntries := ids }))

/-- The checks, then the waits of the issue in turn: room in the loads counter, which rises for every target (R269), the forcing,
the drains of the overlapping entries that have not left, the order. An instruction that reads and writes is no store in bit 40 of TINFO (R115). DESIGN CHOICE (log 108). -/
def AtomicOp.run (x : AtomicOp) (s : State) : State :=
  match checkVa x.va x.size with
  | some k => raiseHere s k x.va (tinfo1 x.i x.size false)
  | none =>
    match s.cx.phase with
    | 0 =>
      if 63 ≤ s.cx.loads then s
      else
      beforeWrite s (accessFoot s x.va x.size) (fun s =>
        let core := s.cx.coreKey
        let f := accessFoot s x.va x.size
        let (ids, s1) := drain s core (fun e => (e.st = .resting || e.st = .leaving) && entryMeets s core f e)
        x.ordered (s1.modCx (fun c => { c with phase := 1, waitEntries := ids })))
    | 1 => x.ordered s
    | _ => x.released s

def widthBytes (w : BitVec 1) : Nat := if w = 1 then 4 else 8

def execAmo (d a b : SReg) (o : BitVec 3) (w : BitVec 1) (r : BitVec 3) (s : State) : Out :=
  let i := Instr.amo d a b o w r
  issue s i (fun s => AtomicOp.run { i := i, d := d, va := s.rS a, size := widthBytes w, o := o.toNat, operand := s.rS b,
                                     expect := 0, order := r.toNat } s)
def execCas (d a b : SReg) (w : BitVec 1) (r : BitVec 3) (s : State) : Out :=
  let i := Instr.cas d a b w r
  issue s i (fun s => AtomicOp.run { i := i, d := d, va := s.rS a, size := widthBytes w, o := 7, operand := s.rS b,
                                     expect := s.rS d, order := r.toNat } s)

/-! ## SC operations (R271 to R273) -/

/-- Aimed at scratchpad of this package. -/
def scTarget (s : State) (c : Ctx) (va : Word) : Bool :=
  vaScratch va && vaDie va ≠ 0x7FFF &&
    match routeDie s c.die va with
    | some (p, _) => p = s.pkg
    | none => true

/-- The bytes of resting entries of the core, youngest first. -/
def forwardedResting (s : State) (core : Nat) (va : Word) (n : Nat) : List (Nat × Byte) :=
  forwarded (s.modCore core (fun c => { c with journal := c.journal.filter (fun e => e.st = .resting) })) core va n

def scOp (s : State) (i : Instr) (d : SReg) (va : Word) (size : Nat) (write read : Bool) (o : Nat) (operand : Word) : State :=
  let c := s.cx
  let info := tinfo1 i size (write && !read)
  match checkVa va size with
  | some k => raiseHere s k va info
  | none =>
    if !scTarget s c va then raiseHere s 0x062#9 va info
    else if 63 ≤ c.loads then s
    else
      let f := accessFoot s va size
      forceThen s (fun n => nodeMeets s c.coreKey n f) countAlias (fun s =>
          let (op, s1) := newOp s (if read then regDest c d else .none) 1 0x042#9 false
          let fwd := if write then [] else forwardedResting s c.coreKey va size
          retire (sendReq s1 (.sc write read o operand s.clk) op 0 true va size fwd) 4)

def execLdsc (d a : SReg) (w : BitVec 1) (s : State) : Out :=
  let i := Instr.ldsc d a w
  issue s i (fun s => scOp s i d (s.rS a) (widthBytes w) false true 0 0)
def execStsc (a b : SReg) (w : BitVec 1) (s : State) : Out :=
  let i := Instr.stsc a b w
  issue s i (fun s => scOp s i 0 (s.rS a) (widthBytes w) true false 6 (s.rS b))
def execAmosc (d a b : SReg) (o : BitVec 3) (w : BitVec 1) (s : State) : Out :=
  let i := Instr.amosc d a b o w
  issue s i (fun s => scOp s i d (s.rS a) (widthBytes w) true true o.toNat (s.rS b))

/-- The window of a request, and its place in the order of keys (R271). -/
def scClk (r : Req) : Option Nat := match r.kind with | .sc _ _ _ _ t => some t | _ => none
def scKey (r : Req) : Nat := r.coreKey * 4 + (scClk r).getD 0 % 4

/-- Requests in key order: two of one key do not exist. -/
def insertKey (r : Req) : List Req → List Req
  | [] => [r]
  | q :: t => if scKey r ≤ scKey q then r :: q :: t else q :: insertKey r t

/-- One SC operation at its home. Its clk is fixed (R271): where the superstep log would make its write wait (R340), the superstep
becomes unrecoverable instead. DESIGN CHOICE (log 135). -/
def performSc (s0 : State) (r : Req) : State :=
  match r.kind with
  | .sc write _ o operand _ =>
    match fateAt s0 r with
    | .perform loc =>
      let s := if write && (writeWaits s0 r.coreKey false loc r.va r.size).isSome then spoilSnap s0 r.coreKey false else s0
      if (twinOn s r.coreKey).any (fun p => !insideRun p.2 loc) then
        refuseReq s r (dieOfLoc loc) (arrayOfLoc loc).1 (arrayOfLoc loc).2
      else
        let (ue, s1) := readEcc s loc r.size (some r.va) (some (s.ctx r.ctx))
        if ue then replyReq (consume s1 r.ctx r.va (r.pc s)) r 0 0 false
        else
          let old := s1.readMem loc r.size
          let s2 := if write then
              s1.write r.coreKey false loc r.va
                (leBytes (atomicValue o r.size false old (operand.toNat % 2 ^ (8 * r.size))).1 r.size)
            else s1
          replyReq s2 r (leValue (overlay (leBytes old r.size) r.fwd)) 0 false
    | .refuse d cls idx => refuseReq s0 r d cls idx
    | _ => s0
  | _ => s0

/-- Clk 4W + 24 exactly: every SC operation of window W, in key order (R271). -/
def scWindow (s : State) (window : Nat) : State :=
  let mine := s.reqs.filter (fun r => r.st = .sent && (scClk r).any (fun t => t / 4 = window))
  if s.clk ≠ 4 * window + 24 || window < s.scWindow then s
  else { (mine.foldr insertKey []).foldl performSc s with scWindow := window + 1 }
def execScWindowPerform (window : Nat) (s : State) : Out := event s (fun s => scWindow s window)

/-- Clk t + 28 exactly: the result is written and the loads counter falls (R271). -/
def scResult (s : State) (id : Nat) : State :=
  match s.req id with
  | none => s
  | some r =>
    match scClk r, r.st, s.op r.op with
    | some t, .replied v fl refused, some o => if s.clk ≠ t + 28 then s else deliver s r o v fl refused
    | _, _, _ => s
def execScResult (id : Nat) (s : State) : Out := event s (fun s => scResult s id)

/-- The SC operations that fall due in this clk: windows performed, results written (R271). -/
def scDue (s : State) : State :=
  let s1 := if s.clk % 4 = 0 && 24 ≤ s.clk then scWindow s (s.clk / 4 - 6) else s
  (s1.reqs.filter (fun r => (scClk r).any (fun t => s1.clk = t + 28))).foldl (fun st r => scResult st r.id) s1

/-- The next clk, from one on, in which an SC operation falls due. -/
def scNext (s : State) (from_ : Nat) : Option Nat :=
  (s.reqs.filterMap (fun r => (scClk r).bind (fun t =>
    (match r.st with
     | .replied .. => some (t + 28)
     | _ => some (4 * (t / 4) + 24)).filter (from_ ≤ ·)))).min?

/-! ## Translation registers (R261, R262) -/

/-- Translations of a world that overlap a range are dropped; walks under way install none that does. -/
def dropTlb (s : State) (world die : Nat) (whole : Bool) (page size : Nat) : State :=
  s.modDie die (fun d =>
    { d with tlb := d.tlb.filter (fun t => !(t.world = world && (whole || t.meets page size))),
             noInstall := d.noInstall ++ (walkingAtDie s world die).map (fun r =>
               if whole then (r.id, 0, 2 ^ 48) else (r.id, page * 0x10000 / leafBytes size * leafBytes size, leafBytes size)) })

/-- A request that has a translation and is held, or whose walk is under way. -/
def Req.inTranslation (r : Req) : Bool := r.open_ && (r.pa.isSome || (match r.st with | .walking _ => true | _ => false))
def translatingAtDie (s : State) (world die : Nat) : List Req :=
  s.reqs.filter (fun r => r.inTranslation && ownerIs s r world die)

/-- The `putx` retires when the walks that had begun, and the requests that were translated, have finished. -/
def awaitWalks (s : State) : State :=
  if s.cx.waitEntries.any (fun id => (s.req id).any Req.inTranslation) then s else retire s 4

def dropAndWait (s : State) (die : Nat) (whole : Bool) (page size : Nat) : State :=
  let w := s.cx.world
  let ids := (translatingAtDie s w die).map (·.id)
  awaitWalks ((dropTlb s w die whole page size).modCx (fun c => { c with phase := 1, waitEntries := ids }))

/-- A write of TINV (R262). DEDUCED (log 38). -/
def writeTinv (s : State) (v : Word) : State :=
  let c := s.cx
  if c.phase = 1 then awaitWalks s
  else if bit v 48 || bits v 15 4 ≠ 0 || bit v 1 then retire s 4
  else if bit v 0 then dropAndWait s c.die true 0 0
  else if bits v 3 2 = 3 then retire s 4
  else
    match routeDie s c.die v with
    | some (p, d) => if p = s.pkg then dropAndWait s d false (bits v 47 16) (bits v 3 2) else retire s 4
    | none => retire s 4

/-- A write of S1ROOT acts as a TINV of the whole world. -/
def writeS1root (s : State) (v : Word) : State :=
  let c := s.cx
  if c.phase = 1 then awaitWalks s
  else dropAndWait (s.modWd c.world c.die (fun w => { w with s1root := v &&& 0x0000FFFFFFFF0001#64 })) c.die true 0 0

def execS1rootWrite (a : GReg) (s : State) : Out := issue s (.s1rootWrite a) (fun s => writeS1root s (s.rG a))
def execTinvWrite (a : GReg) (s : State) : Out := issue s (.tinvWrite a) (fun s => writeTinv s (s.rG a))

/-- Word 0 of a page request entry (R259). -/
def pageWord0 (world : Nat) (q : PageReq) : Word := putAt q.page 16 ||| putAt q.stage 6 ||| putAt world 0
/-- Word 1, whose count is fixed at its read. -/
def pageWord1 (s : State) (world die : Nat) (stage id : Nat) : Word :=
  match (s.wd world die).requests.find? (fun q => q.posted && q.stage = stage && q.id = id) with
  | some q =>
    let n := ((parkedAtDie s world die).filter (fun r => r.page = some (q.stage, q.page))).length
    putAt n 32 ||| putAt q.kinds.toNat 16 ||| putAt q.id 0
  | none => putAt id 0

/-- VA bits 63:16 of a stage-1 request: the page with the die that it was sent to. -/
def pageWordVa (s : State) (world die : Nat) (q : PageReq) : Word :=
  pageWord0 world { q with page := q.page + (s.dieAt die).logical.toNat * 2 ^ 33 }

/-- A read of the world's page request queue: word 0 of the oldest unread request, or word 1 of the request removed last.
Through PRQ1 each context reads the two words in turn, of the one request that PRQ1 removed last (R261). DEDUCED (log 36). -/
def readPage (s : State) (world die stage ctx : Nat) : Word × State :=
  let w := s.wd world die
  let half := if stage ≠ 1 then w.pfHalf else if w.halfCtx.contains ctx then w.halfRead else none
  let setHalf (h : Option Word) (x : WorldDie) : WorldDie :=
    if stage ≠ 1 then { x with pfHalf := h }
    else if h.isSome then { x with halfRead := h, halfCtx := ctx :: x.halfCtx }
    else { x with halfCtx := x.halfCtx.filter (· ≠ ctx) }
  match half with
  | some id => (pageWord1 s world die stage id.toNat, s.modWd world die (setHalf none))
  | none =>
    match w.requests.find? (fun q => q.posted && !q.read && q.stage = stage) with
    | none => (0, s)
    | some q =>
      (if stage = 1 then pageWordVa s world die q else pageWord0 world q,
       s.modWd world die (fun x => setHalf (some (BitVec.ofNat 64 q.id))
         { x with requests := x.requests.map (fun y => if y.posted && y.id = q.id then { y with read := true } else y) }))

def execPrq1Read (d : GReg) (s : State) : Out :=
  issue s (.prq1Read d) (fun s =>
    let (v, s1) := readPage s s.cx.world s.cx.die 1 s.cur
    retire (s1.wG d v) 4)

/-- A reply to a request: its accesses are walked again or refused; one that names none is a stray (R260). -/
def answerPage (s : State) (world die stage id : Nat) (refuse : Bool) : State :=
  let w := s.wd world die
  match w.requests.find? (fun q => q.posted && q.stage = stage && q.id = id) with
  | none => s.modWd world die (fun x => { x with stray := satTo (x.stray + 1) 65535 })
  | some q =>
    let mine := (parkedAtDie s world die).filter (fun r => r.page = some (q.stage, q.page))
    let s1 := s.modWd world die (fun x => { x with requests := x.requests.filter (fun y => !(y.posted && y.id = q.id)) })
    mine.foldl (fun st r =>
      if refuse then refuseReq (st.modReq r.id (fun x => { x with st := .sent, page := none })) { r with st := .sent } die 10 0
      else st.modReq r.id (fun x => { x with page := none })) s1

def writePrqreply (s : State) (v : Word) : State :=
  retire (answerPage s s.cx.world s.cx.die 1 (bits v 15 0) (bit v 16)) 4
def execPrqreplyWrite (a : GReg) (s : State) : Out := issue s (.prqreplyWrite a) (fun s => writePrqreply s (s.rG a))

/-- The hypervisor reads a word of the world's page request page (R259). -/
def execPfPageRequestRead (world die : Nat) (s : State) : Out := event s (fun s => (readPage s world die 2 0).2)

/-! ## Stage 2 (R260, R263, R352) -/

/-- A stage-2 leaf: 0 64 KiB, 1 4 MiB, 2 1 GiB. -/
def stage2Leaf (page size : Nat) (perm : BitVec 3) : Word :=
  putAt (page * 65536 / leafBytes size * leafBytes size / 65536) 16 ||| putAt perm.toNat 4 ||| putAt size 2 ||| 1#64

/-- The 64 KiB pages that a leaf covers. -/
def coveredPages (page size : Nat) : List Nat :=
  let n := leafBytes size / 65536
  (List.range n).map (fun i => page / n * n + i)

/-- A page of this die's stacks: dies 0 to 3 hold two stacks of 64 GiB each (R309). -/
def ownHbm (die page : Nat) : Bool := page * 65536 < 0x8000000000 && dieOfLoc (page * 65536) = die

/-- The hypervisor's proposal for a stage-2 request, taken or refused by the SCTL (R260). -/
def execStage2PageReply (world die id page size : Nat) (perm : BitVec 3) (refuse : Bool) (s : State) : Out :=
  event s (fun s =>
    match (s.wd world die).requests.find? (fun q => q.posted && q.stage = 2 && q.id = id) with
    | none => answerPage s world die 2 id refuse
    | some q =>
      let l := coveredPages page size
      let free := l.all (fun p => ownHbm die p && (Tbl.get 0 s.owner p = 0 || Tbl.get 0 s.owner p = world + 1))
      if refuse || 2 < size || !free then answerPage s world die 2 id true
      else
        let s1 := { s with owner := l.foldl (fun o p => Tbl.put 0 o p (world + 1)) s.owner }
        let e := stage2Leaf page size perm
        let s2 := s1.modWd world die (fun w =>
          if size = 2 then { w with stage2g := Tbl.put 0 w.stage2g (q.page / 16384) e }
          else { w with stage2 := Tbl.put 0 w.stage2 q.page e })
        answerPage s2 world die 2 id false)

/-- Bytes of a range become what an unwritten byte reads as. -/
def zeroRange (s : State) (a n : Nat) : State :=
  { s with mem := s.mem.filter (fun p => !(a ≤ p.1 && p.1 < a + n)),
           ues := s.ues.filter (fun u => !(a ≤ u.1 && u.1 < a + n)),
           flips := s.flips.filter (fun u => !(a ≤ u.1 && u.1 < a + n)) }
/-- A range copied, with the state of its granules. -/
def copyRange (s : State) (a b n : Nat) : State :=
  let inside (x : Nat) : Bool := a ≤ x && x < a + n
  let s1 := zeroRange s b n
  let s2 := (s.mem.filter (fun p => inside p.1)).foldl (fun st p => st.setByte (p.1 - a + b) p.2) s1
  { s2 with ues := s2.ues ++ (s.ues.filter (fun u => inside u.1)).map (fun u => (u.1 - a + b, u.2)),
            flips := s2.flips ++ (s.flips.filter (fun u => inside u.1)).map (fun u => (u.1 - a + b, u.2)) }

/-- A page moves within its die (R263): MIG is set and translations go; once every request that was translated before has been
performed and its leases are back, the page is copied and its entry rewritten, and what parked meanwhile is replayed. DEDUCED (log 91). -/
def execMigration (world die page dest : Nat) (s : State) : Out :=
  event s (fun s =>
    let g : Word := Tbl.get 0 (s.wd world die).stage2g (page / 16384)
    let e : Word := if pteV g then g else Tbl.get 0 (s.wd world die).stage2 page
    let size := pteSize e
    let put (st : State) (v : Word) : State := st.modWd world die (fun w =>
      if pteV g then { w with stage2g := Tbl.put 0 w.stage2g (page / 16384) v } else { w with stage2 := Tbl.put 0 w.stage2 page v })
    let l := coveredPages dest size
    if !pteV e || !l.all (fun p => ownHbm die p && Tbl.get 0 s.owner p = world + 1) then s
    else if !pteMig e then
      put (s.modDie die (fun d => { d with tlb := d.tlb.filter (fun t => !(t.world = world &&
        rangesMeet (t.pa, leafBytes t.size) (pteAddr e / leafBytes size * leafBytes size, leafBytes size))) })) (e ||| 0x80#64)
    else
      let from_ := pteAddr e / leafBytes size * leafBytes size
      let to_ := dest * 65536 / leafBytes size * leafBytes size
      let inside (a : Nat) : Bool := from_ ≤ a && a < from_ + leafBytes size
      if s.merges.any (fun m => inside m.1) || s.reqs.any (fun q => q.open_ && q.pa.any inside) || (List.range 48).any (fun c => (s.cluster (die * 48 + c)).leases.any (fun l => inside (64 * l.line)))
      then (List.range 48).foldl (fun st c => st.modCluster (die * 48 + c) (fun x =>
        { x with leases := x.leases.filter (fun l => !inside (64 * l.line)) })) s
      else
      let s1 := copyRange s from_ to_ (leafBytes size)
      put s1 (stage2Leaf dest size (ptePerm e)))

/-- A valid die map entry names a die of this package. -/
def mapNames (s : State) (v : BitVec 32) (die : Nat) : Bool :=
  v.getLsbD 31 && v.extractLsb' 0 16 = 0#16 && (v.extractLsb' 18 13).toNat = s.pkg && (v.extractLsb' 16 2).toNat = die

/-- The supervisor writes a die map entry (R250); the entry of a die's own map that names the die gives its logical number (R249,
R307). DEDUCED (log 112). -/
def execDieMapWrite (die n : Nat) (v : BitVec 32) (s : State) : Out :=
  event s (fun s =>
    if die < 4 ∧ n < 24576 then
      s.modDie die (fun d => { d with dieMap := Tbl.put 0 d.dieMap n v,
                                      logical := if mapNames s v die then BitVec.ofNat 15 n else d.logical })
    else s)

end Sys2Proof.Machine
end

