-- ==== Sys2Proof/Machine/Save.lean ====
section
/-!
DEFINITION. The layout of saved state (06 R167, R168, R173, R179, R183 to R186; 01 R20 to R22; 16 R338): trap registers as
words, context records, save areas, and their reading.
-/
namespace Sys2Proof.Machine

/-! ## Registers as words -/

/-- TCAUSE (R168). -/
def tcauseWord (t : TrapRegs) : Word :=
  putAt t.lost.toNat 32 ||| putAt (if t.active then 1 else 0) 18 ||| putAt (if t.ppriv then 1 else 0) 17 |||
    putAt (if t.async then 1 else 0) 16 ||| putAt t.cause.toNat 0
/-- A write of TCAUSE. -/
def TrapRegs.setTcause (t : TrapRegs) (v : Word) : TrapRegs :=
  { t with lost := v.extractLsb' 32 8, active := bit v 18, ppriv := bit v 17, async := bit v 16, cause := v.truncate 9 }
/-- UPFRAME (R173). -/
def upframeWord (t : TrapRegs) : Word := putAt (if t.busy then 1 else 0) 63
/-- NOTQ (R179). -/
def notqWord (c : Ctx) : Word := putAt (if c.notqOvf then 1 else 0) 63 ||| putAt c.notices.length 0
/-- The state code of a helper slot (R79, R84): 0 free, 1 live, 2 ended. -/
def slotCode (c : Ctx) : Nat :=
  match c.run with
  | .free => 0
  | .ended => 2
  | _ => 1

def wordsBytes (l : List Word) : List Byte := l.flatMap (fun w => leBytes w.toNat 8)
/-- Bytes filled up with zeros to n. -/
def padTo (n : Nat) (l : List Byte) : List Byte := l ++ List.replicate (n - l.length) 0
/-- Word i of a list of bytes. -/
def wordAt (l : List Byte) (off : Nat) : Word := BitVec.ofNat 64 (leValue ((l.drop off).take 8))

/-! ## Context records (R185) -/

/-- HGRANT as a context reads it: in a helper, its own grant (R81). -/
def Ctx.grant (c : Ctx) : BitVec 16 := if c.kind = .helper then c.planes else c.hgrant

/-- A context record of 2 KiB: resident positions that a test keeps, registers, pending causes, notices. DEDUCED (log 42).
TPC is saved as it is, also before an illegal word (R48): DESIGN CHOICE (log 140). -/
def contextRecord (c : Ctx) (keepPos : Nat → Bool) (ba : Bool) : List Byte :=
  let lo := c.wlow.toNat
  let t := c.trap
  let one (b : Bool) : Word := if b then 1 else 0
  padTo 0x200 (wordsBytes ((List.range 64).map (fun i => if keepPos (lo + i) then c.readPos (lo + i) else 0))) ++
  padTo 0x100 (wordsBytes
    [c.pc.zeroExtend 64, c.fb, c.wlow, c.bsp, c.bsl, (if ba then c.ba else 0), c.ast, shapeWord c, c.grant.zeroExtend 64,
     one c.priv, t.tpc.zeroExtend 64, tcauseWord t, t.taddr, t.tinfo, t.tvec.zeroExtend 64, t.upvec.zeroExtend 64,
     upframeWord t, c.pnote.zeroExtend 64, notqWord c, c.exitValue, BitVec.ofNat 64 c.exitReason, one c.restored]) ++
  padTo 0x100 (c.pending.flatMap (fun p => wordsBytes [p.cause.zeroExtend 64, p.taddr, p.tinfo, 0])) ++
  padTo 0x400 (wordsBytes c.notices)

/-- The registers of a context record put into a context. Pending causes and notices are those listed. -/
def Ctx.fromRecord (c : Ctx) (l : List Byte) : Ctx :=
  let w (i : Nat) : Word := wordAt l (0x200 + 8 * i)
  let lo := (w 2).toNat
  let c1 := (List.range 64).foldl (fun (x : Ctx) i => x.writePos (lo + i) (wordAt l (8 * i))) { c with regs := [] }
  let pend := (List.range 8).filterMap (fun i =>
    let q := wordAt l (0x300 + 32 * i)
    if q = 0 then none
    else some ({ cause := q.truncate 9, taddr := wordAt l (0x308 + 32 * i), tinfo := wordAt l (0x310 + 32 * i) } : PCause))
  let n := bits (w 18) 6 0
  { c1 with
    pc := (w 0).truncate 48, fb := w 1, wlow := w 2, bsp := w 3, bsl := w 4, ba := w 5, ast := w 6,
    planes := (w 7).extractLsb' 32 16, rows := bits (w 7) 21 16, cols := bits (w 7) 6 0, hgrant := (if c.kind = .helper then c.hgrant else (w 8).truncate 16),
    priv := bit (w 9) 0,
    trap := { (c.trap.setTcause (w 11)) with tpc := (w 10).truncate 48, taddr := w 12, tinfo := w 13,
                                             tvec := (w 14).truncate 48, upvec := (w 15).truncate 48, busy := bit (w 16) 63 },
    pnote := (w 17).truncate 32, notqOvf := bit (w 18) 63, exitValue := w 19, exitReason := (w 20).toNat,
    restored := bit (w 21) 0, pending := pend,
    notices := (List.range n).map (fun i => wordAt l (0x400 + 8 * i)) }

/-! ## The live mask of a save (R20 to R22, R183) -/

/-- What a save keeps of the control context, planes and masks. -/
structure SavePlan where
  partial_ : Bool
  scalar : Nat
  planes : Nat
  ks : Nat
  ba : Bool
  deriving DecidableEq, Repr

def SavePlan.full : SavePlan :=
  { partial_ := false, scalar := 0xFFFFFFFF, planes := 0xFFFF, ks := 0xFF, ba := true }

/-- The number at a byte of a cached image's output window; bytes that cannot be read count as 0, so that a save is full (R22).
DESIGN CHOICE (log 139). -/
def imageField (s : State) (m : CachedImage) (off n : Nat) : Nat :=
  ((vaRead s m.world m.die (m.window + BitVec.ofNat 64 off) n).map leValue).getD 0

/-- The admitted image that holds a PC. -/
def imageAt (s : State) (world die : Nat) (pc : Nat) : Option CachedImage :=
  s.images.find? (fun m => m.world = world && m.die = die && bits m.codeVa 47 0 ≤ pc &&
    pc < bits m.codeVa 47 0 + 4 * imageField s m 4 4)

/-- What a save reads of the image that it stopped in, as the ECC of its granules sees it (R318). -/
def planReads (s : State) (c : Ctx) : State :=
  match imageAt s c.world c.die c.pc.toNat with
  | none => s
  | some m =>
    let rd (st : State) (off n : Nat) : State := unitEcc st m.world m.die (m.window + BitVec.ofNat 64 off) n
    rd (rd (rd s 0 32) (imageField s m 16 4) (8 * imageField s m 20 4)) (imageField s m 24 4) (16 * imageField s m 28 4)

/-- The plan of the save of a control context stopped at its PC. -/
def savePlan (s : State) (c : Ctx) : SavePlan :=
  match imageAt s c.world c.die c.pc.toNat with
  | none => SavePlan.full
  | some m =>
    let off := (c.pc.toNat - bits m.codeVa 47 0) / 4
    let sp := imageField s m 16 4
    let lm := imageField s m 24 4
    if !(List.range (imageField s m 20 4)).any (fun i => imageField s m (sp + 8 * i) 4 = off) then SavePlan.full
    else
      match (List.range (imageField s m 28 4)).find? (fun i => imageField s m (lm + 16 * i) 4 = off) with
      | none => SavePlan.full
      | some i =>
        { partial_ := true, scalar := imageField s m (lm + 16 * i + 4) 4, planes := imageField s m (lm + 16 * i + 8) 2,
          ks := imageField s m (lm + 16 * i + 10) 1, ba := imageField s m (lm + 16 * i + 11) 1 % 2 = 1 }

/-! ## The save area (R184, R185) -/

def maskBytes (m : BitVec 4096) : List Byte := leBytes m.toNat 512
/-- Plane p row-major. -/
def planeBytes (s : State) (core p : Nat) : List Byte :=
  (List.range 2048).flatMap (fun i => leBytes (Tbl.get (0 : Word32) (s.core core).planes (p * 2048 + i)).toNat 4)

def journalRecord (e : JEntry) : List Byte :=
  padTo 128 (leBytes e.data.toNat 64 ++
    wordsBytes [e.gran, e.mask, e.phase.zeroExtend 64, BitVec.ofNat 64 e.ctxSlot, e.pc.zeroExtend 64])
/-- A node with the rank of its age. DEDUCED (log 40). -/
def nodeRecord (n : Node) (rank : Nat) : List Byte :=
  padTo 128 (wordsBytes [n.word.zeroExtend 64, n.a, n.b, n.pc.zeroExtend 64, BitVec.ofNat 64 n.ctxSlot, BitVec.ofNat 64 rank,
    n.done ||| n.gone])
/-- An entry of the message ring (R380). -/
def ringRecord (m : RecvMsg) : List Byte :=
  padTo 128 (padTo 64 m.data ++ leBytes m.sender.toNat 4 ++ [BitVec.ofNat 8 m.len, BitVec.ofNat 8 m.slot, 1, 0]
    ++ leBytes m.time.toNat 8)

/-- The slots of a core in the order of a save: control, then helpers 0 to 9. -/
def savedSlots : List Nat := List.range 11

/-- The planes that a save keeps: all, or those live for the control context or granted to a live helper. -/
def savedPlanes (s : State) (core : Nat) (p : SavePlan) : Nat :=
  if !p.partial_ then 0xFFFF
  else (List.range 10).foldl (fun m h =>
    let c := s.ctx (core * 16 + 1 + h)
    if slotCode c = 1 then m ||| c.planes.toNat else m) p.planes

/-- The regions of a save area: offset and bytes. A partial save keeps the positions below FB and the live ones of the window
(R185). -/
def saveRegions (s : State) (core : Nat) (atYield : Bool) : List (Nat × List Byte) :=
  let co := s.core core
  let ctl := s.ctx (core * 16)
  let p := savePlan s ctl
  let ages := co.siding.map (·.age)
  let planes := savedPlanes s core p
  let one (b : Bool) (n : Nat) : Nat := if b then 2 ^ n else 0
  let header := wordsBytes
    [0x45564153#64,
     BitVec.ofNat 64 (one p.partial_ 0 + one atYield 1 + co.siding.length * 2 ^ 8 + co.journal.length * 2 ^ 16
       + co.phase.toNat * 2 ^ 32),
     BitVec.ofNat 64 (if p.partial_ then p.scalar else 0xFFFFFFFF),
     BitVec.ofNat 64 (planes + p.ks / 2 % 128 * 2 ^ 16 + one p.ba 24),
     (List.range 10).foldl (fun w h => w ||| putAt (slotCode (s.ctx (core * 16 + 1 + h))) (2 * h)) 0,
     co.saveAt]
  let keep (slot : Nat) (c : Ctx) (pos : Nat) : Bool :=
    !(p.partial_ && slot = 0) || pos ≤ c.fb.toNat || (pos < c.fb.toNat + 32 && p.scalar.testBit (pos - c.fb.toNat))
  let records := savedSlots.map (fun n =>
    let c := s.ctx (core * 16 + n)
    (0x1000 + 0x800 * n, if n ≠ 0 && slotCode c = 0 then List.replicate 0x800 (0 : Byte)
                         else contextRecord c (keep n c) (p.ba || n ≠ 0)))
  let masks := savedSlots.flatMap (fun n =>
    let c := s.ctx (core * 16 + n)
    (List.range 7).map (fun i =>
      (0x8000 + 512 * (7 * n + i),
       if n ≠ 0 || p.ks.testBit (i + 1) then maskBytes (c.mask (i + 1)) else List.replicate 512 (0 : Byte))))
  let siding := (List.range 32).map (fun q =>
    (0x14000 + 128 * q,
     match co.siding.find? (fun n => n.slot = q) with
     | some n => nodeRecord n (ages.filter (· < n.age)).length
     | none => List.replicate 128 (0 : Byte)))
  let ring := (List.range 64).map (fun i =>
    (0x15000 + 128 * i, match co.recvQ[i]? with | some m => ringRecord m | none => List.replicate 128 (0 : Byte)))
  let journal := (List.range 512).map (fun i =>
    (0x20000 + 128 * i, match co.journal[i]? with | some e => journalRecord e | none => List.replicate 128 (0 : Byte)))
  let pl := (List.range 16).map (fun q =>
    (0x30000 + 8192 * q, if planes.testBit q then planeBytes s core q else List.replicate 8192 (0 : Byte)))
  [(0, padTo 0x1000 header)] ++ records ++ [(0x6800, List.replicate 0x1800 0)] ++ masks ++ [(0x11A00, List.replicate 0x2600 0)]
    ++ siding ++ ring ++ [(0x17000, List.replicate 0x9000 0)] ++ journal ++ pl

/-- The VA that SAVEP gives. -/
def savepVa (co : Core) : Word := co.savep.zeroExtend 64 <<< 16

/-- Regions written for a world by a unit of a die; one that is refused is logged and stays unwritten. DEDUCED (log 41). -/
def writeRegions (s : State) (world die : Nat) (at_ : Word) (l : List (Nat × List Byte)) : State :=
  l.foldl (fun st r => (unitWrite st world die (at_ + BitVec.ofNat 64 r.1) r.2).2) s
/-- n bytes of a save area; zeros where the read is refused. -/
def readRegion (s : State) (world die : Nat) (at_ : Word) (off n : Nat) : List Byte :=
  (vaRead s world die (at_ + BitVec.ofNat 64 off) n).getD (List.replicate n 0)

/-! ## Reading a save area back (R186) -/

def journalFrom (s : State) (slot : Nat) (l : List Byte) : JEntry :=
  { id := s.nextId, slot := slot, gran := wordAt l 64, mask := wordAt l 72, data := BitVec.ofNat 512 (leValue (l.take 64)),
    phase := (wordAt l 80).truncate 16, ctxSlot := (wordAt l 88).toNat, pc := (wordAt l 96).truncate 48, instr := s.nextId,
    elems := [firstByte (wordAt l 64) (wordAt l 72)], parkedAt := none, noticed := false, st := .resting, req := none }

def nodeFrom (slot : Nat) (l : List Byte) : Node :=
  let word : Word32 := (wordAt l 0).truncate 32
  let a := wordAt l 8
  { slot := slot, word := word, cls := word.extractLsb' 7 3, func := word.extractLsb' 0 7, a := a, b := wordAt l 16,
    ctxSlot := (wordAt l 32).toNat, pc := (wordAt l 24).truncate 48, age := (wordAt l 40).toNat,
    nsub := (bits a 34 32 + 1) * (bits a 37 35 + 1), done := wordAt l 48, out := 0, gone := 0, faulted := false, holds := [] }

def ringFrom (l : List Byte) : RecvMsg :=
  let n := ((l[68]?).getD 0).toNat
  { slot := ((l[69]?).getD 0).toNat, sender := BitVec.ofNat 32 (leValue ((l.drop 64).take 4)), len := n,
    data := l.take n, time := wordAt l 72 }

/-- The nodes of a save area in order of age. -/
def insertNode (n : Node) : List Node → List Node
  | [] => [n]
  | m :: t => if n.age ≤ m.age then n :: m :: t else m :: insertNode n t

/-- What a restore gives one context of a core: its record, its masks. -/
def restoreCtx (s : State) (core : Nat) (at_ : Word) (slot code : Nat) (kmask : Nat) : State :=
  let k := core * 16 + slot
  let world := (s.core core).world
  let die := core / 192
  if code = 0 then s
  else
    let rec_ := readRegion s world die at_ (0x1000 + 0x800 * slot) 0x800
    s.modCtx k (fun c =>
      let c0 := { c with kind := (if slot = 0 then .control else .helper), run := (if code = 2 then .ended else .live),
                         world := world, die := die, cluster := core / 4 % 48, core := core % 4, slot := slot,
                         pulse := s.clk }
      let c1 := c0.fromRecord rec_
      (List.range 7).foldl (fun (x : Ctx) i =>
        if slot ≠ 0 || kmask.testBit i then
          x.setMask (i + 1) (BitVec.ofNat 4096 (leValue (readRegion s world die at_ (0x8000 + 512 * (7 * slot + i)) 512)))
        else x) c1)

/-- The parts of a save area that cannot be read, by their first granules, are logged. -/
def logUnread (s : State) (world die : Nat) (at_ : Word) : State :=
  [0x0, 0x1000, 0x8000, 0x14000, 0x15000, 0x20000, 0x30000].foldl (fun st off =>
    (unitRead st world die (at_ + BitVec.ofNat 64 off) 64).2) s

/-- THE RESTORE of a core from its save area (R186): contexts, siding, journal, planes, the message ring. -/
def restoreCore (s0 : State) (core : Nat) : State :=
  let co := s0.core core
  let at_ := savepVa co
  let die := core / 192
  let s := logUnread s0 co.world die at_
  let rd (off n : Nat) : List Byte := readRegion s co.world die at_ off n
  let h := rd 0 0x1000
  let planes := bits (wordAt h 24) 15 0
  let kmask := bits (wordAt h 24) 22 16
  let codes := wordAt h 32
  let nodes := ((List.range 32).filterMap (fun q =>
    let l := rd (0x14000 + 128 * q) 128
    if l.all (· = 0) then none else some (nodeFrom q l))).foldr insertNode []
  let s1 := savedSlots.foldl (fun st n =>
    restoreCtx st core at_ n (if n = 0 then 1 else bits codes (2 * (n - 1) + 1) (2 * (n - 1))) (if n = 0 then kmask else 127)) s
  let s2 := (List.range (bits (wordAt h 8) 25 16)).foldl (fun st i =>
    let e := journalFrom st i (rd (0x20000 + 128 * i) 128)
    { st with nextId := st.nextId + 1 }.modCore core (fun c => { c with journal := c.journal ++ [e] })) s1
  let s3 := (List.range 16).foldl (fun st p =>
    if planes.testBit p then
      let l := rd (0x30000 + 8192 * p) 8192
      st.modCore core (fun c => { c with planes := (List.range 2048).foldl (fun t i =>
        Tbl.put 0 t (p * 2048 + i) (BitVec.ofNat 32 (leValue ((l.drop (4 * i)).take 4)))) c.planes })
    else st) s2
  let nodes := nodes.map (fun n => { n with orphan := (s3.ctx (core * 16 + n.ctxSlot)).run ≠ .live })
  let s4 := (nodes.filter (fun n => !n.orphan)).foldl (fun st n => st.modCtx (core * 16 + n.ctxSlot) (fun c => { c with tiles := c.tiles + 1 })) s3
  let msgs := (List.range 64).filterMap (fun i =>
    let l := rd (0x15000 + 128 * i) 128
    if l[70]? = some 1 then some (ringFrom l) else none)
  (s4.modCore core (fun c =>
    { c with siding := nodes, nextAge := nodes.length, phase := (wordAt h 8).extractLsb' 32 16, recvQ := msgs.take 32,
             ringNext := 32, ringEnd := msgs.length }))

/-! ## Superstep log areas (R338) -/

/-- A superstep's header, context record and masks, written to its log area for the state after the arrival. -/
def writeLogHead (s : State) (core : Nat) (at_ : Word) (number : Nat) (next : BitVec 48) : State :=
  let c := { s.ctx (core * 16) with pc := next }
  let w := (s.core core).world
  writeRegions s w (core / 192) at_
    ([(0, padTo 0x800 (wordsBytes [BitVec.ofNat 64 number, 0, 0])), (0x800, contextRecord c (fun _ => true) true)] ++
      (List.range 7).map (fun i => (0x1000 + 512 * i, maskBytes (c.mask (i + 1)))) ++ [(0x1E00, List.replicate 0x200 0)])

end Sys2Proof.Machine
end

