-- ==== Sys2Proof/Machine/Sync.lean ====
section
/-!
DEFINITION. Phases, barriers, `publish` and futures (07 R193 to R211; 16 R339, R340), with the acknowledgement of a drained
entry, which barriers watch.
-/
namespace Sys2Proof.Machine

/-! ## Groups (R194 to R196) -/

/-- The member cores of a mask at a scope, seen from a core, in order of (die, cluster, core). -/
def maskCores (scope core : Nat) (m : Word) : List Nat :=
  let cores := (List.range 4).filter (fun i => bit m (48 + i))
  let clusters := (List.range 48).filter (fun i => bit m i)
  let of (d : Nat) : List Nat := clusters.flatMap (fun c => cores.map (coreKeyOf d c))
  match scope with
  | 1 => cores.map (core / 4 * 4 + ·)
  | 2 => of (core / 192)
  | _ => ((List.range 4).filter (fun d => bit m (52 + d))).flatMap of

/-- Bits of BMASK that a scope does not use. -/
def maskExtra (scope : Nat) (m : Word) : Bool :=
  bits m 63 56 ≠ 0 || (scope ≠ 3 && bits m 55 52 ≠ 0) || (scope = 1 && bits m 47 0 ≠ 0)

/-- The gang of a core spans the node of a scope (R195). -/
def spansNode (s : State) (scope core : Nat) : Bool := (spannedNodes (gangOf s core)).contains (nodeOf scope core)

/-- A value that `bmask` takes (R200). -/
def maskOk (s : State) (scope core : Nat) (m : Word) : Bool :=
  let l := maskCores scope core m
  !maskExtra scope m && l ≠ [] && l.all (gangOf s core).contains && spansNode s scope core

def groupAt (scope core g : Nat) : Nat := groupKey (nodeOf scope core) g

/-- Nothing is under way at a group: its mask may change. -/
def Group.idle (g : Group) : Bool := g.state = 0 && g.arrived = []

def bmaskWrite (s : State) (scope core g : Nat) (m : Word) : State :=
  s.modGroup (groupAt scope core g) (fun x => { x with mask := m })
def bstepWrite (s : State) (scope core g n : Nat) : State :=
  s.modGroup (groupAt scope core g) (fun x => { x with step := n })

/-- BSTATE (R196). -/
def bstateWord (g : Group) : Word :=
  putAt g.gen.toNat 48 ||| putAt g.step 44 ||| putAt g.state 40 ||| putAt g.arrived.length 30 ||| putAt g.drained.length 20

/-- The scope, the group and the kind (BSTATE: true) of a group register. -/
def groupReg (r : Nat) : Option (Nat × Nat × Bool) :=
  if 0x200 ≤ r ∧ r ≤ 0x207 then some (1, (r - 0x200) / 2, r % 2 = 1)
  else if 0x300 ≤ r ∧ r ≤ 0x31F then some (2, (r - 0x300) / 2, r % 2 = 1)
  else if 0x320 ≤ r ∧ r ≤ 0x33F then some (3, (r - 0x320) / 2, r % 2 = 1)
  else none

/-- A `putx` to a group register (R196): what `bmask` or `bstep` would do, or nothing. -/
def writeGroupReg (s : State) (r : Nat) (v : Word) : State :=
  let core := s.cx.coreKey
  match groupReg r with
  | none => s
  | some (scope, g, false) =>
    if maskOk s scope core v && (s.group (groupAt scope core g)).idle then bmaskWrite s scope core g v else s
  | some (scope, g, true) => if spansNode s scope core then bstepWrite s scope core g (bits v 47 44) else s

def execGroupRegisterWrite (a : GReg) (r : BitVec 12) (s : State) : Out :=
  issue s (.groupRegisterWrite a r) (fun s => retire (writeGroupReg s r.toNat (s.rG a)) 4)

/-! ## bmask and bstep (R200, R201) -/

/-- TINFO of the class-5 causes. -/
def raise5 (s : State) (i : Instr) (k : Cause) (taddr : Word) : State := raiseHere s k taddr (firstWord i)

def execBmask (d a : SReg) (sc : BitVec 3) (g : BitVec 4) (s : State) : Out :=
  let i := Instr.bmask d a sc g
  issue s i (fun s =>
    let core := s.cx.coreKey
    let v := s.rS a
    if !maskOk s sc.toNat core v then raise5 s i 0x0A4#9 v
    else if (s.group (groupAt sc.toNat core g.toNat)).idle then
      retire ((bmaskWrite s sc.toNat core g.toNat v).wS d 1) 4
    else retire (s.wS d 0) 4)

def execBstep (d a : SReg) (sc : BitVec 3) (g : BitVec 4) (s : State) : Out :=
  let i := Instr.bstep d a sc g
  issue s i (fun s =>
    let core := s.cx.coreKey
    let v := s.rS a
    if 15 < v.toNat || !spansNode s sc.toNat core then raise5 s i 0x0A4#9 v
    else
      let s1 := s.wS d (BitVec.ofNat 64 (s.group (groupAt sc.toNat core g.toNat)).step)
      retire (bstepWrite s1 sc.toNat core g.toNat (s1.rS a).toNat) 4)

/-! ## arrive (R197, R339, R340) -/

def findArrival (c : Ctx) (scope g : Nat) : Option Arrival := c.arrivals.find? (fun a => a.scope = scope && a.group = g)

/-- The narrowest scope whose node holds every core of a gang (R339). -/
def gangScope (gang : List Nat) : Nat :=
  if countOf (gang.map (· / 4)) ≤ 1 then 1 else if countOf (gang.map (· / 192)) ≤ 1 then 2 else 3

/-- The reason of cause 0x162 (R339), the lowest that applies. DEDUCED (log 25). -/
def snapReason (s : State) (core scope : Nat) : Option Nat :=
  let j := jobOn s core
  let cl := s.cluster (core / 4)
  if (j.bind (·.snap)).isNone then some 1
  else if scope ≠ gangScope (gangOf s core) || j.any (fun x => 1 < x.lpb.gpkgs) then some 2
  else if (List.range 10).any (fun h => slotCode (s.ctx (core * 16 + 1 + h)) ≠ 0) then some 3
  else if (s.core core).siding ≠ [] || cl.copies.any (fun x => x.core = core) || cl.tasks.any (fun x => x.core = core) then some 4
  else if (twinOn s core).isSome then some 5
  else none

/-- A superstep opens at a member (R340): the one that is open waits for its closing barrier. -/
def openSnap (s : State) (core scope g : Nat) (closed : BitVec 16) : State :=
  s.modCore core (fun c =>
    { c with
      older := if c.snap.isOpen then some { c.snap with closing := some closed } else c.older
      snap := { Snap.empty with isOpen := true, number := c.snap.number + 1, rbcnt := c.snap.rbcnt, scope := scope,
                                group := g, closed := closed } })

/-- The head of the next log area cannot be written yet: the arrival waits for its page (R340). -/
def snapWaits (s : State) (core : Nat) : Option State :=
  match (jobOn s core).bind (·.snap) with
  | none => none
  | some m => unitWaits s (s.core core).world (core / 192) permW (logArea m (rankIn (gangOf s core) core) ((s.core core).snap.number + 1)) 0x2000

/-- Its log area receives the context after the arrival; an area that cannot be written makes it unrecoverable. -/
def logSnap (s : State) (core : Nat) (next : BitVec 48) : State :=
  match (jobOn s core).bind (·.snap) with
  | none => s
  | some m =>
    let n := (s.core core).snap.number
    let at_ := logArea m (rankIn (gangOf s core) core) n
    if (vaLoc s (s.core core).world (core / 192) permW at_).isNone then unrecoverable s core
    else writeLogHead s core at_ n next

/-- An arrival at the group of the open superstep without `.ss` closes it. -/
def closeSnap (s : State) (core scope g : Nat) (closed : BitVec 16) : State :=
  s.modCore core (fun c =>
    if c.snap.isOpen && c.snap.scope = scope && c.snap.group = g then { c with snap := { c.snap with closing := some closed } } else c)

/-- The physical unit of a core. -/
def unitOfCore (s : State) (core : Nat) : Nat := coreUnit (core / 192) (core / 4 % 48) (physCore s (core / 192) (core / 4 % 48) (core % 4))

/-- A barrier signal of a member goes to the other members of its group (R332). -/
def State.signalGroup (s : State) (core key scope : Nat) : State :=
  s.noteSignals (unitOfCore s core) (((maskCores scope core (s.group key).mask).filter (· ≠ core)).map (unitOfCore s))

/-- An accepted arrival: the phase closes, the core joins the arrived set. -/
def acceptArrival (s : State) (core scope g : Nat) : State :=
  let closed := (s.core core).phase
  let a : Arrival := { scope := scope, group := g, closed := closed, entries := [], refused := false, signalled := false,
                       released := none }
  let s1 := s.signalGroup core (groupAt scope core g) scope
  ((s1.modCx (fun c => { c with arrivals := c.arrivals ++ [a] })).modCore core (fun c => { c with phase := closed + 1 })).modGroup
    (groupAt scope core g) (fun x =>
      { x with state := 1, arrived := x.arrived ++ [core], stepNow := x.step, lastArrive := s.clk })

def execArrive (d : SReg) (sc : BitVec 3) (g : BitVec 4) (x : BitVec 1) (s : State) : Out :=
  let i := Instr.arrive d sc g x
  issue s i (fun s =>
    let core := s.cx.coreKey
    let scope := sc.toNat
    let grp := g.toNat
    let place : Word := BitVec.ofNat 64 (scope * 16 + grp)
    let closed := (s.core core).phase
    if !(maskCores scope core (s.group (groupAt scope core grp)).mask).contains core || (findArrival s.cx scope grp).isSome then
      if d = 0 then raise5 s i 0x0A2#9 place else retire (s.wS d 0) 4
    else if x = 1 then
      if grp ≠ 0 then raise5 s i 0x0A6#9 place
      else
        match snapReason s core scope with
        | some r =>
          let (v, s1) := s.freeVal
          raiseHere s1 0x162#9 v (tinfoReason i r)
        | none =>
          match snapWaits s core with
          | some s1 => s1
          | none =>
            let s1 := openSnap ((acceptArrival s core scope grp).wS d 1) core scope grp closed
            retire (logSnap s1 core (s.cx.pc + 4)) 4
    else retire (closeSnap ((acceptArrival s core scope grp).wS d 1) core scope grp closed) 4)

/-! ## The barrier (R198, R199) -/

/-- L_a and L_c of a node. -/
def scopeOfNode (node : Nat) : Nat := if node < 192 then 1 else if node < 300 then 2 else 3
def latA (node : Nat) : Nat := match scopeOfNode node with | 1 => 1 | 2 => 4 | _ => 17
def latC (node : Nat) : Nat := match scopeOfNode node with | 1 => 2 | 2 => 5 | _ => 19
/-- A core under a node, to read a mask from. -/
def coreUnder (node : Nat) : Nat := if node < 192 then node * 4 else if node < 300 then (node - 200) * 192 else 0
/-- The members of a group of a node, in order. -/
def membersOf (s : State) (node g : Nat) : List Nat :=
  maskCores (scopeOfNode node) (coreUnder node) (s.group (groupKey node g)).mask

/-- The arrival of a member's control context at a group changes. -/
def modArrival (s : State) (core scope g : Nat) (f : Arrival → Arrival) : State :=
  s.modCtx (core * 16) (fun c =>
    { c with arrivals := c.arrivals.map (fun a => if a.scope = scope && a.group = g then f a else a) })

/-- A core whose closed-phase entries have all been acknowledged signals drained, at every group that drains.
DEDUCED (log 23). -/
def signalDrained (s : State) (core : Nat) : State :=
  ((s.ctx (core * 16)).arrivals).foldl (fun st a =>
    let key := groupAt a.scope core a.group
    if (st.group key).state = 2 && !a.signalled && a.released.isNone &&
        !((st.core core).journal.any (fun e => phaseClosed e.phase a.closed)) then
      (modArrival (st.signalGroup core key a.scope) core a.scope a.group (fun y => { y with signalled := true })).modGroup key (fun x =>
        { x with drained := x.drained ++ [core], lastSignal := st.clk })
    else st) s

/-- A member learns that all have arrived: its closed-phase entries that rest leave in a drain. Only they count for the status of its
`wait` (R199): an older entry for one of their granules has left before. -/
def memberDrains (s : State) (node g core : Nat) : State :=
  let scope := scopeOfNode node
  match findArrival (s.ctx (core * 16)) scope g with
  | none => s
  | some a =>
    let mine (e : JEntry) : Bool := e.st = .resting && phaseClosed e.phase a.closed
    let ids := ((s.core core).journal.filter mine).map (·.id)
    signalDrained (modArrival (drain s core mine).2 core scope g (fun y => { y with entries := ids })) core

/-- The members of a group are on their cores with their arrivals: while one is saved its barrier stands still (R202).
DEDUCED (log 117). -/
def membersHere (s : State) (node g : Nat) (ms : List Nat) : Bool :=
  ms.all (fun k => (findArrival (s.ctx (k * 16)) (scopeOfNode node) g).isSome)

/-- t + L_a: the group drains. -/
def execBarrierDrainStart (node group : Nat) (s : State) : Out :=
  event s (fun s =>
    let x := s.group (groupKey node group)
    let ms := membersOf s node group
    if x.state = 1 && ms.all x.arrived.contains && x.lastArrive + latA node ≤ s.clk && membersHere s node group ms then
      ms.foldl (fun st k => memberDrains st node group k) (s.modGroup (groupKey node group) (fun y => { y with state := 2 }))
    else s)

/-- The supersteps that a completed barrier of a member ends (R340). -/
def endSnaps (s : State) (core : Nat) (closed : BitVec 16) : State :=
  s.modCore core (fun c =>
    { c with older := (if c.older.any (fun o => o.closing = some closed) then none else c.older)
             snap := (if c.snap.closing = some closed then { c.snap with isOpen := false, closing := none } else c.snap) })

/-- A completed barrier at a member of rank q. -/
def releaseMember (s : State) (node g core q : Nat) (gen : BitVec 16) (c step : Nat) : State :=
  let scope := scopeOfNode node
  match findArrival (s.ctx (core * 16)) scope g with
  | none => s
  | some a => modArrival (endSnaps s core a.closed) core scope g (fun y => { y with released := some (gen, c + q * step) })

/-- The barrier would end a superstep of a member that a rollback undoes: it stands still until the rollback (R341). -/
def endsRolled (s : State) (node g core : Nat) : Bool :=
  (sliceOn s core).any (fun x => x.st = .rolling) &&
    (findArrival (s.ctx (core * 16)) (scopeOfNode node) g).any (fun a => (openSnaps (s.core core)).any (fun o => o.closing = some a.closed))

/-- L_c after the last drained signal: the barrier completes. -/
def execBarrierComplete (node group : Nat) (s : State) : Out :=
  event s (fun s =>
    let key := groupKey node group
    let x := s.group key
    let ms := membersOf s node group
    let c := x.lastSignal + latC node
    if x.state = 2 && ms.all x.drained.contains && c ≤ s.clk && membersHere s node group ms && !ms.any (endsRolled s node group) then
      let gen := x.gen + 1
      (ms.zip (List.range ms.length)).foldl (fun st p => releaseMember st node group p.1 p.2 gen c x.stepNow)
        (s.modGroup key (fun y => { y with gen := gen, state := 0, arrived := [], drained := [] }))
    else s)

/-- The status of a `wait`. -/
def waitStatus (a : Arrival) (gen : BitVec 16) : Word := putAt (if a.refused then 1 else 0) 16 ||| gen.zeroExtend 64

/-- The `wait` of the issuing context returns if its barrier has completed and its stagger has passed; otherwise it is under way
(phase 1). -/
def waitReturn (s : State) (d : SReg) (a : Arrival) : State :=
  match a.released with
  | none => s.modCx (fun c => { c with phase := 1 })
  | some (gen, due) =>
    if s.clk < due then s.modCx (fun c => { c with phase := 1 })
    else
      let st := waitStatus a gen
      let core := s.cx.coreKey
      let s1 := s.modCore core (fun c =>
        if c.snap.isOpen && c.snap.closed = a.closed then { c with snap := { c.snap with waited := some st } } else c)
      retire ((s1.modCx (fun c =>
        { c with arrivals := c.arrivals.filter (fun y => !(y.scope = a.scope && y.group = a.group)) })).wS d st) 4

def waitAct (i : Instr) (d : SReg) (scope g : Nat) (s : State) : State :=
  match findArrival s.cx scope g with
  | none => raise5 s i 0x0A3#9 (BitVec.ofNat 64 (scope * 16 + g))
  | some a => waitReturn s d a

/-- A context waits in a `wait` for a barrier whose drain had a refused entry: the 0x041 of the refusal is taken after the `wait` has
returned (R202). -/
def inRefusedWait (c : Ctx) : Bool :=
  c.phase = 1 &&
    (match c.fetched with
     | w :: _ => (match decode w 0 with | .ok (.wait _ sc g) => (findArrival c sc.toNat g.toNat).any (·.refused) | _ => false)
     | [] => false)

def execWait (d : SReg) (sc : BitVec 3) (g : BitVec 4) (s : State) : Out :=
  let i := Instr.wait d sc g
  issue s i (waitAct i d sc.toNat g.toNat)

/-- A `wait` under way returns at c + q × STEP, as it does when it issues again. -/
def execBarrierWaitRelease (ctx : Nat) (s : State) : Out :=
  event s (fun s =>
    let c := s.ctx ctx
    if c.run ≠ .live then s
    else
      match c.fetched with
      | [] => s
      | w :: _ =>
        match decode w 0 with
        | .ok (.wait d sc g) =>
          match gate { s with cur := ctx } (.wait d sc g), findArrival c sc.toNat g.toNat with
          | .go, some a => { waitReturn { s with cur := ctx } d a with cur := s.cur }
          | _, _ => s
        | _ => s)

/-! ## The acknowledgement of a drained entry (R148, R198, R202) -/

/-- The acknowledgement frees the entry, the stores counter falls, and entries held back leave; a barrier learns of it. -/
def execDrainAck (core entry : Nat) (s : State) : Out :=
  event s (fun s =>
    match s.entry core entry with
    | none => s
    | some e =>
      if e.st ≠ .performed ∧ e.st ≠ .refused then s
      else
        let s0 := (e.req.map (fun q => s.takeEffect q true)).getD s
        let s1 := s0.modCore core (fun c => { c with journal := c.journal.filter (fun x => x.id ≠ entry) })
        let s2 := s1.modCtx (entryCtx core e) (fun c => { c with stores := c.stores - 1, pulse := s.clk })
        let s3 := leaveAll (reportStores s2 core e (e.st = .refused)) core
        let s4 := if e.st = .refused then
            s3.modCtx (core * 16) (fun c => { c with arrivals := c.arrivals.map (fun a =>
              if a.entries.contains entry then { a with refused := true } else a) })
          else s3
        signalDrained s4 core)

/-! ## publish (R204) -/

def execPublish (sc : BitVec 3) (s : State) : Out :=
  issue s (.publish sc) (fun s =>
    if s.cx.phase = 0 then
      let (ids, s1) := publishDrain s sc.toNat
      if ids = [] then retire s1 4 else s1.modCx (fun c => { c with phase := 1, waitEntries := ids })
    else if acked s s.cx.coreKey s.cx.waitEntries then retire (s.modCx (fun c => { c with owed := [] })) 4
    else s)

/-! ## Futures (R206 to R209) -/

/-- The address of a cell: CHECKVA(va, 16), then the limit (R206). -/
def futureCause (s : State) (c : Ctx) (va : Word) (own : Bool) : Option Cause :=
  match checkVa va 16 with
  | some k => some k
  | none =>
    let inCm := vaDie va ≠ 0x7FFF && vaScratch va && vaLevel va = 1
    match routeDie s c.die va with
    | some (p, d) =>
      if inCm && p = s.pkg && (!own || (d = c.die && vaCluster va = c.cluster)) then none else some 0x0A5#9
    | none => some 0x0A5#9

/-- TINFO of a future's cause: that of class 1, or of class 5. -/
def futureInfo (i : Instr) (k : Cause) : Word := if k = 0x0A5#9 then firstWord i else tinfo1 i 16 false

/-- The fill of a context that is under way, by the PC of its `ffill`. DEDUCED (log 28). -/
def fillOf (s : State) (k : Nat) (pc : BitVec 48) : Option Req :=
  s.reqs.find? (fun r => r.ctx = k && r.elem = pc.toNat && (match r.kind with | .fill _ => true | _ => false))

def execFfill (d a : SReg) (s : State) : Out :=
  let i := Instr.ffill d a
  issue s i (fun s =>
    let c := s.cx
    match fillOf s s.cur c.pc with
    | some r =>
      match r.st with
      | .replied v _ _ => retire ((s.dropReq r.id).wS d (BitVec.ofNat 64 v)) 4
      | _ => s
    | none =>
      let va := s.rS a
      match futureCause s c va false with
      | some k => raiseHere s k va (futureInfo i k)
      | none => sendReq s (.fill (s.rS d)) 0 c.pc.toNat false va 16 [])

/-- The waiters of a cell are woken one a clk, from 2 clk after the fill, behind those of earlier fills (R209). -/
def wakeCell (s : State) (ck off : Nat) : State :=
  s.modCluster ck (fun c =>
    let first := c.waiters.foldl (fun n w => match w.due with | some t => max n (t + 1) | none => n) (s.clk + 2)
    { c with waiters := (c.waiters.foldl (fun (p : List Waiter × Nat) w =>
        if w.off = off && w.due.isNone then (p.1 ++ [{ w with due := some p.2 }], p.2 + 1) else (p.1 ++ [w], p.2))
        ([], first)).1 })

/-- The fill at its bank (R207). -/
def performFill (s : State) (r : Req) (v : Word) (loc : Nat) : State :=
  if (twinOn s r.coreKey).any (fun p => !insideRun p.2 loc) then
    refuseReq s r (dieOfLoc loc) (arrayOfLoc loc).1 (arrayOfLoc loc).2
  else
    let (ue, s1) := readEcc s loc 16 (some r.va) (some (s.ctx r.ctx))
    if ue then replyReq (consume s1 r.ctx r.va (s.ctx r.ctx).pc) r 0 0 false
    else if s1.readMem (loc + 8) 8 ≠ 0 then replyReq s1 r 1 0 false
    else
      match writeWaits s r.coreKey false loc r.va 16 with
      | some s2 => s2
      | none =>
      let s2 := s1.write r.coreKey false loc r.va (leBytes v.toNat 8 ++ leBytes 1 8)
      replyReq (wakeCell s2 ((clusterOfLoc loc).getD 0) (loc % 0x400000)) r 0 0 false

def execFutureFillAtBank (id : Nat) (s : State) : Out :=
  event s (fun s =>
    match s.req id with
    | none => s
    | some r =>
      match r.kind, r.st with
      | .fill v, .sent =>
        if linkBehind s r then s
        else
        match fateAt s r with
        | .perform loc => performFill s r v loc
        | .refuse d cls idx => refuseReq s r d cls idx
        | _ => s
      | _, _ => s)

/-- The sample of `fwait` and `fpoll` (R208): none where the cell's world may not read it. -/
def sampleCell (s : State) (va : Word) : Option Nat :=
  match placeOf s s.cx.die s.cx.world va with
  | .phys pa => if (s.world s.cx.world).bound then some pa else none
  | _ => none

/-- The status of a sample of a cell that can be read: FILLED, or what an empty cell gives. DEDUCED (log 29). -/
def sampled (s : State) (d : SReg) (va : Word) (pa : Nat) (empty : State → State) : State :=
  let c := s.cx
  let (ue, s1) := readEcc s pa 16 (some va) (some c)
  if ue then retire (consume (s1.wS d 0) s.cur va c.pc) 4
  else if s1.readMem (pa + 8) 8 ≠ 0 then retire (s1.wS d 0) 4
  else empty s1

def unreadableCell (s : State) (d : SReg) (va : Word) : State :=
  let c := s.cx
  retire ((s.logRec c.die 2 c.cluster va 5 0x042 (some c)).wS d 2) 4

def execFpoll (d a : SReg) (s : State) : Out :=
  let i := Instr.fpoll d a
  issue s i (fun s =>
    let va := s.rS a
    match futureCause s s.cx va true with
    | some k => raiseHere s k va (futureInfo i k)
    | none =>
      match sampleCell s va with
      | none => unreadableCell s d va
      | some pa => sampled s d va pa (fun s => retire (s.wS d 3) 4))

/-- The mark of the cell whose entry a waiting `fwait` waits for (R209): no demand has a sub-tile 64. -/
def cellMark (off : Nat) : List (Nat × Nat) := [(off, 64)]

/-- An `fwait` on an empty cell takes an entry of the wait table, or returns FULL. -/
def park (s : State) (d : SReg) (off : Nat) : State :=
  let c := s.cx
  let ck := c.clusterKey
  let cl := s.cluster ck
  let wait_ (c : Ctx) : Ctx := { c with phase := 1, waitSubs := cellMark off }
  if cl.waiters.any (fun w => w.ctx = s.cur && w.off = off) then s.modCx wait_
  else if 32 ≤ cl.waiters.length then
    retire ((s.modCluster ck (fun x => { x with futFull := satTo (x.futFull + 1) 65535 })).wS d 1) 4
  else
    (s.modCluster ck (fun x => { x with waiters := x.waiters ++ [{ ctx := s.cur, off := off, due := none }] })).modCx wait_

def execFwait (d a : SReg) (s : State) : Out :=
  let i := Instr.fwait d a
  issue s i (fun s =>
    match s.cx.phase with
    | 1 => s
    | 2 => retire (s.wS d 0) 4
    | _ =>
      let va := s.rS a
      match futureCause s s.cx va true with
      | some k => raiseHere s k va (futureInfo i k)
      | none =>
        match sampleCell s va with
        | none => unreadableCell s d va
        | some pa => sampled s d va pa (fun s => park s d (bits va 21 0)))

/-- One woken entry of a cluster's wait table: it is freed, and its context goes on where it waits for that cell (R208, R209). -/
def execFutureWake (cluster : Nat) (s : State) : Out :=
  event s (fun s =>
    match (s.cluster cluster).waiters.filter (fun w => w.due.any (· ≤ s.clk)) with
    | [] => s
    | w :: ws =>
      let x := ws.foldl (fun (m : Waiter) y => if y.due.getD 0 < m.due.getD 0 then y else m) w
      (s.modCluster cluster (fun c => { c with waiters := c.waiters.filter (fun y => y ≠ x) })).modCtx x.ctx
        (fun c => if c.phase = 1 && c.waitSubs = cellMark x.off then { c with phase := 2 } else c))

end Sys2Proof.Machine
end

