-- ==== Sys2Proof/Machine/Engines.lean ====
section
/-!
DEFINITION. Engine commands (06 R150 to R162; 08 R214 to R244): `tdef`, `ttype`, `force`, `tdrop`, `sidq`, the appending
commands and copies, `tenq`, and the steps of the pool, the engines and the task scheduler.
-/
namespace Sys2Proof.Machine

/-! ## tdef (R218, R219) -/

/-- The identifiers that a command names in the fields it uses (R218). -/
def Cmd.names (c : Cmd) : List Nat :=
  let d := bits c.a 7 0; let a := bits c.a 15 8; let b := bits c.a 23 16; let x := bits c.a 31 24
  match c.cls, c.func with
  | 1, _ => [d, a, b] ++ (if c.idx then [x] else [])
  | 2, 0 => if c.op < 5 then [d, a, b] else [d, a]
  | 4, _ => [d, a, x]
  | _, _ => [d, a]

/-- A TID is in use. -/
def tidInUse (s : State) (ck t : Nat) : Bool :=
  let cl := s.cluster ck
  (List.range 4).any (fun i => (s.core (ck * 4 + i)).siding.any (fun n => (nodeCmd (ck * 4 + i) n).names.contains t)) ||
  (cl.pool ++ cl.poolWait).any (fun e => (entryCmd ck e).names.contains t) ||
  cl.copies.any (fun y => [bits y.a 7 0, bits y.a 15 8].contains t)

/-- Cause 0x094 with its reason. -/
def refuse094 (s : State) (i : Instr) (taddr : Word) (r : Nat) : State := raiseHere s 0x094#9 taddr (tinfoReason i r)

/-- A descriptor of 32 bytes of the core's own unit memory, read at issue: CHECKVA, reason 7, then its four words. -/
def withDescriptor (s : State) (i : Instr) (va : Word) (act : State → Word → Word → Word → Word → State) : State :=
  match checkVa va 32 with
  | some k => raiseHere s k va (tinfo1 i 32 false)
  | none =>
    if !ownUM s s.cx va then refuse094 s i va 7
    else
      let (v, s1) := loadOwn s va 32
      let w (n : Nat) : Word := BitVec.ofNat 64 (v / 2 ^ (64 * n))
      act s1 (w 0) (w 1) (w 2) (w 3)

/-- The result of a table command. -/
def result (s : State) (d : SReg) (v : Word) : State := retire (s.wS d v) 4

/-- `tdef` by its function F (R219). DEDUCED (log 72). -/
def tdefWord (i : Instr) (d a b : SReg) (s : State) : Out :=
  issue s i (fun s =>
    let ck := s.cx.clusterKey
    let v := s.rS a
    let t := bits v 7 0
    let old := tidAt s ck t
    let put (st : State) (x : Tid) : State := st.modCluster ck (fun c => { c with tids := Tbl.put Tid.empty c.tids t x })
    if bits v 63 10 ≠ 0 then refuse094 s i 0 1
    else
      match bits v 9 8 with
      | 0 =>
        let va := s.rS b
        withDescriptor s i va (fun s w0 w1 w2 w3 =>
          let x : Tid := { defined := true, w0 := w0, w1 := w1, w2 := w2, w3 := w3, status := 0 }
          match descReason x with
          | some r => refuse094 s i va r
          | none => if tidInUse s ck t then result s d 0 else result (put s x) d 1)
      | 1 => result s d old.statusWord
      | 2 => result (put s { old with status := 0 }) d old.statusWord
      | _ => if tidInUse s ck t then result s d 0 else result (put s Tid.empty) d 1)

def execTdefDefine (d a b : SReg) (s : State) : Out := tdefWord (.tdefDefine d a b) d a b s
def execTdefStatus (d a b : SReg) (s : State) : Out := tdefWord (.tdefStatus d a b) d a b s
def execTdefClearStatus (d a b : SReg) (s : State) : Out := tdefWord (.tdefClearStatus d a b) d a b s
def execTdefUndefine (d a b : SReg) (s : State) : Out := tdefWord (.tdefUndefine d a b) d a b s

/-! ## ttype (R239, R240) -/

def TaskType.template (t : TaskType) : Word := t.w0
def TaskType.kn (t : TaskType) : Nat := bits t.w1 31 16
def TaskType.cls (t : TaskType) : Nat := bits t.w1 9 7
def TaskType.func (t : TaskType) : Nat := bits t.w1 6 0
def TaskType.scrg (t : TaskType) : Nat := bits t.w2 31 16
def TaskType.live (t : TaskType) : Nat := bits t.w2 7 0
def TaskType.scrbase (t : TaskType) : Nat := t.w3.toNat

/-- An appending command's class and function. -/
def appending (cls func : Nat) : Bool := (cls = 2 && func ≤ 2) || ((cls = 1 || cls = 3 || cls = 4) && func = 0)

/-- The reason of cause 0x094 that a type descriptor gives (R239); those of LIVE and SCRBASE that its table does not list are a
DESIGN CHOICE (log 146). -/
def typeReason (t : TaskType) : Option Nat :=
  if bits t.w1 63 32 ≠ 0 || bits t.w1 15 10 ≠ 0 || bits t.w2 63 32 ≠ 0 || bits t.w2 15 8 ≠ 0 || t.scrbase % 64 ≠ 0 ||
      (t.scrg = 0 && t.w3 ≠ 0) then some 1
  else if !appending t.cls t.func || (decide (t.cls = 1) ≠ decide (t.kn ≠ 0)) then some 8
  else if bits t.w0 63 48 ≠ 0 then some 9
  else if t.live = 0 || 128 < t.live || 0x400000 < t.scrbase + t.live * t.scrg * 64 then some 10
  else none

def typeAt (s : State) (ck n : Nat) : TaskType := Tbl.get TaskType.empty (s.cluster ck).types n

/-- `ttype` by its function (R240). -/
def ttypeWord (i : Instr) (d a b : SReg) (s : State) : Out :=
  issue s i (fun s =>
    let ck := s.cx.clusterKey
    let v := s.rS a
    let n := bits v 5 0
    let busy := (s.cluster ck).tasks.any (fun r => r.ty = n)
    let put (st : State) (x : TaskType) : State :=
      st.modCluster ck (fun c => { c with types := Tbl.put TaskType.empty c.types n x })
    if bits v 63 8 ≠ 0 || bits v 7 6 = 1 || bits v 7 6 = 2 then refuse094 s i 0 1
    else if bits v 7 6 = 0 then
      let va := s.rS b
      withDescriptor s i va (fun s w0 w1 w2 w3 =>
        let x : TaskType := { defined := true, w0 := w0, w1 := w1, w2 := w2, w3 := w3 }
        match typeReason x with
        | some r => refuse094 s i va r
        | none => if busy then result s d 0 else result (put s x) d 1)
    else if busy then result s d 0
    else result (put s TaskType.empty) d 1)

def execTtypeDefine (d a b : SReg) (s : State) : Out := ttypeWord (.ttypeDefine d a b) d a b s
def execTtypeUndefine (d a b : SReg) (s : State) : Out := ttypeWord (.ttypeUndefine d a b) d a b s

/-! ## force, tdrop, sidq (R157 to R159) -/

/-- The reason that refuses a `force`. -/
def forceReason (c : Cmd) (t : Tid) : Option Nat :=
  lowestOf [(1, bits c.a 63 38 ≠ 0 || bits c.a 31 8 ≠ 0), (2, bits c.b 63 32 ≠ 0), (3, !t.defined),
            (4, t.defined && !rangeOk c t)]

/-- The issuing context's command of a class. -/
def cmdOf (s : State) (cls func : Nat) (a b : Word) : Cmd :=
  { die := s.cx.die, cluster := s.cx.cluster, cls := cls, func := func, a := a, b := b, scr := 0 }

/-- A demand of a footprint, and what follows once it is settled. -/
def demandThen (s : State) (f : List (Nat × Nat)) (act : State → State) : State :=
  let (fin, s1) := demandRound s f (s.core s.cx.coreKey).nextAge
  if fin then act s1 else s1

/-- DEDUCED (log 46). -/
def execForce (d a b : SReg) (s : State) : Out :=
  let i := Instr.force d a b
  issue s i (fun s =>
    let c := cmdOf s 0 2 (s.rS a) (s.rS b)
    let fresh := s.cx.demandAge.isNone
    match (if fresh then forceReason c (c.dst s) else none) with
    | some r => raiseHere s 0x084#9 0 (tinfoReason i r)
    | none =>
      let f := (List.range c.nsub).flatMap (outFoot s c)
      demandThen s f (fun s =>
        result s d (putAt (if s.cx.demandFault then 1 else 0) 63 ||| BitVec.ofNat 64 s.cx.released)))

/-- The sub-tiles of a node that are suspended, as a bitmap. -/
def Node.suspendedMap (n : Node) : BitVec 64 :=
  n.subs.foldl (fun m b => if n.suspended b then m ||| ((1#64) <<< b) else m) 0
def Node.suspendedCount (n : Node) : Nat := (n.subs.filter n.suspended).length

/-- The suspended sub-tiles of nodes are discarded: those that wait for a place of the pool leave the queue, and a demand that waits for
one learns of it (R157). -/
def dropNodes (s : State) (core : Nat) (hit : Node → Bool) : State :=
  let s0 := ((s.core core).siding.filter hit).foldl (fun st n =>
    ((n.subs.filter (queuedSub st core n.age)).foldl (fun x b => markWaiters x core n.age b) (unqueue st core n.age n.suspended))) s
  freeNodes (s0.modCore core (fun c =>
    { c with siding := c.siding.map (fun n => if hit n then { n with gone := n.gone ||| n.suspendedMap } else n) })) core

def execTdrop (d a : SReg) (s : State) : Out :=
  issue s (.tdrop d a) (fun s =>
    let core := s.cx.coreKey
    let m := s.rS a
    let hit (n : Node) : Bool := bit m n.slot
    let count := ((s.core core).siding.filter hit).foldl (fun t n => t + n.suspendedCount) 0
    result (dropNodes s core hit) d (BitVec.ofNat 64 count))

/-- The occupancy mask of a siding. -/
def occupancy (c : Core) : Word := c.siding.foldl (fun m n => m ||| putAt 1 n.slot) 0

/-- What `sidq` reads (R159). -/
def sidqValue (c : Core) (v : Word) : Word :=
  let q := v.toNat % 64
  let node := c.siding.find? (fun n => n.slot = q)
  if v = 0x100 then occupancy c
  else if 0x100 ≤ v.toNat || 32 ≤ q then 0
  else
    match node with
    | none => 0
    | some n =>
      match v.toNat / 64 with
      | 0 =>
        putAt (bits (n.pc.zeroExtend 64) 33 2) 32 ||| putAt (c.siding.filter (fun m => m.age < n.age)).length 27 |||
          putAt n.cls.toNat 24 ||| putAt n.func.toNat 17 ||| putAt n.ctxSlot 12 ||| putAt (if n.faulted then 1 else 0) 7 |||
          putAt n.suspendedCount 0
      | 1 => n.done
      | 2 => n.out
      | _ => n.b

def execSidq (d a : SReg) (s : State) : Out :=
  issue s (.sidq d a) (fun s => result s d (sidqValue (s.core s.cx.coreKey) (s.rS a)))

/-! ## Appending (R154) -/

/-- The instruction starts: nothing of it has happened yet. -/
def atStart (c : Ctx) : Bool := c.phase = 0 && c.demandAge.isNone

/-- The waiting state of a stage of a multi-step instruction. -/
def stage (s : State) (n : Nat) : State :=
  s.modCx (fun c => { c with phase := n, demandAge := none, waitSubs := [], forcing := [] })

/-- The node is recorded with the journal entries that leave for it; while no slot is free the oldest node is forced again. -/
def recordNode (s : State) (i : Instr) (d : SReg) (c : Cmd) (f : List (Nat × Nat)) : State :=
  let core := s.cx.coreKey
  match (List.range 32).find? (fun q => !(s.core core).siding.any (fun n => n.slot = q)) with
  | none => stage s 1
  | some q =>
    let (ids, s1) := drainFoot s core f
    let n : Node := { slot := q, word := (encodeFirst i).getD 0, cls := BitVec.ofNat 3 c.cls, func := BitVec.ofNat 7 c.func,
                      a := c.a, b := c.b, ctxSlot := s.cx.slot, pc := s.cx.pc, age := (s.core core).nextAge, nsub := c.nsub,
                      done := 0, out := 0, gone := 0, faulted := false, holds := ids }
    let s2 := s1.modCore core (fun x => { x with siding := x.siding ++ [n], nextAge := x.nextAge + 1 })
    retire ((s2.modCx (fun x => { x with tiles := x.tiles + 1 })).wS d (BitVec.ofNat 64 q)) 4

/-- A full siding forces its oldest node: the append goes on once each of its sub-tiles is done or faulted (R154). -/
def forceOldest (s : State) (act : State → State) : State :=
  let siding := (s.core s.cx.coreKey).siding
  let full : Bool := 32 ≤ siding.length && s.cx.forcing = []
  forceThen s (fun n => full && siding.head?.any (fun o => o.age = n.age)) countOvf act

/-- An appending command, once its words are accepted. A node that another context appends during its wait is checked like those
before it (R154). -/
def appendNode (s : State) (i : Instr) (d : SReg) (c : Cmd) : State :=
  let core := s.cx.coreKey
  let subs := List.range c.nsub
  let fw := subs.flatMap (outFoot s c)
  let fr := subs.flatMap (inFoot s c)
  let rest (s : State) : State := forceOldest s (fun s =>
    if (s.core core).siding.any (fun n => nodeMeets s core n fw) then stage s 2 else recordNode s i d c (fr ++ fw))
  if 63 ≤ s.cx.tiles then s
  else if s.cx.phase ≠ 1 then forceThen s (fun n => nodeMeets s core n fw) countAlias (fun s => rest (stage s 1))
  else rest s

/-- The checks of an appending command, then its append. -/
def appendWord (i : Instr) (cls func : Nat) (d a b : SReg) (s : State) : Out :=
  issue s i (fun s =>
    let c := cmdOf s cls func (s.rS a) (s.rS b)
    match (if atStart s.cx then cmdReason s c false else none) with
    | some r => raiseHere s 0x083#9 0 (tinfoReason i r)
    | none => appendNode s i d c)

def execTmul (d a b : SReg) (s : State) : Out := appendWord (.tmul d a b) 1 0 d a b s
def execTew (d a b : SReg) (s : State) : Out := appendWord (.tew d a b) 2 0 d a b s
def execTred (d a b : SReg) (s : State) : Out := appendWord (.tred d a b) 2 1 d a b s
def execTcvt (d a b : SReg) (s : State) : Out := appendWord (.tcvt d a b) 2 2 d a b s
def execTgather (d a b : SReg) (s : State) : Out := appendWord (.tgather d a b) 4 0 d a b s

/-! ## Copies (R233) -/

/-- The entries of a copy command enter the pool. -/
def insertCopy (s : State) (c : Cmd) (holds : List Nat) : State :=
  let core := s.cx.coreKey
  let ck := s.cx.clusterKey
  let (id, s1) := s.fresh
  let y : CopyCmd := { id := id, core := core, ctxSlot := s.cx.slot, pc := s.cx.pc, a := c.a, left := c.nsub, faults := 0,
                       firstInfo := 0,
                       foot := (List.range c.nsub).flatMap (fun b => inFoot s c b ++ outFoot s c b) }
  let s2 := (s1.modCluster ck (fun x => { x with copies := x.copies ++ [y] })).modCx (fun x => { x with copies := x.copies + 1 })
  (List.range c.nsub).foldl (fun st b =>
    poolInsert st ck
      { seq := 0, cls := BitVec.ofNat 3 c.cls, func := BitVec.ofNat 7 c.func, a := c.a, b := c.b, sub := b, src := .copy id,
        scratch := 0, core := core, ctxSlot := s.cx.slot, demand := none, inF := inFoot s c b, outF := outFoot s c b,
        engine := none, sent := false, holds := holds.map (fun h => (core, h)), faulted := none }) s2

/-- Every entry of a copy of the context has a place in the pool when this clk ends: those that wait ahead of it fit with it
(R233). -/
def copyPlaced (s : State) (k : Nat) : Bool :=
  let cl := s.cluster (s.ctx k).clusterKey
  !((cl.poolWait.drop (poolRoom s.clk cl)).any (fun e =>
    e.core = (s.ctx k).coreKey && e.ctxSlot = (s.ctx k).slot && (match e.src with | .copy _ => true | _ => false)))

/-- A copy command: forcing, drain, then its demand's release with its own insertion right behind it; it waits while the pool is
full (R233). -/
def copyCommand (s : State) (d : SReg) (c : Cmd) : State :=
  let core := s.cx.coreKey
  let subs := List.range c.nsub
  let fw := subs.flatMap (outFoot s c)
  let fr := subs.flatMap (inFoot s c)
  let done (s : State) : State := if copyPlaced s s.cur then retire (s.wS d (BitVec.allOnes 64)) 4 else s
  let demandStage (s : State) : State :=
    let (fin, s1) := demandRelease s fr (s.core core).nextAge
    if fin then done (stage (insertCopy s1 c s1.cx.waitEntries) committed) else s1
  match s.cx.phase with
  | 0 =>
    if 63 ≤ s.cx.copies then s
    else
      forceThen s (fun n => nodeMeets s core n fw) countAlias (fun s =>
        let (ids, s1) := drainFoot s core (fr ++ fw)
        demandStage ((stage s1 1).modCx (fun x => { x with waitEntries := ids })))
  | 1 => demandStage s
  | _ => done s

def execTmove (d a b : SReg) (s : State) : Out :=
  let i := Instr.tmove d a b
  issue s i (fun s =>
    let c := cmdOf s 3 0 (s.rS a) (s.rS b)
    match (if atStart s.cx then cmdReason s c false else none) with
    | some r => raiseHere s 0x083#9 0 (tinfoReason i r)
    | none => if (c.dst s).level = 2 then copyCommand s d c else appendNode s i d c)

/-! ## The pool and the engines (R220 to R222) -/

def execPoolInsert (cluster : Nat) (s : State) : Out := event s (fun s => poolAdvance s cluster)

/-- The entry with the lowest sequence number. -/
def firstEntry (l : List PoolEntry) : Option PoolEntry :=
  l.foldl (fun m e => match m with | some x => if e.seq < x.seq then some e else some x | none => some e) none

def modPool (s : State) (ck seq : Nat) (f : PoolEntry → PoolEntry) : State :=
  s.modCluster ck (fun c => { c with pool := c.pool.map (fun e => if e.seq = seq then f e else e) })

/-- A range of VA bytes cut at granules. -/
def cutGranules (va : Word) (n : Nat) : List (Word × Nat) :=
  (granules va.toNat n).map (fun g =>
    let lo := max va.toNat g
    let hi := min (va.toNat + n) (g + 64)
    (BitVec.ofNat 64 lo, hi - lo))

/-- The byte ranges of a far TID's sub-tile, by granule, rows in order. -/
def farPieces (c : Cmd) (t : Tid) (b : Nat) : List (Word × Nat) :=
  let (i, j) := c.sub b
  let n := clipLen t.cols j * t.width / 8
  (clip t.rows i).flatMap (fun r => cutGranules (BitVec.ofNat 64 (t.base + (r * t.pitch + 64 * j * t.width) / 8)) n)

/-- A request of an engine for a core. -/
def engineReq (s : State) (e : PoolEntry) (ck : Nat) (kind : ReqKind) (idx : Nat) (va : Word) (n : Nat) : State :=
  let (id, s1) := s.fresh
  let die := ck / 48
  let r : Req := { id := id, kind := kind, op := 0, elem := idx, signed := false, ctx := e.core * 16 + e.ctxSlot,
                   world := (s.core e.core).world, die := die, cluster := ck % 48, va := va, size := n,
                   route := routeDie s die va, fwd := [], st := .sent, page := none }
  { s1 with reqs := s1.reqs ++ [r] }.noteSent id (engineUnit ck (e.engine.getD 2)) r.route

/-- Reads of a far source are sent when the copy engine takes the entry. -/
def sendReads (s : State) (ck : Nat) (e : PoolEntry) : State :=
  let c := entryCmd ck e
  let sa := c.sa s
  if e.cls.toNat = 3 && sa.level = 2 then
    let l := farPieces c sa e.sub
    (l.zip (List.range l.length)).foldl (fun st p => engineReq st e ck (.engRead ck e.seq) p.2 p.1.1 p.1.2) s
  else s

/-- The granules of the cluster that an entry reads pass their ECC: whether one is uncorrectable (R222, R336, R346). -/
def engineReads (s : State) (ck : Nat) (e : PoolEntry) : Bool × State :=
  if s.ues = [] ∧ s.flips = [] then (false, s)
  else
    (((readFoot s (entryCmd ck e) e.sub).flatMap (fun f => granules f.1 f.2)).eraseDups).foldl (fun (p : Bool × State) g =>
      let (ue, s1) := readEcc p.2 g 64 none (some (s.ctx (e.core * 16 + e.ctxSlot)))
      (p.1 || ue, s1)) (false, s)

/-- An entry reads what lies in its cluster as it issues, before the writes of that clk (R191, R222). DEDUCED (log 85). -/
def readEntryData (s : State) (ck : Nat) (e : PoolEntry) : State :=
  let c := entryCmd ck e
  if e.cls.toNat = 3 && (c.sa s).level = 2 then s
  else
    let (ue, s1) := engineReads s ck e
    modPool s1 ck e.seq (fun x =>
      if ue then { x with faulted := some 0x161#9 } else { x with out := some (subCompute s1 c e.sub) })

/-- A free engine takes the issuable entry of its kinds with the lowest sequence number; a throttled matrix engine takes one
in even clk only (R324). -/
def engineTakes (s : State) (ck eng : Nat) : State :=
  let pool := (s.cluster ck).pool
  let slow := eng ≠ 2 && s.throttled && s.clk % 2 = 1
  if pool.any (fun e => e.engine = some eng) || slow ||
      !inService s (ck / 48) (engineUnit ck eng % 1024) then s
  else
    match firstEntry (pool.filter (fun e => issuable s ck e && (decide (e.cls.toNat = 3) = decide (eng = 2)))) with
    | none => s
    | some e => sendReads (readEntryData (modPool s ck e.seq (fun x => { x with engine := some eng })) ck e) ck e

def execEngineIssue (cluster : Nat) (s : State) : Out :=
  event s (fun s => engineTakes (engineTakes (engineTakes s cluster 0) cluster 1) cluster 2)

/-! ## Completion and faults (R161, R222, R234) -/

/-- The far requests of an entry. -/
def readsOf (s : State) (ck seq : Nat) : List Req :=
  s.reqs.filter (fun r => match r.kind with | .engRead k q => k = ck && q = seq | _ => false)
def writesOf (s : State) (ck seq : Nat) : List Req :=
  s.reqs.filter (fun r => match r.kind with | .engWrite k q _ => k = ck && q = seq | _ => false)
def Req.isReplied (r : Req) : Bool := match r.st with | .replied .. => true | _ => false
/-- The cause of a refused reply. -/
def Req.refusal (r : Req) : Option Cause := match r.st with | .replied v _ true => some (BitVec.ofNat 9 v) | _ => none

/-- The fault that an entry under way has met: with the first refusal (R235), or once every far access has been answered. -/
def entryCause (s : State) (ck : Nat) (e : PoolEntry) : Option Cause :=
  let rs := readsOf s ck e.seq ++ writesOf s ck e.seq
  if e.engine.isNone && !e.sent then none
  else
    match rs.findSome? Req.refusal with
    | some k => some k
    | none => if rs.all Req.isReplied then e.faulted else none

def dropReqs (s : State) (l : List Req) : State := l.foldl (fun st r => st.dropReq r.id) s

/-- An entry ends without its writes and without a cause: the rollback or the abort of its gang follows. -/
def quietEnd (s : State) (ck : Nat) (e : PoolEntry) : State :=
  let s1 := dropEntry s ck e.seq
  match e.src with
  | .node core age =>
    freeNodes (modNode s1 core age (fun m =>
      { m with out := m.out &&& ~~~((1#64) <<< e.sub), gone := m.gone ||| ((1#64) <<< e.sub) })) core
  | .copy id => copyStep s1 ck id
  | .task id => taskStep s1 ck id

/-- A faulted entry completes with its fault. -/
def finishFault (s : State) (ck : Nat) (e : PoolEntry) (k : Cause) : State :=
  let s1 := dropReqs s (readsOf s ck e.seq ++ writesOf s ck e.seq)
  if k = 0x161#9 && (s.core e.core).snap.isOpen then consume (quietEnd s1 ck e) (e.core * 16 + e.ctxSlot) 0 0
  else entryFault s1 ck e k

/-- The bytes read for a far source, in order. -/
def gathered (s : State) (ck seq : Nat) : List Byte :=
  let rs := readsOf s ck seq
  (List.range rs.length).flatMap (fun i =>
    match rs.find? (fun r => r.elem = i) with
    | some r => (match r.st with | .replied v _ _ => leBytes v r.size | _ => [])
    | none => [])

/-- The rows of DST that a copy writes: those read at issue, or those that came back from a far source. -/
def moveRows (s : State) (ck : Nat) (e : PoolEntry) : List (Nat × Nat × List Nat) :=
  let c := entryCmd ck e
  let sa := c.sa s
  let (i, j) := c.sub e.sub
  let n := clipLen sa.cols j * sa.width
  if sa.level = 2 then
    let l := gathered s ck e.seq
    let rows := clip sa.rows i
    (rows.zip (List.range rows.length)).map (fun p =>
      (p.1, 64 * j, unpackRow sa.width n (leValue ((l.drop (p.2 * (n / 8))).take (n / 8)))))
  else (e.out.getD SubOut.empty).rows

/-- The rows of a copy sent to a far destination, granule by granule. -/
def sendMove (s : State) (ck : Nat) (e : PoolEntry) : State :=
  let c := entryCmd ck e
  let t := c.dst s
  let s1 := (moveRows s ck e).foldl (fun st r =>
    let va : Word := BitVec.ofNat 64 (t.base + (r.1 * t.pitch + r.2.1 * t.width) / 8)
    let data := leBytes (packRow t.width r.2.2) (r.2.2.length * t.width / 8)
    (cutGranules va data.length).foldl (fun st2 g =>
      engineReq st2 e ck (.engWrite ck e.seq ((data.drop (g.1 - va).toNat).take g.2)) 0 g.1 g.2) st) s
  modPool (dropReqs s1 (readsOf s ck e.seq)) ck e.seq (fun x => { x with engine := none, sent := true })

/-- The writes of an entry in its cluster wait for the superstep log of its core (R340). -/
def entryWaits (s : State) (ck : Nat) (e : PoolEntry) : Option State :=
  let c := entryCmd ck e
  if !(s.core e.core).snap.isOpen then none
  else
    granulesWait s e.core false ((((outFoot s c e.sub).filter (fun f => f.1 < 2 ^ 56)).flatMap (fun f =>
      granulesVa f.1 (regionVa s c (c.dst s) f.1) f.2)).eraseDups)

/-- A copy entry: its rows are written, or sent, or their owners have acknowledged every granule. -/
def completeMove (s : State) (ck : Nat) (e : PoolEntry) : State :=
  let c := entryCmd ck e
  if e.sent then
    let ws := writesOf s ck e.seq
    if ws.all Req.isReplied then settleEntry (dropReqs s ws) ck e else s
  else if !(readsOf s ck e.seq).all Req.isReplied then s
  else if (c.dst s).level = 2 then sendMove s ck e
  else
    match entryWaits s ck e with
    | some s1 => s1
    | none =>
      settleEntry (dropReqs ((moveRows s ck e).foldl (fun st r => writeRow st c e.core r) s) (readsOf s ck e.seq)) ck e

/-- A matrix engine's entry: every write performed, flags ORed, its source told. -/
def completeTile (s : State) (ck : Nat) (e : PoolEntry) : State :=
  match e.out with
  | none => s
  | some o =>
    match entryWaits s ck e with
    | some s1 => s1
    | none => settleEntry (entryFlags (writeRows s (entryCmd ck e) e.core o) ck e o) ck e

def execPoolEntryComplete (cluster seq : Nat) (s : State) : Out :=
  event s (fun s =>
    match (s.cluster cluster).pool.find? (fun e => e.seq = seq) with
    | none => s
    | some e =>
      if e.engine.isNone && !e.sent then s
      else
        match entryCause s cluster e with
        | some k => finishFault s cluster e k
        | none => if e.cls.toNat = 3 then completeMove s cluster e else completeTile s cluster e)

/-- The fault that an entry under way has met. -/
def execLateFault (cluster seq cause : Nat) (s : State) : Out :=
  event s (fun s =>
    match (s.cluster cluster).pool.find? (fun e => e.seq = seq) with
    | none => s
    | some e =>
      match entryCause s cluster e with
      | some k => if k.toNat = cause then finishFault s cluster e k else s
      | none => s)

/-! ## The task queue (R241 to R243) -/

def ringSize (c : Cluster) : Nat := 2 ^ c.tqLog
/-- The location and the address of a ring entry. -/
def taskLoc (s : State) (ck : Nat) (n : BitVec 16) : Nat :=
  let c := s.cluster ck
  cmKey (ck / 48) (ck % 48) (c.tqBase.toNat + 16 * (n.toNat % ringSize c))
def cmVa (s : State) (ck off : Nat) : Word :=
  putAt (s.dieAt (ck / 48)).logical.toNat 49 ||| putAt 1 48 ||| putAt 1 46 ||| putAt (ck % 48) 40 ||| putAt off 0
def taskVa (s : State) (ck : Nat) (n : BitVec 16) : Word := cmVa s ck (taskLoc s ck n % 0x400000)

def clampLog (n : Nat) : Nat := if n < 4 then 4 else if 12 < n then 12 else n

/-- TQCTL (R241). -/
def tqctlWord (c : Cluster) : Word :=
  putAt (if c.tqEn then 1 else 0) 63 ||| putAt c.tqLog 32 ||| putAt c.tqHead.toNat 16 ||| putAt c.tqTail.toNat 0

def writeTqctl (s : State) (ck : Nat) (v : Word) : State :=
  s.modCluster ck (fun c =>
    if c.tqEn then { c with tqEn := bit v 63 }
    else
      let n := clampLog (bits v 35 32)
      if bit v 63 && c.tqBase.toNat + 16 * 2 ^ n ≤ 0x400000 && c.tqHead = c.tqTail then
        { c with tqEn := true, tqLog := n, tqHead := 0, tqTail := 0 }
      else { c with tqLog := n })
def writeTqbase (s : State) (ck : Nat) (v : Word) : State :=
  s.modCluster ck (fun c => if c.tqEn then c else { c with tqBase := v &&& 0x3FFFC0#64 })

/-- DEDUCED (log 96). -/
def execTqctlWrite (a : GReg) (s : State) : Out :=
  issue s (.putx a regTQCTL) (fun s => retire (writeTqctl s s.cx.clusterKey (s.rG a)) 4)

/-- The lowest free live slot of a type. -/
def freeLive (s : State) (ck ty : Nat) : Option Nat :=
  (List.range (typeAt s ck ty).live).find? (fun n => !(s.cluster ck).tasks.any (fun r => r.ty = ty && r.live = n))

/-- The command of a record in a live slot. -/
def recordCmd (s : State) (ck : Nat) (rec_ : Word) (slot : Nat) : Cmd :=
  let t := typeAt s ck (bits rec_ 53 48)
  { die := ck / 48, cluster := ck % 48, cls := t.cls, func := t.func, a := t.template,
    b := putAt t.kn 48 ||| (rec_ &&& 0x0000FFFFFFFFFFFF#64), scr := t.scrbase + slot * 64 * t.scrg }

/-- The footprints of a record, when they can be formed now. -/
def recordFoot (s : State) (ck : Nat) (rec_ : Word) : List (Nat × Nat) :=
  match freeLive s ck (bits rec_ 53 48) with
  | none => []
  | some slot =>
    let c := recordCmd s ck rec_ slot
    if (cmdReason s c true).isSome then []
    else (List.range c.nsub).flatMap (fun b => inFoot s c b ++ outFoot s c b)

/-- The push, when the ring has room. -/
def tenqPush (s : State) (d : SReg) (v : Word) : State :=
  let c := s.cx
  let ck := c.clusterKey
  let cl := s.cluster ck
  let tail := cl.tqTail
  if ringSize cl ≤ (cl.tqTail - cl.tqHead).toNat then s
  else
    match writeWaits s c.coreKey false (taskLoc s ck tail) (taskVa s ck tail) 16 with
    | some s1 => s1
    | none =>
    let w : Word := putAt (c.pc.toNat / 4) 18 ||| putAt c.core 4 ||| putAt c.slot 0
    let s1 := s.write c.coreKey false (taskLoc s ck tail) (taskVa s ck tail) (leBytes v.toNat 8 ++ leBytes w.toNat 8)
    let holds := c.waitEntries.map (fun e => (tail.toNat, c.coreKey, e))
    let s2 := s1.modCluster ck (fun x => { x with tqTail := tail + 1, tqHolds := x.tqHolds ++ holds })
    retire ((s2.modCx (fun x => { x with tiles := x.tiles + 1 })).wS d (tail.zeroExtend 64)) 4

def execTenq (d a : SReg) (s : State) : Out :=
  let i := Instr.tenq d a
  issue s i (fun s =>
    let ck := s.cx.clusterKey
    let v := s.rS a
    if s.cx.phase ≠ 0 then tenqPush s d v
    else
      match lowestOf [(1, !(s.cluster ck).tqEn), (2, !(typeAt s ck (bits v 53 48)).defined), (3, bits v 63 54 ≠ 0)] with
      | some r => raiseHere s 0x093#9 0 (tinfoReason i r)
      | none =>
        if 63 ≤ s.cx.tiles then s
        else
        let (ids, s1) := drainFoot s s.cx.coreKey (recordFoot s ck v)
        tenqPush (s1.modCx (fun c => { c with phase := 1, waitEntries := ids })) d v)

/-- A record refused at conversion: cause 0x091, and it completes at once. -/
def refuseRecord (s : State) (k : Nat) (orphan : Bool) (ring rec_ : Word) (reason : Nat) : State :=
  let k := slotCtx (k / 16) (k % 16) orphan
  pend (s.modCtx k (fun c => { c with tiles := if orphan then c.tiles else c.tiles - 1 })) k 0x091#9 ring
    (setBits rec_ (putAt reason 56) 63 56)

/-- The entries of a converted record enter the pool. -/
def insertTask (s : State) (ck : Nat) (c : Cmd) (ty slot k : Nat) (orphan : Bool) (ring : Word) : State :=
  let (id, s1) := s.fresh
  let r : TaskRec := { id := id, ty := ty, live := slot, core := k / 16, ctxSlot := k % 16, orphan := orphan, ring := ring,
                       left := c.nsub, faults := 0, firstInfo := 0,
                       foot := (List.range c.nsub).flatMap (fun b => inFoot s c b ++ outFoot s c b) }
  (List.range c.nsub).foldl (fun st b =>
    poolInsert st ck
      { seq := 0, cls := BitVec.ofNat 3 c.cls, func := BitVec.ofNat 7 c.func, a := c.a, b := c.b, sub := b, src := .task id,
        scratch := c.scr, core := k / 16, ctxSlot := if orphan then 0 else k % 16, demand := none, inF := inFoot s c b, outF := outFoot s c b,
        engine := none, sent := false, holds := [], faulted := none }) (s1.modCluster ck (fun x => { x with tasks := x.tasks ++ [r] }))

/-- The scheduler converts the record at HEAD (R243). -/
def execTaskConvert (cluster : Nat) (s : State) : Out :=
  event s (fun s =>
    let cl := s.cluster cluster
    let mine := cl.tqHolds.filter (fun h => h.1 = cl.tqHead.toNat)
    let waits := cl.poolWait.any (fun e => match e.src with | .task _ => true | _ => false)
    let saving := (List.range 4).any (fun i => (s.core (cluster * 4 + i)).saveDue)
    if cl.tqHead = cl.tqTail || waits || saving || !inService s (cluster / 48) (384 + cluster % 48) || !ackedAll s (mine.map (·.2)) then s
    else
      let loc := taskLoc s cluster cl.tqHead
      let rec_ : Word := BitVec.ofNat 64 (s.readMem loc 8)
      let who : Word := BitVec.ofNat 64 (s.readMem (loc + 8) 8)
      let k := (cluster * 4 + bits who 5 4) * 16 + bits who 3 0
      let ring := taskVa s cluster cl.tqHead
      let ty := bits rec_ 53 48
      let orphan := cl.tqLeft.any (fun p => p.1 = k)
      let s1 := s.modCluster cluster (fun x =>
        { x with tqHead := x.tqHead + 1, tqHolds := x.tqHolds.filter (fun h => h.1 ≠ cl.tqHead.toNat),
                 tqLeft := (x.tqLeft.map (fun p => (p.1, p.2 - 1))).filter (fun p => p.2 ≠ 0) })
      if !(typeAt s cluster ty).defined then refuseRecord s1 k orphan ring rec_ 8
      else
        match freeLive s cluster ty with
        | none => s
        | some slot =>
          let c := recordCmd s cluster rec_ slot
          match cmdReason s c true with
          | some r => refuseRecord s1 k orphan ring rec_ r
          | none => insertTask s1 cluster c ty slot k orphan ring)

end Sys2Proof.Machine
end

