-- ==== Sys2Proof/Machine/Messages.lean ====
section
/-!
DEFINITION. Rank tables and messages (19 R374 to R383): the NI's entries and bindings, `send`, `recv`, `rankset`, `rankmv`,
what arrives from other packages, and the time exchange.
-/
namespace Sys2Proof.Machine

/-! ## Contexts by their place in a slice -/

/-- Where such a context is. -/
inductive Spot where
  | placed (k : Nat)
  /-- Its slice is away. -/
  | away
  | gone
  deriving DecidableEq, Repr

def whoOf (s : State) (k : Nat) : Who :=
  match sliceOn s (k / 16) with
  | some x => { slice := x.id, member := x.cores.findIdx (· = k / 16), slot := k % 16 }
  | none => { slice := 0, member := 0, slot := k % 16 }

def spotOf (s : State) (w : Who) : Spot :=
  match s.slice w.slice with
  | none => .gone
  | some x =>
    if x.kept.any (fun q => q.member = w.member) then .away
    else match x.cores[w.member]? with
      | some core => .placed (core * 16 + w.slot)
      | none => .gone

def modKept (s : State) (w : Who) (f : Kept → Kept) : State :=
  s.modSlice w.slice (fun x => { x with kept := x.kept.map (fun q => if q.member = w.member then f q else q) })

/-- An asynchronous cause for such a context: one that is away takes it when it is back. -/
def pendWho (s : State) (w : Who) (cause : Cause) (taddr tinfo : Word) : State :=
  match spotOf s w with
  | .placed k => pend s k cause taddr tinfo
  | .away => modKept s w (fun q => { q with causes := q.causes ++ [(w.slot, { cause := cause, taddr := taddr, tinfo := tinfo })] })
  | .gone => s

/-! ## Rank table entries (R376, R377) -/

def entryState (e : Word32) : Nat := (e.extractLsb' 30 2).toNat
def entryDie (e : Word32) : Nat := (e.extractLsb' 15 15).toNat
def entryCluster (e : Word32) : Nat := (e.extractLsb' 9 6).toNat
def entryCore (e : Word32) : Nat := (e.extractLsb' 7 2).toNat
def entrySlot (e : Word32) : Nat := (e.extractLsb' 3 4).toNat
def withState (e : Word32) (n : Nat) : Word32 := (e &&& 0x3FFFFFFF#32) ||| BitVec.ofNat 32 (n * 2 ^ 30)

def rankKey (world rank : Nat) : Nat := world * 2 ^ 20 + rank
def rankVa (w : WorldDie) (rank : Nat) : Word := w.rtbase + BitVec.ofNat 64 (4 * rank)

/-- The NI keeps an entry: a full cache drops one. -/
def cacheRank (s : State) (world die rank : Nat) (e : Word32) : State :=
  s.modDie die (fun d =>
    { d with rankCache := Tbl.put none (if 4096 ≤ d.rankCache.length then d.rankCache.drop 1 else d.rankCache)
                            (rankKey world rank) (some e) })

/-- The entry that the NI uses: its own, or the table's; a rank outside the table is invalid. -/
def rankEntry (s : State) (world die rank : Nat) : Word32 × State :=
  let w := s.wd world die
  if w.rtlen.toNat ≤ rank then (0, s)
  else
    match Tbl.get none (s.dieAt die).rankCache (rankKey world rank) with
    | some e => (e, s)
    | none =>
      match unitRead s world die (rankVa w rank) 4 with
      | (some l, s1) => let e := BitVec.ofNat 32 (leValue l); (e, cacheRank s1 world die rank e)
      | (none, s1) => (0, s1)

/-- The entry is not kept in the NI, and its table makes the access wait (R256, R319). -/
def rankWaits (s : State) (world die rank : Nat) (need : BitVec 3) : Option State :=
  let w := s.wd world die
  if w.rtlen.toNat ≤ rank || (need = permR && (Tbl.get none (s.dieAt die).rankCache (rankKey world rank)).isSome) then none
  else unitWaits s world die need (rankVa w rank) 4

def writeRank (s : State) (world die rank : Nat) (e : Word32) : State :=
  cacheRank (unitWrite s world die (rankVa (s.wd world die) rank) (leBytes e.toNat 4)).2 world die rank e

/-- A write of RTBASE or RTLEN drops the NI's entries of the world (R377). -/
def dropRanks (s : State) (world die : Nat) : State :=
  s.modDie die (fun d => { d with rankCache := d.rankCache.filter (fun p => p.1 / 2 ^ 20 ≠ world) })
def writeRtbase (s : State) (v : Word) : State :=
  let c := s.cx
  dropRanks (s.modWd c.world c.die (fun w => { w with rtbase := v &&& ~~~63#64 })) c.world c.die
def writeRtlen (s : State) (v : Word) : State :=
  let c := s.cx
  dropRanks (s.modWd c.world c.die (fun w => { w with rtlen := BitVec.ofNat 64 (satTo (bits v 20 0) 1048576) })) c.world c.die

def execRtbaseWrite (a : GReg) (s : State) : Out :=
  issue s (.putx a regRTBASE) (fun s => retire (writeRtbase s (s.rG a)) 4)
def execRtlenWrite (a : GReg) (s : State) : Out :=
  issue s (.putx a regRTLEN) (fun s => retire (writeRtlen s (s.rG a)) 4)

/-! ## Bindings (R378) -/

/-- The rank's context on a die is unbound, placed or away. -/
def unbindRank (s : State) (world die rank : Nat) : State :=
  let ks := (s.ctxs.filter (fun p => p.2.world = world && p.2.die = die && p.2.rank = some rank)).map (·.1)
  (ks.foldl (fun st k => st.modCtx k (fun c => { c with rank := none })) s).modDie die (fun d =>
    { d with away := d.away.filter (fun a => !(a.world = world && a.rank = rank)) })

/-- A context of a world is placed in a slot. -/
def placedCtx (s : State) (world k : Nat) : Bool :=
  let c := s.ctx k
  (c.kind = .control || c.kind = .helper) && c.run ≠ .free && c.world = world && (s.core (k / 16)).slice.isSome

/-- The context that an entry with STATE 1 names on the die itself, if it is placed there. -/
def entryCtxHere (s : State) (world die : Nat) (e : Word32) : Option Nat :=
  let k := coreKeyOf die (entryCluster e) (entryCore e) * 16 + entrySlot e
  if entryState e = 1 && entryDie e = (s.dieAt die).logical.toNat && placedCtx s world k then some k else none

/-- THE BINDING that a write of an entry makes. -/
def bindRank (s : State) (world die rank : Nat) (e : Word32) : State :=
  match entryCtxHere s world die e with
  | none => s
  | some k => (unbindRank s world die rank).modCtx k (fun c => { c with rank := some rank })

/-- The away records that a save of n bindings of a slice leaves room for: the oldest away slices lose theirs. -/
def awayRoom (n : Nat) : Nat → Die → Die
  | 0, d => d
  | fuel + 1, d =>
    match d.away with
    | [] => d
    | a :: _ =>
      if d.away.length + n ≤ 1024 then d
      else awayRoom n fuel { d with away := d.away.filter (fun x => x.slice ≠ a.slice), awayLost := satTo (d.awayLost + 1) 65535 }

/-- A core is saved: its contexts' bindings become away records, and STATE 3 in the die's own entries. -/
def saveBindings (s : State) (core slice : Nat) (savep : Word) : State :=
  let die := core / 192
  let l := (List.range 11).filterMap (fun n =>
    ((s.ctx (core * 16 + n)).rank).map (fun r =>
      ({ world := (s.core core).world, rank := r, cluster := core / 4 % 48, core := core % 4, slot := n, savep := savep,
         slice := slice } : Away)))
  l.foldl (fun st a =>
    let (e, st1) := rankEntry st a.world die a.rank
    writeRank st1 a.world die a.rank (withState e 3))
    (s.modDie die (fun d => let d1 := awayRoom l.length 1025 d; { d1 with away := d1.away ++ l }))

/-- A core is restored: the bindings that were saved with its area are made again, with STATE 1. -/
def restoreBindings (s : State) (core : Nat) : State :=
  let die := core / 192
  let savep := savepVa (s.core core)
  let l := (s.dieAt die).away.filter (fun a => a.world = (s.core core).world && a.savep = savep &&
    some a.slice = (s.core core).slice)
  l.foldl (fun st a =>
    let (e, st1) := rankEntry st a.world die a.rank
    (writeRank st1 a.world die a.rank (withState e 1)).modCtx (core * 16 + a.slot) (fun c => { c with rank := some a.rank }))
    (s.modDie die (fun d => { d with away := d.away.filter (fun a => !l.contains a) }))

/-! ## The receiving NI (R379, R380) -/

inductive Receipt where
  | accepted | declined | refused
  deriving DecidableEq, Repr

def ringVa (savep : Word) (i : Nat) : Word := savep + BitVec.ofNat 64 (0x15000 + 128 * i)

/-- Messages of the ring enter the queue while it has room; an emptied ring is zeroed (R380). -/
def refillRing (s : State) (core : Nat) : State :=
  let co := s.core core
  if co.ringEnd = 0 then s
  else
    let n := min (32 - co.recvQ.length) (co.ringEnd - co.ringNext)
    let more := (List.range n).map (fun i => ringFrom (readRegion s co.world (core / 192) (savepVa co)
      (0x15000 + 128 * (co.ringNext + i)) 128))
    if co.ringEnd ≤ co.ringNext + n then
      (writeRegions s co.world (core / 192) (savepVa co) [(0x15000, List.replicate 0x2000 0)]).modCore core (fun c =>
        { c with recvQ := c.recvQ ++ more, ringNext := 0, ringEnd := 0 })
    else s.modCore core (fun c => { c with recvQ := c.recvQ ++ more, ringNext := c.ringNext + n })

/-- A message for a context that is away is appended to the ring of its save area. -/
def appendRing (s : State) (world die : Nat) (savep : Word) (m : RecvMsg) : Receipt × State :=
  match unitWaits s world die permW (ringVa savep 0) 0x2000 with
  | some s1 => (.declined, s1)
  | none =>
    match unitRead s world die (ringVa savep 0) 0x2000 with
    | (none, s1) => (.refused, s1)
    | (some l, s0) =>
      match (List.range 64).find? (fun i => l[128 * i + 70]? ≠ some 1) with
      | none => (.declined, s0)
      | some i =>
        match unitWrite s0 world die (ringVa savep i) (ringRecord m) with
        | (false, s1) => (.refused, s1)
        | (true, s1) => (.accepted, s1)

/-- THE ARRIVAL of a message for a rank at a location of a die. -/
def receive (s : State) (world die rank cluster core slot : Nat) (sender : Word32) (data : List Byte) : Receipt × State :=
  let ck := coreKeyOf die cluster core
  let k := ck * 16 + slot
  let m : RecvMsg := { slot := slot, sender := sender, len := data.length, data := data, time := s.cycle }
  if placedCtx s world k && (s.ctx k).rank = some rank then
    let co := s.core ck
    if co.recvQ.length < 32 && co.ringEnd = 0 then
      (.accepted, s.modCore ck (fun c => { c with recvQ := c.recvQ ++ [m] }))
    else (.declined, s)
  else
    match (s.dieAt die).away.find? (fun a => a.world = world && a.rank = rank && a.cluster = cluster && a.core = core && a.slot = slot) with
    | some a => appendRing s world die a.savep m
    | none => (.refused, s)

/-! ## The sending NI (R379) -/

def State.modMsg (s : State) (id : Nat) (f : Msg → Msg) : State :=
  { s with msgs := s.msgs.map (fun m => if m.id = id then f m else m) }

/-- The messages of a core in its send queue, and those that a die holds. -/
def sendQueue (s : State) (core : Nat) : List Msg := s.msgs.filter (fun m => m.core = core && (m.st = .queued || m.st = .declined))
def holdQueue (s : State) (die : Nat) : List Msg := s.msgs.filter (fun m => m.die = die && m.st = .held)

/-- The messages that an NI has sent to a rank and that are neither accepted nor refused (R383). -/
def outstanding (s : State) (world die rank : Nat) : List Msg :=
  s.msgs.filter (fun m => m.world = world && m.die = die && m.rank = rank && (m.st = .queued || m.st = .declined))

/-- An earlier message of the same pair has not been accepted yet. -/
def pairBefore (s : State) (m : Msg) : Bool :=
  s.msgs.any (fun x => x.id < m.id && x.who = m.who && x.rank = m.rank && (x.st = .queued || x.st = .declined || x.st = .held))

/-- The die that an entry names, as a route. -/
def entryRoute (s : State) (die : Nat) (e : Word32) : Option (Nat × Nat) := routeDie s die (putAt (entryDie e) 49)

def answered (s : State) (m : Msg) (r : Receipt) : State :=
  s.modMsg m.id (fun x =>
    match r with
    | .accepted => { x with st := .accepted }
    | .refused => { x with st := .refused }
    | .declined => { x with st := .declined, retryAt := s.clk + 64 })

/-- A message reaches the receiving NI; what another package's NI answers is a free value. -/
def execMessageArrival (id : Nat) (s : State) : Out :=
  event s (fun s =>
    match s.msgs.find? (fun m => m.id = id) with
    | none => s
    | some m =>
      if m.st ≠ .queued || pairBefore s m then s
      else
        match entryRoute s m.die m.entry with
        | none => answered (s.logRec m.die 14 0 (putAt (entryDie m.entry) 49) 5 0x101 none) m .refused
        | some (p, d) =>
          if p = s.pkg && (!inService s d 437 || !d2dUp s m.die d) then s
          else if p = s.pkg then
            let (r, s1) := receive s m.world d m.rank (entryCluster m.entry) (entryCore m.entry) (entrySlot m.entry) m.sender m.data
            answered s1 m r
          else if (Tbl.get none (s.world m.world).keys 1).isNone then
            answered (s.logRec m.die 14 0 (putAt (entryDie m.entry) 49) 5 0x101 none) m .refused
          else if !fabricUp s m.die then s
          else
            let (v, s1) := s.freeVal
            answered s1 m (match v.toNat % 3 with | 0 => .accepted | 1 => .declined | _ => .refused))

/-- A declined message is sent again after 64 clk. -/
def execMessageRetry (id : Nat) (s : State) : Out :=
  event s (fun s =>
    match s.msgs.find? (fun m => m.id = id) with
    | none => s
    | some m =>
      if m.st = .declined ∧ m.retryAt ≤ s.clk then
        (s.modMsg id (fun x => { x with st := .queued })).modDie m.die (fun d => { d with retries := satTo (d.retries + 1) 65535 })
      else s)

/-- TINFO of 0x101: bits 47:2 of the PC of the `send`. -/
def sendInfo (pc : BitVec 48) : Word := putAt (pc.toNat / 4) 0

/-- The answer reaches the sender's NI: a refusal raises 0x101 in the sending context (R381). -/
def execMessageReply (id : Nat) (s : State) : Out :=
  event s (fun s =>
    match s.msgs.find? (fun m => m.id = id) with
    | none => s
    | some m =>
      let s1 := { s with msgs := s.msgs.filter (fun x => x.id ≠ id) }
      match m.st with
      | .accepted => s1
      | .refused => pendWho s1 m.who 0x101#9 (BitVec.ofNat 64 m.rank) (sendInfo m.pc)
      | _ => s)

/-! ## send (R381) -/

/-- A message of the issuing context enters the NI under the entry that the NI has now (R379); in a twin run it is refused
(R343), as it is where the entry has become invalid since the `send` was issued. -/
def queueMsg (s : State) (rank : Nat) (e : Word32) (data : List Byte) : State :=
  let c := s.cx
  let (id, s1) := s.fresh
  let st : MsgSt := if (twinOn s c.coreKey).isSome || entryState e = 0 then .refused else if entryState e = 2 then .held
                   else .queued
  let m : Msg := { id := id, world := c.world, die := c.die, core := c.coreKey, who := whoOf s s.cur, pc := c.pc,
                   sender := (match c.rank with | some r => BitVec.ofNat 32 r | none => 0xFFFFFFFF), rank := rank,
                   data := data, entry := e, st := st, retryAt := 0 }
  unrecoverable { s1 with msgs := s1.msgs ++ [m] } c.coreKey

/-- A `send` whose data have been read waits for room in the NI's queues, and is queued. -/
def sendStep (s : State) (d : SReg) (rank : Nat) (data : List Byte) : State :=
  let c := s.cx
  let (e, s1) := rankEntry s c.world c.die rank
  if 16 ≤ (sendQueue s c.coreKey).length || (entryState e = 2 && 256 ≤ (holdQueue s c.die).length) then
    s1.modCx (fun x => { x with phase := 1, waitSubs := data.map (fun b => (0, b.toNat)) })
  else retire ((queueMsg s1 rank e data).wS d 1) 4

/-- DEDUCED (log 76). -/
def execSend (d a b : SReg) (l : BitVec 3) (s : State) : Out :=
  let i := Instr.send d a b l
  let n := 8 * (l.toNat + 1)
  issue s i (fun s =>
    let c := s.cx
    let va := s.rS b
    if c.phase = 1 then sendStep s d (s.rS a).toNat (c.waitSubs.map (fun p => BitVec.ofNat 8 p.2))
    else
    match checkVa va 8 with
    | some k => raiseHere s k va (tinfo1 i n false)
    | none =>
      if !ownUM s c va || !ownUM s c (va + BitVec.ofNat 64 (n - 1)) then raiseHere s 0x102#9 va (tinfo1 i n false)
      else if bits (s.rS a) 63 32 ≠ 0 then raiseHere s 0x102#9 (s.rS a) (tinfo1 i n false)
      else
        let rank := (s.rS a).toNat
        match rankWaits s c.world c.die rank permR with
        | some s1 => s1
        | none =>
          let (e, s1) := rankEntry s c.world c.die rank
          if entryState e = 0 then retire (unrecoverable (s1.wS d 0) c.coreKey) 4
          else sendStep s1 d rank (s.bytes (ownKey s c va) n))

/-! ## recv (R382) -/

/-- The first message of the queue for a slot. -/
def messageFor (s : State) (c : Ctx) : Option RecvMsg := (s.core c.coreKey).recvQ.find? (fun m => m.slot = c.slot)

/-- A list without the first element that a test selects. -/
def dropFirst {α : Type} (p : α → Bool) : List α → List α
  | [] => []
  | x :: t => if p x then t else x :: dropFirst p t

/-- A `recv` takes its message, once the superstep log has what it writes over (R340). -/
def takeMessage (s : State) (d : SReg) (va : Word) (m : RecvMsg) : State :=
  let c := s.cx
  match writeWaits s c.coreKey false (ownKey s c va) va 64 with
  | some s1 => s1
  | none =>
  let s1 := s.modCore c.coreKey (fun x => { x with recvQ := dropFirst (fun y => y.slot = c.slot) x.recvQ })
  let s2 := unrecoverable (refillRing s1 c.coreKey) c.coreKey
  retire ((s2.write c.coreKey false (ownKey s c va) va (padTo 64 m.data)).wS d
    (putAt 1 63 ||| putAt m.len 48 ||| m.sender.zeroExtend 64)) 4

/-- A `recv` samples: the message, the end of its limit, or it goes on waiting. -/
def recvSample (s : State) (d a b : SReg) : State :=
  let c := s.cx
  match messageFor s c with
  | some m => takeMessage s d (s.rS a) m
  | none =>
    let limit := s.rS b
    if limit = 0 || (c.phase = 1 && c.limitAt.any (· ≤ s.clk)) then retire (unrecoverable (s.wS d 0) c.coreKey) 4
    else if c.phase = 1 then s
    else s.modCx (fun x => { x with phase := 1, limitAt := if limit = BitVec.allOnes 64 then none else some (s.clk + limit.toNat) })

def execRecv (d a b : SReg) (s : State) : Out :=
  let i := Instr.recv d a b
  issue s i (fun s =>
    let va := s.rS a
    match checkVa va 64 with
    | some k => raiseHere s k va (tinfo1 i 64 false)
    | none => if !ownUM s s.cx va then raiseHere s 0x102#9 va (tinfo1 i 64 false) else recvSample s d a b)

/-- A waiting `recv` whose limit has passed returns (R382). -/
def execRecvLimitExpiry (ctx : Nat) (s : State) : Out :=
  event s (fun s =>
    let c := s.ctx ctx
    match c.run, c.phase, c.fetched with
    | .live, 1, w :: _ =>
      match decode w 0 with
      | .ok (.recv d a b) => if c.limitAt.any (· ≤ s.clk) then { recvSample { s with cur := ctx } d a b with cur := s.cur } else s
      | _ => s
    | _, _, _ => s)

/-! ## rankset and rankmv (R383) -/

/-- The value of an entry that `rankset` takes; `rankmv` ignores STATE. -/
def rankValueBad (v : Word) (move : Bool) : Bool :=
  let st := bits v 31 30
  bits v 63 32 ≠ 0 || bits v 2 0 ≠ 0 || (!move && st = 3) ||
    ((move || st ≠ 0) && (0x6000 ≤ bits v 29 15 || 48 ≤ bits v 14 9 || 10 < bits v 6 3))

def raise103 (s : State) (i : Instr) (rank : Word) : State := raiseHere s 0x103#9 rank (firstWord i)

/-- The held messages for a rank leave for a location, in the order they were held, or are refused. -/
def releaseHeld (s : State) (world die rank : Nat) (e : Word32) : State :=
  { s with msgs := s.msgs.map (fun m =>
      if m.world = world && m.die = die && m.rank = rank && m.st = .held then
        { m with st := (if entryState e = 1 then .queued else .refused), entry := e }
      else m) }

/-- The end of a `rankset` that has written the old entry to s[d]: it waits for the messages sent to the rank where the new entry has
STATE 2, then the entry is written and bound, and the messages held go (R383). Both entries are kept while it waits. -/
def ranksetStep (s : State) (rank : Nat) (old e : Word32) : State :=
  let c := s.cx
  if entryState e = 2 && outstanding s c.world c.die rank ≠ [] then
    s.modCx (fun x => { x with phase := 1, waitSubs := [(rank, 0), (old.toNat, e.toNat)] })
  else
    let s1 := bindRank (writeRank s c.world c.die rank e) c.world c.die rank e
    retire (if entryState old = 2 && entryState e ≠ 2 then releaseHeld s1 c.world c.die rank e else s1) 4

/-- s[b] is read after s[d] has been written (R6). DEDUCED (log 77). -/
def execRankset (d a b : SReg) (s : State) : Out :=
  let i := Instr.rankset d a b
  issue s i (fun s =>
    let c := s.cx
    let rank := (s.rS a).toNat
    match c.phase, c.waitSubs with
    | 1, [(r, _), (old, e)] => ranksetStep s r (BitVec.ofNat 32 old) (BitVec.ofNat 32 e)
    | _, _ =>
      if (s.wd c.world c.die).rtlen.toNat ≤ rank || rankValueBad (s.rS b) false then raise103 s i (s.rS a)
      else
        match (rankWaits s c.world c.die rank permR).or (rankWaits s c.world c.die rank permW) with
        | some s1 => s1
        | none =>
          let (old, s1) := rankEntry s c.world c.die rank
          let s2 := s1.wS d (old.zeroExtend 64)
          ranksetStep s2 rank old ((s2.rS b).truncate 32))

def execRankmv (d a b : SReg) (s : State) : Out :=
  let i := Instr.rankmv d a b
  issue s i (fun s =>
    let c := s.cx
    let rank := (s.rS a).toNat
    let v := s.rS b
    if (s.wd c.world c.die).rtlen.toNat ≤ rank || rankValueBad v true then raise103 s i (s.rS a)
    else
      match (rankWaits s c.world c.die rank permR).or (rankWaits s c.world c.die rank permW) with
      | some s1 => s1
      | none =>
        let (old, s1) := rankEntry s c.world c.die rank
        if entryState old ≠ 2 then retire (s1.wS d 0) 4
        else
          let e := withState (v.truncate 32) 1
          let s2 := bindRank (writeRank s1 c.world c.die rank e) c.world c.die rank e
          retire ((releaseHeld s2 c.world c.die rank e).wS d 1) 4)

/-- NISTAT (R399). -/
def nistatWord (s : State) (die : Nat) : Word :=
  let d := s.dieAt die
  putAt d.awayLost 48 ||| putAt d.retries 32 ||| putAt (holdQueue s die).length 16 ||| putAt d.discards 0

/-! ## Views by their slots (R384), and time (R375) -/

def viewKey (world die slot : Nat) : Nat := (world * 4 + die) * 4 + slot
def State.view (s : State) (k : Nat) : View := Tbl.get View.empty s.views k
def State.modView (s : State) (k : Nat) (f : View → View) : State :=
  { s with views := Tbl.put View.empty s.views k (f (s.view k)) }

/-- A time exchange slews CYCLE by one clk, at most once in 1,024 clk: forward at once, or the next clk is held back (R375). -/
def execTimeExchange (forward : Bool) (s : State) : Out :=
  event s (fun s =>
    if s.slewAt.any (fun t => s.clk < t + 1024) then s
    else
      let s1 := { s with slewAt := some s.clk }
      if forward then { s1 with cycle := s1.cycle + 1 } else { s1 with slewHold := true })

end Sys2Proof.Machine
end

