-- ==== Sys2Proof/Machine/Views.lean ====
section
/-!
DEFINITION. Membership views, collectives and domain gangs (19 R384 to R397; 20 R402): view records, heartbeats, the accord,
joins, `coll`, `cwait`, `view`, `vack`, the combining of a collective, switches, the join of a gang of several packages.
-/
namespace Sys2Proof.Machine

/-! ## Views as a die sees them -/

/-- The die's own logical number. -/
def ownLogical (s : State) (die : Nat) : Nat := (s.dieAt die).logical.toNat
/-- Member index of a die: a newcomer comes last. -/
def memberIndex (s : State) (die : Nat) (v : View) : Nat := v.members.findIdx (· = ownLogical s die)
/-- The die of this package that has a logical number, if one has. -/
def localDie (s : State) (logical : Nat) : Option Nat := (List.range 4).find? (fun d => ownLogical s d = logical)
/-- Key of the view slot of a member of this package. -/
def localView (s : State) (world slot logical : Nat) : Option Nat := (localDie s logical).map (fun d => viewKey world d slot)

/-- In-network reduction on every path (R390). -/
def View.inr (v : View) : Bool := v.state ≠ 3 && v.outside.isEmpty

/-- VSTAT (R385). -/
def vstatWord (v : View) : Word :=
  putAt v.tag.toNat 32 ||| putAt v.state 30 ||| putAt (if v.inr then 1 else 0) 29 ||| putAt v.members.length 0

/-- The switches on the paths among members: none inside one package. -/
def switchesOf (s : State) (members : List Nat) : List Nat :=
  if members.all (fun m => (localDie s m).isSome) then [] else Config.pathSwitches members

/-! ## View records and VCFG (R384 to R386) -/

/-- A record read as memory stands: tag, key, JOIN, members; none where it breaks R384. -/
def viewRecord (s : State) (world die : Nat) (va : Word) : Option (Word32 × Nat × Bool × List Nat) :=
  if !(vaScratch va && vaLevel va = 2 && (vaDie va = 0x7FFE || vaDie va = ownLogical s die)) then none
  else
    match vaRead s world die va 16 with
    | none => none
    | some l =>
      let w0 := wordAt l 0
      let count := bits w0 47 32
      if bits w0 63 51 ≠ 0 || wordAt l 8 ≠ 0 || count = 0 || 24576 < count || bits w0 49 48 = 0 then none
      else
        match vaRead s world die (va + 16) (2 * count) with
        | none => none
        | some m =>
          let members := (List.range count).map (fun i => leValue ((m.drop (2 * i)).take 2))
          let times := (members.filter (· = ownLogical s die)).length
          if times = (if bit w0 50 then 0 else 1) then
            some (w0.truncate 32, bits w0 49 48, bit w0 50, members)
          else none

def refuseVcfg (s : State) (v : Word) : State := s.logOpen s.cx.die 15 s.cx.world (v &&& ~~~63#64) (some s.cx)

/-- What a record's read leaves in the logs where it is refused (R321). -/
def readRecord (s : State) (world die : Nat) (va : Word) : State :=
  if !(vaScratch va && vaLevel va = 2) then s
  else
    match unitRead s world die va 16 with
    | (some l, s1) => (unitRead s1 world die (va + 16) (2 * min 24576 (bits (wordAt l 0) 47 32))).2
    | (none, s1) => s1

/-- Packets of collectives that members of this package sent under a tag before a member installed it: they reach it then (R386). -/
def sentBefore (s : State) (world die slot : Nat) (tag : Word32) : List (Word32 × Nat × Nat × List Word × List Word) :=
  ((List.range 4).filter (· ≠ die)).flatMap (fun d =>
    let v := s.view (viewKey world d slot)
    if v.state = 3 || v.tag ≠ tag then []
    else v.colls.flatMap (fun c => (c.parts.filter (fun p => p.1 = memberIndex s d v)).map (fun p => (tag, c.n, p.1, p.2.1, p.2.2))))

/-- A write of VCFG of slot n: packets held there whose tag is now old are discarded and counted (R388, R399). -/
def writeVcfg (s : State) (n : Nat) (v : Word) : State :=
  let c := s.cx
  let key := viewKey c.world c.die n
  let old := s.view key
  if old.colls ≠ [] then refuseVcfg s v
  else if bit v 0 then s.modView key (fun _ => View.empty)
  else
    match viewRecord s c.world c.die (v &&& ~~~63#64) with
    | none => refuseVcfg (readRecord s c.world c.die (v &&& ~~~63#64)) v
    | some (tag, k, join, members) =>
      let sw := switchesOf s members
      let keep := old.early.filter (fun p => tag.toNat ≤ p.1.toNat)
      let more := (sentBefore s c.world c.die n tag).filter (fun p => !keep.contains p)
      (s.modDie c.die (fun d => { d with discards := satTo (d.discards + (old.early.length - keep.length)) 65535 })).modView key (fun _ =>
        { View.empty with tag := tag, state := if join then 2 else 0, members := members, key := k, heard := s.clk,
                          sent := s.clk, switches := sw, outside := sw, early := keep ++ more })

def execVcfgInstall (a : GReg) (v : BitVec 2) (s : State) : Out :=
  issue s (.putx a (regVCFG v)) (fun s => retire (writeVcfg s v.toNat (s.rG a)) 4)
def execVcfgClear (a : GReg) (v : BitVec 2) (s : State) : Out :=
  issue s (.putx a (regVCFG v)) (fun s => retire (writeVcfg s v.toNat (s.rG a)) 4)

/-! ## Heartbeats and the accord (R387, R388) -/

/-- A member's heartbeat to the next one, every 1,500 clk. DEDUCED (log 95). -/
def execHeartbeatSend (world die slot : Nat) (s : State) : Out :=
  event s (fun s =>
    let key := viewKey world die slot
    let v := s.view key
    let i := memberIndex s die v
    if v.state = 3 || v.members.length ≤ i || s.clk < v.sent + 1500 then s
    else
      let s1 := s.modView key (fun v => { v with sent := s.clk })
      match (v.members[(i + 1) % v.members.length]?).bind (localDie s) with
      | some d => if !d2dUp s die d then s1
                  else s1.modView (viewKey world d slot) (fun w => if w.state = 3 then w else { w with heard := s.clk })
      | none => s1)

/-- The members that a view does not hold failed. -/
def View.alive (v : View) : List Nat := v.members.filter (fun m => !v.failed.contains m)

/-- The newcomer of an abandoned join has its slot uninstalled (R389). -/
def abandonJoin (s : State) (world slot : Nat) (v : View) : State :=
  match v.joining.bind (localView s world slot) with
  | some k => s.modView k (fun w => if w.state = 2 then View.empty else w)
  | none => s

/-- A die stops its collectives on the view and discards their partial results (R387). -/
def stopColls (v : View) : View := { v with colls := v.colls.map (fun c => { c with parts := [] }) }

/-- Round 1 begins, or begins again, at the leader: PROPOSE(T, S). -/
def startAccord (s : State) (world slot key : Nat) : State :=
  let v := s.view key
  (abandonJoin s world slot v).modView key (fun v =>
    { stopColls v with state := 1, joining := none, proposed := some (v.tag + 1, v.alive), asked := v.alive,
                       askedAt := s.clk, acks := [], acked := true })

/-- A failure is reported to the member that leads: it starts the accord if it is in this package. -/
def reportFailed (s : State) (world slot : Nat) (v : View) (failed : Nat) : State :=
  match (v.alive.head?).bind (localView s world slot) with
  | none => s
  | some k =>
    if (s.view k).state = 3 then s
    else startAccord (s.modView k (fun w =>
      { w with failed := if w.failed.contains failed then w.failed else w.failed ++ [failed] })) world slot k

/-- 6,000 clk without a heartbeat: the predecessor is declared failed. -/
def execHeartbeatTimeout (world die slot : Nat) (s : State) : Out :=
  event s (fun s =>
    let key := viewKey world die slot
    let v := s.view key
    let i := memberIndex s die v
    let n := v.members.length
    match v.members[(i + n - 1) % n]? with
    | none => s
    | some p =>
      if v.state = 3 || n ≤ i || n ≤ 1 || s.clk < v.heard + 6000 || v.failed.contains p then s
      else
        let s1 := s.modView key (fun v => { v with failed := v.failed ++ [p] })
        reportFailed s1 world slot (s1.view key) p)

/-- Traffic of a view from another package: dropped and logged where the key that the view names is not loaded (R374). -/
def fromOutside (s : State) (world die : Nat) (v : View) (outside : Bool) (act : State → State) : State :=
  if outside && (Tbl.get none (s.world world).keys v.key).isNone then
    let (f, s1) := s.freeVal
    s1.logOpen die 14 0 f none
  else act s

/-- The member that leads is in another package. -/
def ledOutside (s : State) (members : List Nat) : Bool := members.head?.any (fun m => (localDie s m).isNone)

/-- A proposal that its leader has made, with T or before a reply raised T: one in this package is asked, one outside is
believed. -/
def proposalMade (s : State) (world slot tag : Nat) (members : List Nat) : Bool :=
  match (members.head?).bind (localView s world slot) with
  | none => members ≠ []
  | some k => (s.view k).proposed.any (fun p => p.2 = members && (p.1.toNat = tag || p.1.toNat = tag + 1))

/-- A member's reply with its installed tag reaches the leader: one that shows T as committed makes T the leader's tag plus 2
(R387). -/
def takeReply (v : View) (member tag : Nat) : View :=
  { v with acks := member :: v.acks.filter (· ≠ member),
           proposed := v.proposed.map (fun p => if p.1.toNat ≤ tag then (v.tag + 2, p.2) else p) }

/-- A member's reply reaches a leader of this package. -/
def replyTo (s : State) (world slot : Nat) (members : List Nat) (me tag : Nat) : State :=
  match (members.head?).bind (localView s world slot) with
  | some k => s.modView k (fun v => takeReply v me tag)
  | none => s

/-- A member receives PROPOSE: of an accord, it stops its collectives and replies; of a join, it shows STATE 2. -/
def execPropose (world die slot tag : Nat) (members : List Nat) (join : Bool) (s : State) : Out :=
  event s (fun s =>
    let key := viewKey world die slot
    let v := s.view key
    let me := ownLogical s die
    let t : Word32 := BitVec.ofNat 32 tag
    if v.state = 3 || !members.contains me || tag < v.tag.toNat || 2 ^ 32 ≤ tag || !proposalMade s world slot tag members ||
        (join && (v.state = 1 || tag = v.tag.toNat)) then s
    else fromOutside s world die v (ledOutside s members) (fun s =>
      if join then
        if v.state = 2 && v.proposed = some (t, members) then s
        else s.modView key (fun v => { v with state := 2, proposed := some (t, members), joining := members.getLast?, acked := false })
      else
        replyTo ((abandonJoin s world slot v).modView key (fun v =>
          { stopColls v with state := 1, joining := none,
                             proposed := (if members.head? = some me then v.proposed else some (t, members)) }))
          world slot members me v.tag.toNat))

/-- A member that has not replied within 6,000 clk is removed, and round 1 restarts with the same tag. -/
def execProposeReplyTimeout (world die slot member : Nat) (s : State) : Out :=
  event s (fun s =>
    let key := viewKey world die slot
    let v := s.view key
    match v.proposed with
    | some (t, ms) =>
      if v.state = 1 && ms.head? = some (ownLogical s die) && v.asked.contains member && !v.acks.contains member &&
          member ≠ ownLogical s die && v.askedAt + 6000 ≤ s.clk then
        let ms1 := ms.filter (· ≠ member)
        s.modView key (fun v => { v with failed := v.failed ++ [member], proposed := some (t, ms1), asked := ms1,
                                         askedAt := s.clk, acks := [] })
      else s
    | none => s)

/-! ## The fields of a descriptor (R391) -/

def descKind (w : List Word) : Nat := bits (w.headD 0) 3 0
def descOp (w : List Word) : Nat := bits (w.headD 0) 7 4
def descFmt (w : List Word) : Nat := bits (w.headD 0) 11 8
def descView (w : List Word) : Nat := bits (w.headD 0) 13 12
def descCount (w : List Word) : Nat := bits (w.headD 0) 63 32
def descSrc (w : List Word) : Word := w.getD 1 0
def descDst (w : List Word) : Word := w.getD 2 0
def descRoot (w : List Word) : Nat := bits (w.getD 3 0) 31 0

/-! ## Handles (R393, R394) -/

/-- A handle of a context, wherever its slice is. -/
def modHandle (s : State) (w : Who) (h : Nat) (f : Handle → Handle) : State :=
  let upd (t : Tbl (Option Handle)) : Tbl (Option Handle) := Tbl.put none t h ((Tbl.get none t h).map f)
  match spotOf s w with
  | .placed k => s.modCtx k (fun c => { c with handles := upd c.handles })
  | .away => modKept s w (fun q => { q with handles := upd q.handles })
  | .gone => s

/-- A handle is that of a collective: its view, tag and number. A later run of the slice may use the same handle number (R394). -/
def Handle.isOf (h : Handle) (c : Coll) : Bool := h.view = descView c.desc && h.tag = c.tag.truncate 16 && h.seq = c.n

/-- The end of a collective of a die with a status. -/
def endColl (s : State) (key : Nat) (c : Coll) (status : Nat) (fl : FlagSet) : State :=
  modHandle (s.modView key (fun v => { v with colls := v.colls.filter (fun x => x.n ≠ c.n) })) c.who c.handle
    (fun h => if h.isOf c then { h with status := status, flags := fl } else h)

/-- A `cwait` samples its handle: it returns the status, frees the handle, and ORs the flags of a DONE into AST, which raises no
trap. DESIGN CHOICE (log 105). -/
def cwaitSample (s : State) (d : SReg) (v : Word) : State :=
  match (if 7 < v.toNat then none else Tbl.get none s.cx.handles v.toNat) with
  | none => retire (s.wS d 3) 4
  | some h =>
    if h.status = 5 then s.modCx (fun c => { c with phase := 1 })
    else
      retire ((s.modCx (fun c =>
        { c with handles := Tbl.put none c.handles v.toNat none,
                 ast := if h.status = 0 then c.ast ||| h.flags.zeroExtend 64 else c.ast })).wS d (BitVec.ofNat 64 h.status)) 4

def execCwait (d a : SReg) (s : State) : Out :=
  issue s (.cwait d a) (fun s => cwaitSample s d (s.rS a))

/-- A context that waits in a `cwait` samples the end of its collective in the same clk (R402). -/
def cwaitNow (s : State) (k : Nat) : State :=
  let c := s.ctx k
  match c.run, c.phase, c.fetched with
  | .live, 1, w :: _ =>
    match decode w 0 with
    | .ok (.cwait d a) => { cwaitSample { s with cur := k } d (c.readS a) with cur := s.cur }
    | _ => s
  | _, _, _ => s

/-! ## The commit (R387 to R389) -/

/-- A commit raises 0x121 once in each context with a collective pending on the view; one that waits on it returns first. -/
def notifyChange (s : State) (slot : Nat) (tag : Word32) (colls : List Coll) : State :=
  ((colls.map (·.who)).eraseDups).foldl (fun st w =>
    let mask := (colls.filter (fun c => c.who = w)).foldl (fun m c => m ||| 2 ^ c.handle) 0
    let st1 := match spotOf st w with
      | .placed k => cwaitNow st k
      | _ => st
    pendWho st1 w 0x121#9 (tag.zeroExtend 64) (putAt mask 0 ||| putAt slot 8)) s

/-- THE COMMIT of (T, S) at a die. -/
def applyCommit (s : State) (world die slot : Nat) (tag : Word32) (members : List Nat) : State :=
  let key := viewKey world die slot
  let v := s.view key
  let s1 := v.colls.foldl (fun st c => endColl st key c 1 0) s
  let sw := switchesOf s members
  let s2 := s1.modView key (fun v =>
    if members.contains (ownLogical s die) then
      { View.empty with tag := tag, state := 0, members := members, key := v.key, heard := s.clk, sent := v.sent,
                        failed := v.failed.filter members.contains, early := v.early, switches := sw,
                        outside := sw.filter (fun x => v.outside.contains x || !v.switches.contains x) }
    else View.empty)
  notifyChange s2 slot tag v.colls

/-- A leader of this package has proposed (T, S) and has the reply of every other member, or every acknowledgement of a join; or
it has committed (T, S). -/
def commitDue (s : State) (world slot tag : Nat) (members : List Nat) : Bool :=
  match (members.head?).bind (localView s world slot) with
  | none => true
  | some k =>
    let v := s.view k
    (v.state = 0 && v.tag.toNat = tag && v.members = members) ||
    (match v.proposed with
     | some (t, ms) =>
       ms = members && tag = t.toNat && ms.all (fun m => v.acks.contains m || (v.state = 1 && some m = ms.head?)) &&
       (v.state = 1 || v.state = 2)
     | none => false)

/-- A member receives COMMIT. -/
def execCommit (world die slot tag : Nat) (members : List Nat) (s : State) : Out :=
  event s (fun s =>
    let v := s.view (viewKey world die slot)
    if v.state = 3 || tag ≤ v.tag.toNat || 2 ^ 32 ≤ tag || members = [] || !commitDue s world slot tag members then s
    else fromOutside s world die v (ledOutside s members) (fun s => applyCommit s world die slot (BitVec.ofNat 32 tag) members))

/-! ## Joins (R389, R396) -/

/-- The leader receives JOIN_REQ, once no accord runs: it proposes the list with the newcomer last. -/
def execJoinReq (world die slot member : Nat) (s : State) : Out :=
  event s (fun s =>
    let key := viewKey world die slot
    let v := s.view key
    let there := match localView s world slot member with
      | some k => (s.view k).state = 2
      | none => true
    if v.state ≠ 0 || v.members.head? ≠ some (ownLogical s die) || v.members.contains member || !there || 24576 ≤ v.members.length then s
    else fromOutside s world die v (localDie s member).isNone (fun s =>
      s.modView key (fun v =>
        { v with state := 2, joining := some member, proposed := some (v.tag + 1, v.members ++ [member]),
                 asked := v.members ++ [member], acks := [], acked := false })))

/-- An acknowledgement reaches the leader; with all of them it commits. -/
def execJoinAck (world die slot member : Nat) (s : State) : Out :=
  event s (fun s =>
    let key := viewKey world die slot
    let v := s.view key
    let sent := match localView s world slot member with
      | some k => (s.view k).state = 2 && (s.view k).acked
      | none => true
    match v.proposed with
    | some (t, ms) =>
      if v.state ≠ 2 || ms.head? ≠ some (ownLogical s die) || !ms.contains member || !sent then s
      else fromOutside s world die v (localDie s member).isNone (fun s =>
        let acks := member :: v.acks.filter (· ≠ member)
        let s1 := s.modView key (fun v => { v with acks := acks })
        if ms.all acks.contains then applyCommit s1 world die slot t ms else s1)
    | none => s)

def raise123 (s : State) (i : Instr) (slot : Nat) : State := raiseHere s 0x123#9 (BitVec.ofNat 64 slot) (firstWord i)

def execVack (d a : SReg) (s : State) : Out :=
  let i := Instr.vack d a
  issue s i (fun s =>
    let c := s.cx
    let a := s.rS a
    if bits a 63 2 ≠ 0 then raise123 s i (bits a 1 0)
    else
      let key := viewKey c.world c.die (bits a 1 0)
      let v := s.view key
      let s0 := unrecoverable s c.coreKey
      match (if v.state = 2 && v.colls = [] then v.proposed else none) with
      | none => retire (s0.wS d 0) 4
      | some p => retire ((s0.modView key (fun v => { v with acked := true })).wS d (p.1.zeroExtend 64)) 4)

/-- The value of `view` (R395). -/
def viewValue (s : State) (c : Ctx) (a : Word) : Word :=
  let v := s.view (viewKey c.world c.die (bits a 1 0))
  if bits a 63 4 ≠ 0 then 0
  else
    match bits a 3 2 with
    | 0 => vstatWord v
    | 1 => if v.state = 3 then 0xFFFFFFFF else putAt (memberIndex s c.die v) 16 ||| putAt v.members.length 0
    | 2 => BitVec.ofNat 64 v.outside.length
    | _ => if v.state = 2 then (match v.proposed with | some p => p.1.zeroExtend 64 | none => 0) else 0

def execView (d a : SReg) (s : State) : Out := setS s (.view d a) d (viewValue s s.cx (s.rS a)) 4

/-! ## coll (R391 to R393) -/

/-- A DM or paged VA of the die, at a multiple of 4. -/
def collPlace (s : State) (die : Nat) (va : Word) : Bool :=
  (vaDie va = 0x7FFE || vaDie va = ownLogical s die) && va.toNat % 4 = 0 && (checkVa va 4).isNone &&
    (!vaScratch va || vaLevel va = 2)

/-- The byte of the first field of a descriptor that breaks R391; `n` is the COUNT of an installed view. DEDUCED (log 75). -/
def descByte (s : State) (die : Nat) (w : List Word) (n : Option Nat) : Option Nat :=
  let w0 := w.headD 0
  let kind := descKind w
  let op := descOp w
  let fmt := descFmt w
  if 4 < kind || (kind ≤ 1 && 6 < op) then some 0
  else if 2 < fmt || (kind ≤ 1 && ((3 ≤ op && op ≤ 5 && fmt = 0) || (op = 6 && fmt ≠ 0))) then some 1
  else if bits w0 31 14 ≠ 0 then ((List.range 18).find? (fun i => bit w0 (14 + i))).map (fun i => (14 + i) / 8)
  else if 65536 < descCount w || (kind = 4) ≠ (descCount w = 0) then some 4
  else if kind ≠ 4 && !collPlace s die (descSrc w) then some 8
  else if kind ≠ 4 && !collPlace s die (descDst w) then some 16
  else if (kind = 1 || kind = 2) && n.any (· ≤ descRoot w) then some 24
  else (((wordsBytes (w.drop 3)).zip (List.range 40)).find? (fun (p : Byte × Nat) => 4 ≤ p.2 && p.1 ≠ 0)).map (fun p => 24 + p.2)

/-- The slot has room for another collective. -/
def collRoom (v : View) : Bool := v.state = 0 && v.colls.length < 8
/-- The lowest free handle of a context. -/
def freeHandle (c : Ctx) : Option Nat := (List.range 8).find? (fun h => (Tbl.get none c.handles h).isNone)

/-- The descriptor of a `coll` that waits, as it was read at issue. -/
def heldDesc (c : Ctx) : List Word := c.waitSubs.map (fun p => BitVec.ofNat 64 p.2)

/-- A collective is recorded: in a twin run it is refused at once (R343). -/
def recordColl (s : State) (d : SReg) (w : List Word) (h : Nat) : State :=
  let c := s.cx
  let key := viewKey c.world c.die (descView w)
  let v := s.view key
  let twin := (twinOn s c.coreKey).isSome
  let x : Handle := { view := descView w, tag := v.tag.truncate 16, seq := v.seq, status := if twin then 4 else 5, flags := 0, desc := w }
  let s1 := unrecoverable (s.modCx (fun c => { c with handles := Tbl.put none c.handles h (some x) })) c.coreKey
  let s2 := if twin then s1
    else s1.modView key (fun v => { v with seq := v.seq + 1, colls := v.colls ++
      [{ n := v.seq, who := whoOf s s.cur, handle := h, tag := v.tag, desc := w, parts := [] }] })
  retire (s2.wS d (BitVec.ofNat 64 h)) 4

/-- A `coll` whose descriptor has been read: room on the slot, the drain of entries over SRC, the record. -/
def collStep (s : State) (d : SReg) (w : List Word) : State :=
  let c := s.cx
  let v := s.view (viewKey c.world c.die (descView w))
  match (if collRoom v then freeHandle c else none) with
  | none => s
  | some h =>
    if c.phase = 1 then
      let (ids, s1) := if descKind w = 4 then ([], s)
        else drain s c.coreKey (fun e => e.coversVa (canonVa s c.die (descSrc w)) (4 * descCount w))
      if ids = [] then recordColl s1 d w h else s1.modCx (fun c => { c with phase := 2, waitEntries := ids })
    else if acked s c.coreKey c.waitEntries then recordColl s d w h
    else s

def execColl (d a : SReg) (s : State) : Out :=
  let i := Instr.coll d a
  issue s i (fun s =>
    let c := s.cx
    if c.phase ≠ 0 then collStep s d (heldDesc c)
    else
      let va := s.rS a
      match checkVa va 64 with
      | some k => raiseHere s k va (tinfo1 i 64 false)
      | none =>
        if !ownUM s c va then raiseHere s 0x122#9 va (tinfoReason i 1)
        else
          let w := (List.range 8).map (fun j => BitVec.ofNat 64 (s.readMem (ownKey s c va + 8 * j) 8))
          let v := s.view (viewKey c.world c.die (descView w))
          match descByte s c.die w (if v.state = 3 then none else some v.members.length) with
          | some b => raiseHere s 0x122#9 va (tinfoReason i 2 ||| putAt b 40)
          | none =>
            if v.state = 3 then raise123 s i (descView w)
            else
              collStep (s.modCx (fun c => { c with phase := 1, waitSubs := (List.range 8).zip (w.map (·.toNat)) })) d w)

/-! ## Packets of collectives (R388, R391, R392) -/

/-- A packet on its way to a die or held there: tag, number, member, descriptor, elements. A descriptor that is empty says
that the member's read or write was refused. -/
abbrev Packet := Word32 × Nat × Nat × List Word × List Word

def modColl (s : State) (key n : Nat) (f : Coll → Coll) : State :=
  s.modView key (fun v => { v with colls := v.colls.map (fun c => if c.n = n then f c else c) })

def addPart (c : Coll) (m : Nat) (desc data : List Word) : Coll := { c with parts := (m, desc, data) :: c.parts.filter (fun p => p.1 ≠ m) }

/-- A packet is sent to every other member of this package. -/
def sendAll (s : State) (world die slot : Nat) (members : List Nat) (p : Packet) : State :=
  members.foldl (fun st m =>
    match localDie st m with
    | some d => if d = die then st else st.modView (viewKey world d slot) (fun w =>
        if w.state = 3 then w else { w with early := w.early ++ [p] })
    | none => st) s

/-- The bytes that a member contributes. -/
def sourceBytes (c : Coll) (me : Nat) : Nat :=
  if descKind c.desc = 4 || (descKind c.desc = 2 && me ≠ descRoot c.desc) then 0 else 4 * descCount c.desc

/-- A contribution that would leave the package without the key that its view names is refused at its own NI (R374). -/
def keyless (s : State) (world : Nat) (v : View) : Bool :=
  v.members.any (fun m => (localDie s m).isNone) && (Tbl.get none (s.world world).keys v.key).isNone

/-- THE ENGINE STARTS: SRC is read as memory stands and goes to every member. -/
def startColl (s : State) (world die slot : Nat) (c : Coll) : State :=
  let key := viewKey world die slot
  let v := s.view key
  let me := memberIndex s die v
  let n := sourceBytes c me
  match (if n = 0 then none else unitWaits s world die permR (descSrc c.desc) n) with
  | some s1 => s1
  | none =>
    let (desc, data, s1) := if keyless s world v then ([], [], s.logOpen die 14 0 (descSrc c.desc) none)
      else match unitRead s world die (descSrc c.desc) n with
      | (some l, s1) => (c.desc, (List.range (n / 4)).map (fun i => BitVec.ofNat 64 (leValue ((l.drop (4 * i)).take 4))), s1)
      | (none, s1) => ([], [], s1)
    sendAll (modColl s1 key c.n (fun c => addPart c me desc data)) world die slot v.members (c.tag, c.n, me, desc, data)

/-- A packet that has arrived at a die: one with an older tag is discarded, one that comes before its collective waits. -/
def takePacket (s : State) (world die slot : Nat) (p : Packet) : State :=
  let key := viewKey world die slot
  let v := s.view key
  let (tag, n, m, desc, data) := p
  if v.state = 3 then s
  else if tag.toNat < v.tag.toNat then s.modDie die (fun d => { d with discards := satTo (d.discards + 1) 65535 })
  else if tag ≠ v.tag || v.seq ≤ n then s.modView key (fun v => { v with early := v.early ++ [p] })
  else if v.state = 1 then s
  else modColl s key n (fun c => addPart c m desc data)

/-- A collective packet is processed: the die's own member index starts its engine, a packet held at the die is taken up, one
from another package arrives. -/
def execCollectivePacket (world die slot tag member n : Nat) (desc data : List (BitVec 64)) (s : State) : Out :=
  event s (fun s =>
    let key := viewKey world die slot
    let v := s.view key
    let t : Word32 := BitVec.ofNat 32 tag
    if v.state = 3 then s
    else
      match v.early.find? (fun q => q.1 = t && q.2.1 = n && q.2.2.1 = member) with
      | some q => takePacket (s.modView key (fun v => { v with early := dropFirst (· = q) v.early })) world die slot q
      | none =>
        if t ≠ v.tag || (v.members[member]?).any (fun m => (localDie s m).isNone) then
          fromOutside s world die v true (fun s => takePacket s world die slot (t, n, member, desc, data))
        else if member ≠ memberIndex s die v || v.state = 1 then s
        else
          match v.colls.find? (fun c => c.n = n) with
          | some c => if c.parts.any (fun q => q.1 = member) then s else startColl s world die slot c
          | none => s)

/-! ## Results (R391) -/

/-- One level of the tree: neighbours are combined, a lone block passes up. -/
def pairUp (f : Word → Word → Word × FlagSet) : List Word → List Word × FlagSet
  | a :: b :: t =>
    let (x, fl) := f a b
    let (l, fs) := pairUp f t
    (x :: l, fl ||| fs)
  | l => (l, 0)

/-- The fixed binary tree over the member indices. -/
def treeOf (f : Word → Word → Word × FlagSet) : Nat → List Word → Word × FlagSet
  | 0, l => (l.headD 0, 0)
  | fuel + 1, l =>
    if l.length ≤ 1 then (l.headD 0, 0)
    else
      let (l1, f1) := pairUp f l
      let (x, f2) := treeOf f fuel l1
      (x, f1 ||| f2)

/-- The operator of a descriptor on two elements. -/
def collOp (op fmt : Nat) (a b : Word) : Word × FlagSet :=
  let t : BitVec 4 := BitVec.ofNat 4 fmt
  let x := a.toNat % 2 ^ 32
  let y := b.toNat % 2 ^ 32
  let (r, fl) := match op with
    | 1 => opMin t x y 0
    | 2 => opMax t x y 0
    | 3 => opAnd x y 0
    | 4 => opOr x y 0
    | 5 => opXor x y 0
    | _ => opAdd t .rne x y 0
  (BitVec.ofNat 64 (r % 2 ^ 32), fl)

/-- The F32 sum divided by the COUNT of the view, with one rounding. -/
def meanOf (sum : Word) (count : Nat) : Word × FlagSet :=
  let (q, f1) := FVal.div (fmtF32.value (sum.toNat % 2 ^ 32)) (FVal.ofInt count)
  let (r, f2) := fmtF32.round .rne q
  (BitVec.ofNat 64 r, f1 ||| f2)

/-- The combination of the members' contributions, element by element. -/
def combined (c : Coll) (n : Nat) : List Word × FlagSet :=
  let part (m : Nat) : List Word := ((c.parts.find? (fun p => p.1 = m)).map (·.2.2)).getD []
  let rs := (List.range (descCount c.desc)).map (fun e =>
    let (x, f1) := treeOf (collOp (descOp c.desc) (descFmt c.desc)) n ((List.range n).map (fun m => (part m).getD e 0))
    if descOp c.desc = 6 then let (y, f2) := meanOf x n; (y, f1 ||| f2) else (x, f1))
  (rs.map (·.1), rs.foldl (fun f r => f ||| r.2) 0)

/-- What a member writes to its DST, and the flags. -/
def collResult (c : Coll) (n me : Nat) : List Word × FlagSet :=
  let part (m : Nat) : List Word := ((c.parts.find? (fun p => p.1 = m)).map (·.2.2)).getD []
  match descKind c.desc with
  | 0 => combined c n
  | 1 => let (l, f) := combined c n; (if me = descRoot c.desc then l else [], f)
  | 2 => (part (descRoot c.desc), 0)
  | 3 => ((List.range n).flatMap part, 0)
  | _ => ([], 0)

/-- Descriptors agree in every field except SRC and DST (R392). -/
def descAgree (a b : List Word) : Bool := a.headD 0 = b.headD 0 && a.drop 3 = b.drop 3

/-- A gang that spans packages has joined (R393, R397). -/
def gangJoined (s : State) (w : Who) : Bool :=
  match s.slice w.slice with
  | none => true
  | some x => (((s.job x.job).map (fun j => j.lpb.gpkgs)).getD 1 ≤ x.joined.length) || ((s.job x.job).map (fun j => j.lpb.gpkgs)).getD 1 ≤ 1

/-- The dies of this package that are members of a view. -/
def memberDies (s : State) (v : View) : List Nat := (List.range 4).filter (fun d => v.members.contains (ownLogical s d))

/-- The collective of a number at a die whose contributions have all arrived, where its engine can end it. -/
def readyColl (s : State) (world slot n : Nat) (tag : Word32) (die : Nat) : Option Coll :=
  let v := s.view (viewKey world die slot)
  if (v.state = 0 || v.state = 2) && v.tag = tag && inService s die 436 then
    (v.colls.find? (fun c => c.n = n)).filter (fun c =>
      (List.range v.members.length).all (fun m => c.parts.any (fun p => p.1 = m)) && gangJoined s c.who)
  else none

/-- What a die's member writes: its address, the bytes, the flags. -/
def collWrite (s : State) (world slot : Nat) (p : Nat × Coll) : Word × List Byte × FlagSet :=
  let v := s.view (viewKey world p.1 slot)
  let (out, fl) := collResult p.2 v.members.length (memberIndex s p.1 v)
  (descDst p.2.desc, out.flatMap (fun w => leBytes w.toNat 4), fl)

/-- Every member's DST in this package is written, each as memory stands: whether none was refused. -/
def writeMembers (s : State) (world slot : Nat) (l : List (Nat × Coll)) : Bool × State :=
  l.foldl (fun (a : Bool × State) p =>
    let w := collWrite s world slot p
    let (ok, s1) := unitWrite a.2 world p.1 w.1 w.2.1
    (a.1 && ok, s1)) (true, s)

/-- The members of a collective end it with one status: DONE with each one's flags. -/
def endMembers (s : State) (world slot : Nat) (l : List (Nat × Coll)) (status : Nat) : State :=
  l.foldl (fun st p => endColl st (viewKey world p.1 slot) p.2 status (if status = 0 then (collWrite s world slot p).2.2 else 0)) s

/-- THE END of a collective: a refused read or write ends it on every member (R393), descriptors that differ do (R392); otherwise every
member's DST is written before any member ends it (R408). DEDUCED (log 136). -/
def finishColl (s : State) (world slot : Nat) (l : List (Nat × Coll)) : State :=
  if l.any (fun p => p.2.parts.any (fun q => q.2.1 = [])) then endMembers s world slot l 4
  else if l.any (fun p => !p.2.parts.all (fun q => descAgree q.2.1 p.2.desc)) then endMembers s world slot l 2
  else
    match l.findSome? (fun p => let w := collWrite s world slot p
      if w.2.1 = [] then none else unitWaits s world p.1 permW w.1 w.2.1.length) with
    | some s1 => s1
    | none => let (ok, s1) := writeMembers s world slot l; endMembers s1 world slot l (if ok then 0 else 4)

/-- A collective ends once every member in this package has every contribution. -/
def execCollectiveEnd (world die slot n : Nat) (s : State) : Out :=
  event s (fun s =>
    let v := s.view (viewKey world die slot)
    let ds := memberDies s v
    let l := ds.filterMap (fun d => (readyColl s world slot n v.tag d).map (fun c => (d, c)))
    if v.state = 3 || !ds.contains die || l.length < ds.length then s else finishColl s world slot l)

/-! ## Switches (R390) -/

/-- The SCTL of the package of member 0 attests a switch and gives it the view's key. -/
def execSwitchAttest (world die slot switch : Nat) (s : State) : Out :=
  event s (fun s => s.modView (viewKey world die slot) (fun v => { v with outside := v.outside.filter (· ≠ switch) }))

/-- A switch leaves the domain: engines go on by the endpoint path, under the same tag. -/
def execSwitchLeavesDomain (world die slot switch : Nat) (s : State) : Out :=
  event s (fun s => s.modView (viewKey world die slot) (fun v =>
    if v.switches.contains switch && !v.outside.contains switch then { v with outside := v.outside ++ [switch] } else v))

/-! ## Domain gangs (R397) -/

/-- The packages of a slice's gang. -/
def gpkgsOf (s : State) (x : Slice) : Nat := ((s.job x.job).map (fun j => j.lpb.gpkgs)).getD 1

/-- A package reports that its members have started; this one does once they are placed. -/
def execGangJoinReport (slice pkg : Nat) (s : State) : Out :=
  event s (fun s =>
    match s.slice slice with
    | none => s
    | some x =>
      if gpkgsOf s x ≤ 1 || x.joined.contains pkg || gpkgsOf s x ≤ x.joined.length || (pkg = s.pkg && x.st ≠ .placed) then s
      else s.modSlice slice (fun y => { y with joined := y.joined ++ [pkg] }))

/-- One join window in clk: JOINWIN counts µs. -/
def windowClk (s : State) (x : Slice) : Nat :=
  let w := ((s.job x.job).map (fun j => j.lpb.joinwin)).getD 0
  (if w = 0 then 100 else w) * 1500

/-- The attempt is aborted: started members stop without a save, the budget comes back, the slice requeues. -/
def abortAttempt (s : State) (x : Slice) : State :=
  let s1 := if x.st = .placed || x.st = .saving || x.st = .rolling then x.cores.foldl freeCore (clearNodes s (nodesOf x)) else s
  (dropAway s1 x.id).modSlice x.id (fun y =>
    { y with st := .waiting, fresh := false, holds := [], cores := [], reports := [], joined := [], tries := y.tries + 1,
             budget := ((s.job x.job).map (fun j => j.lpb.budget)).getD 0, exhausted := false, kept := [], keptGroups := [],
             tstart := y.tstart + BitVec.ofNat 64 (2 * windowClk s x) })

/-- The third abort in a row: every started member's control context takes 0x0C4; one that is away takes it when it is back. -/
def thirdAbort (s : State) (x : Slice) : State :=
  (List.range x.cores.length).foldl (fun st m => pendWho st { slice := x.id, member := m, slot := 0 } 0x0C4#9 x.tstart (putAt (gpkgsOf s x - x.joined.length) 0 ||| putAt 3 16))
    (s.modSlice x.id (fun y => { y with tries := 3 }))

def execJoinWindowExpire (slice : Nat) (s : State) : Out :=
  event s (fun s =>
    match s.slice slice with
    | none => s
    | some x =>
      if gpkgsOf s x ≤ 1 || gpkgsOf s x ≤ x.joined.length || 3 ≤ x.tries || s.cycle.toNat < x.tstart.toNat + windowClk s x then s
      else if x.tries < 2 then abortAttempt s x
      else thirdAbort s x)

/-! ## Flits from other packages (R374) -/

/-- What a flit of another package does on a die, once its tag has verified. -/
def flitEffect (s : State) (die world : Nat) (p : Flit) : State :=
  match p with
  | .other => s
  | .heartbeat slot => s.modView (viewKey world die slot) (fun v => if v.state = 3 then v else { v with heard := s.clk })
  | .report slot failed =>
    let key := viewKey world die slot
    let v := s.view key
    if v.state = 3 || !v.members.contains failed || failed = ownLogical s die then s
    else
      let s1 := s.modView key (fun w => { w with failed := if w.failed.contains failed then w.failed else w.failed ++ [failed] })
      if (s1.view key).alive.head? = some (ownLogical s die) then startAccord s1 world slot key else s1
  | .reply slot member tag =>
    s.modView (viewKey world die slot) (fun v =>
      if v.state = 1 && v.asked.contains member && (localDie s member).isNone &&
          v.proposed.any (fun p => p.2.head? = some (ownLogical s die) && p.2.contains member) then takeReply v member tag
      else v)
  | .message rank cluster core slot sender data => (receive s world die rank cluster core slot sender data).2
  | .write va data =>
    let refuse (st : State) : State := let (d, cls, idx) := unitArray st world die va; st.logRec d cls idx va 5 0x041 none
    if !(s.world world).bound then refuse s
    else
      match unitWaits s world die permW va data.length with
      | some s1 => s1
      | none =>
        match vaWrite s world die va data with
        | some s1 => s1
        | none => refuse s

/-- The view slot that a flit names. -/
def flitView (p : Flit) : Option Nat :=
  match p with
  | .heartbeat v | .report v _ | .reply v _ _ => some v
  | _ => none

/-- A flit arrives over a link that is up: one whose tag fails, or whose world has no key here, is dropped and logged (R374). A
view names the key of its traffic. -/
def execFlitReceive (port world : Nat) (ok : Bool) (payload : Flit) (s : State) : Out :=
  event s (fun s =>
    let die := port / 8
    let link := port % 8
    if 4 ≤ die || !(linkOf s die link).isUp then s
    else
      let s1 := modLink s die link (fun l => { l with nonce := l.nonce + 1 })
      let slot := match flitView payload with
        | some v => (s.view (viewKey world die v)).key
        | none => 1
      if ok && (Tbl.get none (s.world world).keys slot).isSome then flitEffect s1 die world payload
      else let (v, s2) := s1.freeVal; s2.logOpen die 14 0 v none)

end Sys2Proof.Machine
end

