-- ==== Sys2Proof/Machine/Timetable.lean ====
section
/-!
DEFINITION. Slices and the timetable (12 R282 to R288; 06 R180 to R186; 07 R195): traversal, shapes, ranking, placement,
pre-emption, the forced save, the gang tables, the restore, the budget, and the end of a context's part of a slice.
-/
namespace Sys2Proof.Machine

/-! ## Traversal (R282) -/

/-- Every dims-th bit of a code, from bit 0. -/
def unmix (dims : Nat) : Nat → Nat → Nat
  | 0, _ => 0
  | fuel + 1, c => c % 2 + 2 * unmix dims fuel (c / 2 ^ dims)

/-- The exponent of the least power of two that is not below n. -/
def ceilLog (n : Nat) : Nat := if n ≤ 1 then 0 else Nat.log2 (n - 1) + 1

/-- HILBERT: the steps from side q, with t, u and y. -/
def hilbert : Nat → Nat → Nat → Nat → Nat → Nat × Nat
  | 0, _, _, u, y => (u, y)
  | fuel + 1, q, t, u, y =>
    let rx := t / 2 % 2
    let ry := (t + rx) % 2
    let (u, y) := if ry = 0 then (if rx = 1 then (q - 1 - y, q - 1 - u) else (y, u)) else (u, y)
    hilbert fuel (2 * q) (t / 4) (u + q * rx) (y + q * ry)

/-- The points (u, y, z) of a strip of width w, in its order. -/
def stripPoints (l : Lpb) (w : Nat) : List (Nat × Nat × Nat) :=
  let planes (f : List (Nat × Nat)) : List (Nat × Nat × Nat) := (List.range l.dimz).flatMap (fun z => f.map (fun p => (p.1, p.2, z)))
  let inside (p : Nat × Nat) : Bool := p.1 < w && p.2 < l.dimy
  match l.order with
  | 0 => planes ((List.range l.dimy).flatMap (fun y => (List.range w).map (fun u => (u, y))))
  | 1 => planes ((List.range w).flatMap (fun u => (List.range l.dimy).map (fun y => (u, y))))
  | 2 =>
    let n := ceilLog (max w l.dimy)
    planes (((List.range (4 ^ n)).map (fun c => (unmix 2 n c, unmix 2 n (c / 2)))).filter inside)
  | 3 =>
    let n := ceilLog (max (max w l.dimy) l.dimz)
    ((List.range (8 ^ n)).map (fun c => (unmix 3 n c, unmix 3 n (c / 2), unmix 3 n (c / 4)))).filter
      (fun p => inside (p.1, p.2.1) && p.2.2 < l.dimz)
  | _ =>
    let n := ceilLog (max w l.dimy)
    planes (((List.range (4 ^ n)).map (fun d => hilbert n 1 d 0 0)).filter inside)

/-- The gang index of sequence number n. -/
def gangIndex (l : Lpb) (n : Nat) : Nat × Nat × Nat :=
  let per := 2 ^ l.swz * l.dimy * l.dimz
  let x0 := n / per * 2 ^ l.swz
  match (stripPoints l (min (2 ^ l.swz) (l.dimx - x0)))[n % per]? with
  | some p => (x0 + p.1, p.2.1, p.2.2)
  | none => (0, 0, 0)

/-! ## Slices of a job (R282, R283, R289) -/

def newSlice (j : Job) (id n rankBase : Nat) : Slice :=
  let (x, y, z) := gangIndex j.lpb n
  let stage := if j.stages = [] then 0 else n % j.stages.length
  { id := id, job := j.id, seq := n, x := x, y := y, z := z, deadline := j.arrival + j.lpb.deadline + n * j.lpb.dstep,
    st := .waiting, fresh := true, holds := [], cores := [], reports := [], budget := j.lpb.budget, since := 0,
    exhausted := false, stage := stage, nextStage := stage, movedAt := none, aborted := none, runs := [], attempt := 0,
    usedCores := [], tstart := j.lpb.tstart, joined := [], tries := 0, rankBase := rankBase, kept := [], keptGroups := [] }

/-- The next slice of a job comes into being. In a gang of several packages this package's place is a free value. -/
def addSlice (s : State) (jid : Nat) : State :=
  match s.job jid with
  | none => s
  | some j =>
    if j.total ≤ j.next then s
    else
      let (id, s1) := s.fresh
      let size := (if j.lpb.gcores = 0 then 0 else ((List.range 4).filter (fun i => j.lpb.gcores.testBit i)).length) * j.lpb.gclust * j.lpb.gdies
      let (v, s2) := if j.lpb.gpkgs ≤ 1 then (0, s1) else s1.freeVal
      { s2 with slices := s2.slices ++ [newSlice j id j.next (v.toNat % j.lpb.gpkgs * size)] }.modJob jid (fun j => { j with next := j.next + 1 })

/-- Every slice of a job at once. -/
def addSlices (s : State) (jid : Nat) : Nat → State
  | 0 => s
  | n + 1 => addSlices (addSlice s jid) jid n

/-! ## Cores and shapes (R283) -/

/-- A core of the world's partition that is in service: neither quarantined nor out of service, its cluster neither gated nor copying. -/
def coreOpen (s : State) (world die cluster core : Nat) : Bool :=
  let cl := s.cluster (die * 48 + cluster)
  (s.wd world die).clusters.getLsbD cluster && !cl.quarantine.getLsbD (physCore s die cluster core) && cl.gated = 0 &&
    cl.copying.isEmpty && !s.outOfService.contains (coreUnit die cluster (physCore s die cluster core))

/-- A slice holds its cores. -/
def Slice.placedOn (x : Slice) : Bool := x.st = .placed || x.st = .saving || x.st = .rolling

/-- A core is free for the slice or admission `id`, when the slices of a list are taken as saved. -/
def coreFree (s : State) (id : Nat) (gone : List Nat) (k : Nat) : Bool :=
  (match (s.core k).slice with | none => true | some x => gone.contains x) && (s.ctx (k * 16 + 14)).run = .free &&
    !s.slices.any (fun x => x.id ≠ id && x.holds.contains k) && !s.admits.any (fun a => a.id ≠ id && a.holds.contains k)

/-- No other placed slice spans a node. -/
def nodeFree (s : State) (id : Nat) (gone : List Nat) (node : Nat) : Bool :=
  !s.slices.any (fun x => x.id ≠ id && x.placedOn && !gone.contains x.id && (nodesOf x).contains node)

/-- The sublists of n elements, in order. -/
def combos : Nat → List Nat → List (List Nat)
  | 0, _ => [[]]
  | _ + 1, [] => []
  | n + 1, x :: t => (combos n t).map (x :: ·) ++ combos (n + 1) t

/-- The lowest-numbered cores of a shape on a set of dies. -/
def fitOn (free : Nat → Nat → Nat → Bool) (nodeOk : Nat → Bool) (l : Lpb) (dies : List Nat) : Option (List Nat) :=
  let cs := (List.range 4).filter (fun i => l.gcores.testBit i)
  let ok (c : Nat) : Bool := dies.all (fun d => cs.all (free d c) && (cs.length < 2 || nodeOk (d * 48 + c)))
  let cl := ((List.range 48).filter ok).take l.gclust
  if cl.length < l.gclust || (2 ≤ l.gclust && dies.any (fun d => !nodeOk (200 + d))) || (2 ≤ dies.length && !nodeOk 300) then none
  else some (dies.flatMap (fun d => cl.flatMap (fun c => cs.map (coreKeyOf d c))))

/-- The lowest-numbered cores of a shape; the first gang of a job takes cores on the job's own die. -/
def fitShape (free : Nat → Nat → Nat → Bool) (nodeOk : Nat → Bool) (l : Lpb) (home : Option Nat) : Option (List Nat) :=
  ((combos l.gdies (List.range 4)).filter (fun ds => home.all ds.contains)).findSome? (fitOn free nodeOk l)

/-- One gang, or two gangs of a twin-mode job. -/
def fitGangs (free : Nat → Nat → Nat → Bool) (nodeOk : Nat → Bool) (l : Lpb) (home : Nat) : Option (List (List Nat)) :=
  match fitShape free nodeOk l (some home) with
  | none => none
  | some a =>
    if !l.twin then some [a]
    else
      (fitShape (fun d c k => free d c k && !a.contains (coreKeyOf d c k)) (fun n => nodeOk n && !(spannedNodes a).contains n) l none).map
        (fun b => [a, b])

/-- The gang shape fits the partition of a world (R281). -/
def fitsPartition (s : State) (world die : Nat) (l : Lpb) : Bool :=
  (fitGangs (fun d c _ => (s.wd world d).clusters.getLsbD c) (fun _ => true) l die).isSome

/-- A slice that waits has a fit, when the slices of a list are taken as saved; a tie run is one gang (R344).
DEDUCED (log 78). -/
def fitSlice (s : State) (x : Slice) (j : Job) (gone : List Nat) : Option (List (List Nat)) :=
  let free (d c k : Nat) : Bool := coreOpen s j.world d c k && coreFree s x.id gone (coreKeyOf d c k) &&
    !(x.usedCores.contains (coreKeyOf d c k))
  if x.st = .preempted then
    if x.cores.all (fun k => free (k / 192) (k / 4 % 48) (k % 4)) && (nodesOf x).all (nodeFree s x.id gone) then some [x.cores] else none
  else fitGangs free (nodeFree s x.id gone) { j.lpb with twin := j.lpb.twin && x.runs.isEmpty } j.die

/-! ## Placement (R195, R284 to R287) -/

/-- A core receives its registers for a slice: what survives a slice stays. -/
def setCore (s : State) (x : Slice) (j : Job) (q core : Nat) : State :=
  let w := s.world j.world
  s.modCore core (fun c =>
    { Core.empty with
      fullCnt := c.fullCnt, ovfCnt := c.ovfCnt, aliasCnt := c.aliasCnt, phase := c.phase,
      route := w.route, wdwin := w.wdwin, world := j.world, slice := some x.id, masked := w.masked,
      savep := ((j.lpb.savebase + BitVec.ofNat 64 (q * 0x50000)) >>> 16).truncate 48, pdead := BitVec.ofNat 32 j.lpb.pdead })

/-- The slice registers of a member (R286). -/
def sliceRegs (x : Slice) (j : Job) (size rank : Nat) (c : Ctx) : Ctx :=
  { c with gidx := putAt x.z 32 ||| putAt x.y 16 ||| putAt x.x 0, ginfo := putAt x.seq 16 ||| putAt x.stage 0, arg := j.lpb.arg,
           grank := putAt (size * j.lpb.gpkgs) 32 ||| putAt rank 0 }

/-- The entry of a slice: of its stage, or of the block; relative to the image where one is named. -/
def entryOf (x : Slice) (j : Job) : BitVec 48 :=
  let e := match j.stages[x.stage]? with | some t => t.entry | none => j.lpb.entry
  ((if j.lpb.image = 0 then 0 else j.codeVa) + e).truncate 48

/-- A control context at placement: U, the state of R80, s1 to s3. -/
def controlAt (s : State) (x : Slice) (j : Job) (core size rank : Nat) : Ctx :=
  let c : Ctx := sliceRegs x j size rank
    { Ctx.empty with kind := .control, run := .live, world := j.world, die := core / 192, cluster := core / 4 % 48, core := core % 4,
                     pc := entryOf x j, trap := { TrapRegs.zero with tvec := (s.world j.world).tvec }, pulse := s.clk }
  ((c.writeS 1 c.arg).writeS 2 c.gidx).writeS 3 c.grank

/-- The member mask of the cores under a node (R194). -/
def nodeMask (node : Nat) (cores : List Nat) : Word :=
  let under := cores.filter (fun k => if node < 192 then k / 4 = node else node = 300 || k / 192 = node - 200)
  under.foldl (fun m k =>
    m ||| putAt 1 (48 + k % 4) ||| (if node < 192 then 0 else putAt 1 (k / 4 % 48)) ||| (if node < 300 then 0 else putAt 1 (52 + k / 192))) 0

/-- The groups of the nodes that a gang spans (R195). -/
def startGroups (s : State) (cores : List Nat) (step : Nat) : State :=
  (spannedNodes cores).foldl (fun st n =>
    st.modGroup (groupKey n 0) (fun _ => { Group.empty with mask := nodeMask n cores, step := step })) (clearGroups s cores)

/-- The key of a world that the SCTL loads into the clusters of its gangs: none where its slot 0 is not loaded (R237, R360). -/
def worldKey (s : State) (world : Nat) : Option Nat := (Tbl.get none (s.world world).keys 0).map (fun _ => world)

/-- The tables of a gang's clusters at placement (R214, R239, R241), and the world key (R237); leases of another world go
back (R266). -/
def startCluster (key : Option Nat) (c : Cluster) : Cluster :=
  { c with tids := [], types := [], tqEn := false, tqLog := 4, tqHead := 0, tqTail := 0, tqHolds := [], tqLeft := [], keyWorld := key,
           leases := if key.isSome && c.keyWorld = key then c.leases else [] }

/-- One gang placed: its members' save areas follow those of the gangs before it. -/
def placeGang (s : State) (x : Slice) (j : Job) (g : Nat) (cores : List Nat) : State :=
  let n := cores.length
  let s1 := (cores.zip (List.range n)).foldl (fun st p =>
    let rank := x.rankBase + p.2
    (setCore st x j (rank + g * n) p.1).setCtx (p.1 * 16) (controlAt st x j p.1 n rank)) s
  let s2 := startGroups s1 cores j.lpb.bstep
  ((cores.map (· / 4)).eraseDups).foldl (fun st ck => st.modCluster ck (startCluster (worldKey s j.world))) s2

/-- A new slice placed on the cores of its gangs; a tie run is gang 2 beside the runs that have finished. -/
def placeSlice (s : State) (x : Slice) (j : Job) (gangs : List (List Nat)) : State :=
  let at_ (n : Nat) : Nat := x.runs.length + n
  let runs : List TwinRun := if !j.lpb.twin then [] else x.runs ++ (gangs.zip (List.range gangs.length)).map (fun p =>
    { g := at_ p.2, cores := p.1, overflow := false, counts := [], sum := 0, status := 0, finished := false, again := false })
  let x1 := { x with st := .placed, fresh := false, holds := [], cores := gangs.flatten, runs := runs, reports := [],
                     budget := j.lpb.budget, since := s.clk, exhausted := false, kept := [], keptGroups := [] }
  (gangs.zip (List.range gangs.length)).foldl (fun st p => placeGang st x1 j (at_ p.2) p.1) (s.modSlice x.id (fun _ => x1))

/-! ## The gang's tables in its save areas (R285) -/

def tidWords (t : Tid) : List Word := [t.w0, t.w1, t.w2, t.w3, t.statusWord, 0, 0, 0]
def typeWords (t : TaskType) : List Word := [t.w0, t.w1, t.w2, t.w3, putAt (if t.defined then 1 else 0) 63, 0, 0, 0]
def groupWords (s : State) (node n : Nat) : List Word :=
  (List.range n).flatMap (fun g => let x := s.group (groupKey node g); [x.mask, bstateWord x])

/-- The regions of a cluster's tables; the groups of a node that the gang does not span are zero. -/
def clusterRegions (s : State) (ck : Nat) (nodes : List Nat) : List (Nat × List Byte) :=
  let c := s.cluster ck
  [(0x17000, wordsBytes ((List.range 256).flatMap (fun t => tidWords (Tbl.get Tid.empty c.tids t)))),
   (0x1B000, wordsBytes ((List.range 64).flatMap (fun t => typeWords (Tbl.get TaskType.empty c.types t)))),
   (0x1C000, wordsBytes [c.tqBase, tqctlWord c, 0, 0, 0, 0, 0, 0]),
   (0x1C040, if nodes.contains ck then wordsBytes (groupWords s ck 4) else List.replicate 64 0)]

def tidFrom (l : List Byte) : Tid :=
  let st := wordAt l 32
  { defined := bit st 63, w0 := wordAt l 0, w1 := wordAt l 8, w2 := wordAt l 16, w3 := wordAt l 24, status := st.truncate 8 }
def typeFrom (l : List Byte) : TaskType :=
  { defined := bit (wordAt l 32) 63, w0 := wordAt l 0, w1 := wordAt l 8, w2 := wordAt l 16, w3 := wordAt l 24 }

/-- The first member of each cluster and of each die, with the clusters and dies, in rank order. -/
def firstOf (f : Nat → Nat) (cores : List Nat) : List (Nat × Nat) :=
  ((cores.map f).eraseDups).filterMap (fun u => (cores.find? (fun k => f k = u)).map (fun k => (u, k)))

/-- The save areas that receive tables: core, offset and bytes. -/
def gangRegions (s : State) (x : Slice) : List (Nat × List (Nat × List Byte)) :=
  let nodes := nodesOf x
  (firstOf (· / 4) x.cores).map (fun p => (p.2, clusterRegions s p.1 nodes)) ++
  (firstOf (· / 192) x.cores).filterMap (fun p =>
    if nodes.contains (200 + p.1) then some (p.2, [(0x1C080, wordsBytes (groupWords s (200 + p.1) 16))]) else none) ++
  (match x.cores with
   | k :: _ => if nodes.contains 300 then [(k, [(0x1C180, wordsBytes (groupWords s 300 16))])] else []
   | [] => [])

/-- The groups of a node as a save area holds them, with the arrival sets that were kept. -/
def loadGroups (s : State) (x : Slice) (core node off : Nat) : State :=
  let co := s.core core
  let n := nodeGroups node
  let l := readRegion s co.world (core / 192) (savepVa co) off (16 * n)
  (List.range n).foldl (fun st g =>
    let key := groupKey node g
    let old := ((x.keptGroups.find? (fun p => p.1 = key)).map (·.2)).getD Group.empty
    let m := wordAt l (16 * g)
    let b := wordAt l (16 * g + 8)
    st.modGroup key (fun _ => { old with mask := m, gen := b.extractLsb' 48 16, step := bits b 47 44, state := bits b 41 40 })) s

def loadCluster (s : State) (core ck : Nat) : State :=
  let co := s.core core
  let rd (off n : Nat) : List Byte := readRegion s co.world (core / 192) (savepVa co) off n
  let t := rd 0x17000 0x4000
  let y := rd 0x1B000 0x1000
  let q := rd 0x1C000 16
  s.modCluster ck (fun c =>
    let c1 := startCluster (worldKey s co.world) c
    { c1 with
      tids := (List.range 256).foldl (fun m i => Tbl.put Tid.empty m i (tidFrom ((t.drop (64 * i)).take 64))) []
      types := (List.range 64).foldl (fun m i => Tbl.put TaskType.empty m i (typeFrom ((y.drop (64 * i)).take 64))) []
      tqBase := wordAt q 0, tqEn := bit (wordAt q 8) 63, tqLog := clampLog (bits (wordAt q 8) 35 32)
      tqHead := (wordAt q 8).extractLsb' 16 16, tqTail := (wordAt q 8).truncate 16 })

/-- The context that pushed the record i places after HEAD of a cluster's ring. -/
def ringWho (s : State) (ck i : Nat) : Nat :=
  let w : Word := BitVec.ofNat 64 (s.readMem (taskLoc s ck ((s.cluster ck).tqHead + BitVec.ofNat 16 i) + 8) 8)
  (ck * 4 + bits w 5 4) * 16 + bits w 3 0

/-- A record of a core stands in its cluster's ring. -/
def ringHolds (s : State) (core : Nat) : Bool :=
  let cl := s.cluster (core / 4)
  (List.range (cl.tqTail - cl.tqHead).toNat).any (fun i => ringWho s (core / 4) i / 16 = core)

/-- The records of a restored ring count again for the contexts that pushed them; those of helpers that have ended count for
none (R82, R111). -/
def recountRing (s : State) (ck : Nat) : State :=
  let cl := s.cluster ck
  let n := (cl.tqTail - cl.tqHead).toNat
  let gone (k : Nat) : Bool := (s.ctx k).run = .free || (s.ctx k).run = .ended
  let who := (List.range n).map (ringWho s ck)
  let s1 := (who.filter (fun k => !gone k)).foldl (fun st k => st.modCtx k (fun c => { c with tiles := c.tiles + 1 })) s
  s1.modCluster ck (fun c => { c with tqLeft := ((who.filter gone).eraseDups).map (fun k => (k, n)) })

/-- The tables come back before any member issues. -/
def loadTables (s : State) (x : Slice) : State :=
  let nodes := nodesOf x
  let s1 := (firstOf (· / 4) x.cores).foldl (fun st p =>
    let st1 := recountRing (loadCluster st p.2 p.1) p.1
    if nodes.contains p.1 then loadGroups st1 x p.2 p.1 0x1C040 else st1) s
  let s2 := (firstOf (· / 192) x.cores).foldl (fun st p =>
    if nodes.contains (200 + p.1) then loadGroups st x p.2 (200 + p.1) 0x1C080 else st) s1
  match x.cores with
  | k :: _ => if nodes.contains 300 then loadGroups s2 x k 300 0x1C180 else s2
  | [] => s2

/-! ## The restore (R186, R285) -/

/-- What was kept of a member besides its save area comes back. -/
def applyKept (s : State) (core : Nat) (q : Kept) : State :=
  let s1 := s.modCtx (core * 16) (fun c => { c with arrivals := q.arrivals, handles := q.handles, restored := true, preq := false, pdeadAt := none })
  let s2 := s1.modCore core (fun c =>
    { c with snap := q.snap, older := q.older, pdead := 0, reports := q.storeReports,
             journal := (c.journal.zip q.entries).map (fun p => { p.1 with instr := p.2.1, elems := p.2.2 }) })
  let s3 := q.stopped.foldl (fun st n => st.modCtx (core * 16 + n) (fun c => { c with run := .stopped })) s2
  let s3 := q.holdBack.foldl (fun st n => st.modCtx (core * 16 + n) (fun c => { c with holdBack := true })) s3
  q.causes.foldl (fun st p => pend st (core * 16 + p.1) p.2.cause p.2.taddr p.2.tinfo) s3

/-- A member restored onto the core it left: one that has reported done has only its arrivals and supersteps to restore (R202). -/
def restoreMember (s : State) (x : Slice) (j : Job) (m core : Nat) : State :=
  let gang := match x.runs.find? (fun r => r.cores.contains core) with | some r => r.cores | none => x.cores
  let rank := x.rankBase + rankIn gang core
  let s1 := setCore s x j (x.rankBase + m) core
  let kept := x.kept.find? (fun q => q.member = m)
  if x.reports.any (fun r => r.1 = core) then
    let s2 := s1.setCtx (core * 16) { controlAt s1 x j core gang.length rank with run := .done }
    match kept with
    | some q => (s2.modCtx (core * 16) (fun c => { c with arrivals := q.arrivals, handles := q.handles })).modCore core (fun c =>
        { c with snap := q.snap, older := q.older })
    | none => s2
  else
    let s2 := restoreCore s1 core
    let s3 := s2.modCtx (core * 16) (sliceRegs x j gang.length rank)
    let s4 := match kept with
      | some q => applyKept s3 core q
      | none => s3
    refillRing (restoreBindings s4 core) core

def restoreSlice (s : State) (x : Slice) (j : Job) : State :=
  let s1 := (x.cores.zip (List.range x.cores.length)).foldl (fun st p => restoreMember st x j p.2 p.1) s
  (loadTables s1 x).modSlice x.id (fun y => { y with st := .placed, holds := [], since := s.clk, kept := [], keptGroups := [] })

/-- A save area is mapped whole: otherwise its pages are asked for. -/
def areasWait (s : State) (x : Slice) (j : Job) (need : BitVec 3) : Option State :=
  (x.cores.zip (List.range x.cores.length)).findSome? (fun p =>
    unitWaits s j.world (p.1 / 192) need (((j.lpb.savebase + BitVec.ofNat 64 ((x.rankBase + p.2) * 0x50000)) >>> 16) <<< 16) 0x50000)

/-! ## Translator slices (R296) -/

/-- The state of a translator at entry. -/
def translatorAt (clk : Nat) (a : Admit) (core : Nat) : Ctx :=
  let pw := a.flacon + BitVec.ofNat 64 a.privOff
  let xw := a.flacon + BitVec.ofNat 64 a.xwOff
  let m : MeterRegs :=
    { meter := 0, lim := a.lim, pwBase := pw, pwLim := pw + BitVec.ofNat 64 a.privSize, owBase := a.ow,
      owLim := a.ow + BitVec.ofNat 64 a.owSize, xwBase := xw, xwLim := xw + BitVec.ofNat 64 a.xwSize }
  let regs : List Word := [m.pwBase, m.pwLim - m.pwBase, m.owBase, m.owLim - m.owBase, a.options] ++ a.entry
  let c : Ctx := { Ctx.empty with kind := .translator, run := .live, world := a.world, die := core / 192, cluster := core / 4 % 48,
                                  core := core % 4, slot := 14, pc := m.xwBase.truncate 48, meter := m, pulse := clk }
  (regs.zip (List.range 15)).foldl (fun (c : Ctx) p => c.writePos (p.2 + 1) p.1) c

/-- An admission waits for a core: its window stands, nothing runs for it. -/
def Admit.ready (a : Admit) : Bool := a.ctx.isNone && a.waits.isNone && a.ended.isNone && a.filled

/-- A window that stands is filled with zero; a write that parks asks for its page (R296). -/
def fillWindow (s : State) (a : Admit) : State :=
  if !a.owSet || a.filled || a.ended.isSome then s
  else
    match unitWaits s a.world a.die permW a.ow a.owSize with
    | some s1 => s1
    | none =>
      let s1 := (unitWrite s a.world a.die a.ow (List.replicate a.owSize 0)).2
      { s1 with admits := s1.admits.map (fun x => if x.id = a.id then { x with filled := true } else x) }

/-- The lowest-numbered core of the partition on its die that is free for an admission. -/
def freeOne (s : State) (a : Admit) (gone : List Nat) : Option Nat :=
  (List.range 192).findSome? (fun i =>
    let k := a.die * 192 + i
    if coreOpen s a.world a.die (i / 4) (i % 4) && coreFree s a.id gone k then some k else none)

/-- DEDUCED (log 18). -/
def placeAdmit (s : State) (a : Admit) (core : Nat) : State :=
  let w := s.world a.world
  let k := core * 16 + 14
  let s1 := s.modCore core (fun c => { c with route := w.route, world := a.world, masked := w.masked })
  let s2 := s1.setCtx k (translatorAt s.clk a core)
  { s2 with admits := s2.admits.map (fun b => if b.id = a.id then { b with ctx := some k, holds := [] } else b) }

/-! ## Ranking and pre-emption (R180, R283) -/

inductive CandKind where
  | slice (x : Slice) (j : Job)
  | admission (a : Admit)
  deriving DecidableEq, Repr

/-- A candidate, with its keys in order: deadline, priority from the highest, arrival, sequence number, world. -/
structure Cand where
  keys : List Nat
  kind : CandKind
  deriving DecidableEq, Repr

/-- Lexicographic order. -/
def keyLess : List Nat → List Nat → Bool
  | a :: s, b :: t => a < b || (a = b && keyLess s t)
  | _, _ => false

def insertCand (c : Cand) : List Cand → List Cand
  | [] => [c]
  | d :: t => if keyLess c.keys d.keys then c :: d :: t else d :: insertCand c t

/-- Slices of a world proceed while it runs (R350); one of a gang of several packages is placed from TSTART on (R397). -/
def startsNow (s : State) (x : Slice) (j : Job) : Bool :=
  (s.world j.world).running && (j.lpb.gpkgs ≤ 1 || x.st = .preempted || x.tstart.toNat ≤ s.cycle.toNat)

/-- A waiting slice is its job's lowest unplaced one, or has been requeued or pre-empted. -/
def isCandidate (s : State) (x : Slice) : Bool :=
  x.st = .preempted || (x.st = .waiting &&
    (!x.fresh || !s.slices.any (fun y => y.job = x.job && y.fresh && y.st = .waiting && y.seq < x.seq)))

/-- The candidates of a die, ranked. -/
def candidates (s : State) (die : Nat) : List Cand :=
  let sl := s.slices.filterMap (fun x =>
    match s.job x.job with
    | some j => if j.die = die && isCandidate s x && startsNow s x j then
        some ({ keys := [x.deadline, 7 - j.lpb.prio, j.arrival, x.seq, j.world], kind := .slice x j } : Cand) else none
    | none => none)
  let ad := s.admits.filterMap (fun a =>
    if a.die = die && a.ready && (s.world a.world).running then some ({ keys := [a.deadline, 7, a.arrived, 0, a.world], kind := .admission a } : Cand) else none)
  (sl ++ ad).foldr insertCand []

/-- A candidate placed or restored, where it fits: a pre-empted slice waits for pages of its save areas. -/
def tryPlace (s : State) (c : Cand) : Option State :=
  match c.kind with
  | .admission a => (freeOne s a []).map (placeAdmit s a)
  | .slice x j =>
    match fitSlice s x j [] with
    | none => none
    | some gangs =>
      if x.st = .preempted then
        match areasWait s x j permR with
        | some _ => none
        | none => some (restoreSlice s x j)
      else some (placeSlice s x j gangs)

/-- The pages of its save areas that a pre-empted slice which fits waits for are asked for. -/
def askPages (s : State) (c : Cand) : State :=
  match c.kind with
  | .slice x j => if x.st = .preempted && (fitSlice s x j []).isSome then (areasWait s x j permR).getD s else s
  | .admission _ => s

/-- The first of the ranked candidates that can be placed is placed. -/
def placeFirst (s : State) : List Cand → State × Option Cand
  | [] => (s, none)
  | c :: t =>
    match tryPlace s c with
    | some s1 => (s1, some c)
    | none => placeFirst (askPages s c) t

/-- A slice's member control contexts are asked for their cores: PREQ, PDEAD, 0x0C2. -/
def askYield (s : State) (x : Slice) (j : Job) : State :=
  (x.cores.filter (fun k => !(x.reports.any (fun r => r.1 = k)))).foldl (fun st k =>
    pend ((st.modCtx (k * 16) (fun c => { c with preq := true, pdeadAt := some (s.clk + j.lpb.pdead) })).modCore k
      (fun c => { c with pdead := BitVec.ofNat 32 j.lpb.pdead })) (k * 16) 0x0C2#9 0 (BitVec.ofNat 64 j.lpb.pdead)) s

/-- A slice has been asked already, or saves. -/
def asked (s : State) (x : Slice) : Bool := x.st = .saving || x.cores.any (fun k => (s.ctx (k * 16)).preq)

def insertLate (x : Slice) : List Slice → List Slice
  | [] => [x]
  | y :: t => if y.deadline < x.deadline then x :: y :: t else y :: insertLate x t

/-- The fewest of the latest slices of a world whose saving frees a fit; those already asked are counted as freed. -/
def victims (l : List Slice) (enough : List Slice → Bool) : Option (List Slice) :=
  match ((List.range (l.length + 1)).map l.take).find? enough with
  | none => none
  | some v => some (v.foldl (fun keep x => let less := keep.filter (fun y => y.id ≠ x.id); if enough less then less else keep) v)

/-- The first-ranked candidate does not fit: later slices of its world are asked to yield, and their cores are held for it. -/
def preempt (s : State) (c : Cand) : State :=
  let (world, deadline) : Nat × Nat := match c.kind with
    | .slice x j => (j.world, x.deadline)
    | .admission a => (a.world, a.deadline)
  let running := s.slices.filter (fun y => y.placedOn && (s.job y.job).any (fun j => j.world = world))
  let going := (running.filter (asked s)).map (·.id)
  let late := (running.filter (fun y => !asked s y && y.st = .placed && deadline < y.deadline)).foldr insertLate []
  let fit (gone : List Nat) : Option (List Nat) := match c.kind with
    | .slice x j => (fitSlice s x j gone).map List.flatten
    | .admission a => (freeOne s a gone).map (fun k => [k])
  match victims late (fun v => (fit (going ++ v.map (·.id))).isSome) with
  | none => s
  | some v =>
    let s1 := v.foldl (fun st y => match s.job y.job with | some j => askYield st y j | none => st) s
    let freed := (fit (going ++ v.map (·.id))).getD []
    match c.kind with
    | .slice x _ => s1.modSlice x.id (fun y => { y with holds := freed })
    | .admission a => { s1 with admits := s1.admits.map (fun b => if b.id = a.id then { b with holds := freed } else b) }

/-- Jobs of a die whose slices come into being one by one have one that waits. -/
def offerSlices (s : State) (die : Nat) : State :=
  (s.jobs.filter (fun j => j.die = die)).foldl (fun st j =>
    if st.slices.any (fun x => x.job = j.id && x.fresh && x.st = .waiting) then st else addSlice st j.id) s

/-- THE TIMETABLE of a die ranks its candidates: the first that fits is placed; if the first-ranked does not fit, others
may be asked to yield for it. -/
def rankAndPlace (s : State) (die : Nat) : State :=
  let s0 := offerSlices ((s.admits.filter (fun a => a.die = die)).foldl fillWindow s) die
  let cs := candidates s0 die
  match cs with
  | [] => s0
  | e :: _ =>
    let (s1, placed) := placeFirst s0 cs
    if placed = some e then s1 else preempt s1 e

def execTimetableRank (die : Nat) (s : State) : Out := event s (fun s => if inService s die 433 then rankAndPlace s die else s)

/-- TSTART has come: the slice's die ranks it now (R397). -/
def execTstartReached (slice : Nat) (s : State) : Out :=
  event s (fun s =>
    match s.slice slice with
    | none => s
    | some x =>
      match s.job x.job with
      | some j => if x.tstart.toNat ≤ s.cycle.toNat then rankAndPlace s j.die else s
      | none => s)

/-! ## Yield and the forced save (R181 to R183) -/

/-- An `ffill` under way cannot be left. -/
def filling (s : State) (k : Nat) : Bool :=
  s.reqs.any (fun r => r.ctx = k && (match r.kind with | .fill _ => true | _ => false))

/-- A context of a core whose save is due stops at its boundary: an instruction that waits is executed afresh later. -/
def holdCtx (s : State) (k : Nat) : State :=
  let c := s.ctx k
  if c.run = .live && !filling s k && c.phase ≠ committed then
    s.modCtx k (fun c => { (c.thaw s.clk).clearWait with run := .held, fetched := [] })
  else s

/-- Every context of a core stops for a save; the slice's budget stands still from its first save on. DEDUCED (log 79). -/
def startSave (s : State) (core : Nat) (atYield : Bool) : State :=
  let s1 := (List.range 11).foldl (fun st n => holdCtx st (core * 16 + n)) s
  let s2 := s1.modCtx (core * 16) (fun c => { c with pdeadAt := none, pending := c.pending.filter (fun p => p.cause ≠ 0x0C2#9) })
  let s3 := s2.modCore core (fun c => { c with saveDue := true, atYield := atYield, pdead := 0, saveAt := s.cycle })
  match sliceOn s core with
  | some x => if x.st = .placed then s3.modSlice x.id (fun y => { y with st := .saving, budget := y.budget - (s.clk - y.since) }) else s3
  | none => s3

def execYield (d : SReg) (s : State) : Out :=
  issue s (.yield d) (fun s =>
    let c := s.cx
    if c.preq then startSave s c.coreKey true
    else retire ((s.wS d (if c.restored then 1 else 0)).modCx (fun c => { c with restored := false })) 4)

/-- The control context is in an `sdone` that issued in the clk in which PDEAD reaches 0, or later: the `sdone` runs to its end. One
that issued before and waits is stopped (R182, R303). -/
def sdoneAtPdead (c : Ctx) : Bool := c.phase = 10 && c.limitAt.any (fun t => c.pdeadAt.any (· ≤ t))

/-- PDEAD reaches 0: a core whose control context is in an `sdone` that it issued in that clk, or done, is not saved. -/
def execPdeadExpire (core : Nat) (s : State) : Out :=
  event s (fun s =>
    let c := s.ctx (core * 16)
    if c.pdeadAt.any (· ≤ s.clk) && !(s.core core).saveDue && !sdoneAtPdead c && c.run ≠ .done then startSave s core false else s)

/-- Everything that the contexts of a core have under way is over (R183), and no needed sub-tile waits for a place of the pool:
DESIGN CHOICE (log 145). -/
def coreQuiet (s : State) (core : Nat) : Bool :=
  let co := s.core core
  let cl := s.cluster (core / 4)
  (List.range 11).all (fun n => let c := s.ctx (core * 16 + n); c.loads = 0 && c.stores = 0 && c.copies = 0) &&
    co.siding.all (fun n => n.out = 0) && co.journal.all (fun e => e.st = .resting) &&
    !cl.pool.any (fun e => e.core = core) && !cl.poolWait.any (fun e => e.core = core) && !cl.tasks.any (fun t => t.core = core) &&
    !s.reqs.any (fun r => r.ctx / 16 = core && r.ctx < 65536)

/-- Messages of the ring that have not entered the queue follow it. -/
def gatherRing (s : State) (core : Nat) : State :=
  let co := s.core core
  if co.ringEnd = 0 then s
  else
    let more := (List.range (co.ringEnd - co.ringNext)).map (fun i => ringFrom (readRegion s co.world (core / 192) (savepVa co)
      (0x15000 + 128 * (co.ringNext + i)) 128))
    s.modCore core (fun c => { c with recvQ := c.recvQ ++ more, ringNext := 0, ringEnd := 0 })

/-- What stays with the slice of a member besides its save area. DEDUCED (log 123). -/
def keepMember (s : State) (core m : Nat) : Kept :=
  let c := s.ctx (core * 16)
  let co := s.core core
  { member := m, arrivals := c.arrivals, snap := co.snap, older := co.older, handles := c.handles, causes := [],
    entries := co.journal.map (fun e => (e.instr, e.elems)), storeReports := co.reports,
    stopped := (List.range 11).filter (fun n => (s.ctx (core * 16 + n)).run = .stopped)
    holdBack := (List.range 11).filter (fun n => (s.ctx (core * 16 + n)).holdBack) }

/-- The core is empty after its save; its slice stays until the gang's tables are saved. -/
def clearSaved (s : State) (core : Nat) : State :=
  let s1 := (List.range 11).foldl (fun st n => st.setCtx (core * 16 + n) Ctx.empty) s
  (s1.modCluster (core / 4) (fun c => { c with waiters := c.waiters.filter (fun w => w.ctx / 16 ≠ core) })).modCore core (fun c =>
    { c with planes := [], journal := [], reports := [], siding := [], recvQ := [], ringNext := 0, ringEnd := 0, snap := Snap.empty,
             older := none, saved := true })

/-- THE SAVE of a core into its save area (R183 to R185). -/
def saveCore (s : State) (core : Nat) : State :=
  let co := s.core core
  match unitWaits s co.world (core / 192) permW (savepVa co) 0x50000 with
  | some s1 => s1
  | none =>
    let s1 := planReads (gatherRing s core) (s.ctx (core * 16))
    let s2 := writeRegions s1 co.world (core / 192) (savepVa co) (saveRegions s1 core co.atYield)
    match sliceOn s core with
    | none => s2
    | some x =>
      let m := x.cores.findIdx (· = core)
      clearSaved ((saveBindings s2 core x.id (savepVa co)).modSlice x.id (fun y => { y with kept := y.kept ++ [keepMember s2 core m] })) core

/-- A helper on its way to its end reaches it while the save waits. -/
def endHelpers (s : State) (core : Nat) : State :=
  (List.range 10).foldl (fun st n =>
    let k := core * 16 + 1 + n
    if (st.ctx k).run = .ending then helperEnds st k else st) s

def execForcedSave (core : Nat) (s : State) : Out :=
  event s (fun s =>
    let co := s.core core
    if !co.saveDue || co.saved then s
    else
      let s0 := endHelpers ((List.range 11).foldl (fun st n => holdCtx st (core * 16 + n)) s) core
      let s1 := (List.range 11).foldl (fun st n => flushLates st (core * 16 + n)) s0
      if (List.range 11).all (fun n => let r := (s1.ctx (core * 16 + n)).run; r ≠ .live && r ≠ .ending) && coreQuiet s1 core then
        saveCore s1 core
      else s1)

/-- The offset of the tables of a save area, and their size (R285). -/
def tablesOff : Nat := 0x17000
def tablesSize : Nat := 0x6000

/-- A page of the tables in the save areas of a slice's members is not there yet. -/
def tablesWait (s : State) (x : Slice) : Option State :=
  x.cores.findSome? (fun k => unitWaits s (s.core k).world (k / 192) permW (savepVa (s.core k) + BitVec.ofNat 64 tablesOff) tablesSize)

/-- The tables of a gang's clusters and nodes are saved (R285); those of a member that has reported done, which saves nothing else, are
zero but for what it holds as the first of its cluster, die or gang. -/
def saveTables (s : State) (x : Slice) (done : List Nat) : State :=
  let blank : List (Nat × List (Nat × List Byte)) := done.map (fun k => (k, [(tablesOff, List.replicate tablesSize 0)]))
  (blank ++ gangRegions s x).foldl (fun st p => writeRegions st (st.core p.1).world (p.1 / 192) (savepVa (st.core p.1)) p.2) s

/-- Every member's save has completed: the tables of the gang's clusters and nodes are saved, and the cores are free (R285). What a
member that has reported done keeps stays with the slice (R202). -/
def execGangTableSave (slice : Nat) (s : State) : Out :=
  event s (fun s =>
    match s.slice slice with
    | none => s
    | some x =>
      let done := x.cores.filter (fun k => x.reports.any (fun r => r.1 = k))
      if x.st ≠ .saving || !x.cores.all (fun k => (s.core k).saved || done.contains k) then s
      else
        match tablesWait s x with
        | some s1 => s1
        | none =>
          let s1 := ((x.cores.map (· / 4)).eraseDups).foldl dropLeases (saveTables s x done)
          let keys := (nodesOf x).flatMap (fun n => (List.range (nodeGroups n)).map (groupKey n))
          let s2 := s1.modSlice slice (fun y =>
            { y with st := .preempted, keptGroups := keys.map (fun k => (k, s1.group k)),
                     kept := y.kept ++ done.map (fun k => keepMember s k (x.cores.findIdx (· = k))) })
          x.cores.foldl freeCore (clearNodes s2 (nodesOf x)))

/-! ## The budget (R287) -/

/-- BUDGET of a slice: it counts while the slice is placed, and holds at 0. -/
def budgetLeft (s : State) (x : Slice) : Nat := if x.st = .placed || x.st = .rolling then x.budget - (s.clk - x.since) else x.budget

/-- BUDGET reaches 0: 0x0C1 once, for every member that has not executed `sdone`. -/
def execBudgetExhausted (slice : Nat) (s : State) : Out :=
  event s (fun s =>
    match s.slice slice with
    | none => s
    | some x =>
      if x.st ≠ .placed || x.exhausted || budgetLeft s x ≠ 0 then s
      else
        (x.cores.filter (fun k => let c := s.ctx (k * 16); c.run ≠ .done && c.phase ≠ 10)).foldl (fun st k =>
          pend st (k * 16) 0x0C1#9 0 (BitVec.ofNat 64 x.seq)) (s.modSlice slice (fun y => { y with exhausted := true })))

/-! ## sdone (R288) -/

/-- The drain of everything that rests, and, once everything has been acknowledged, the discard of suspended sub-tiles. -/
def sdoneDrain (s : State) (core : Nat) : State :=
  let (_, s1) := drain s core (fun e => e.st = .resting)
  if (s1.core core).journal ≠ [] then s1
  else dropNodes s1 core (fun _ => true)

/-- Every live helper ends with exit value 0 and reason 3. -/
def stopHelpers (s : State) (core : Nat) : State :=
  (List.range 10).foldl (fun st n =>
    let k := core * 16 + 1 + n
    if slotCode (st.ctx k) = 1 then helperEnds (st.modCtx k (fun c => { c with exitValue := 0, exitReason := 3 })) k else st) s

/-- A control context ends its part of the slice: it waits in phase 10 until nothing of its core is under way and no cause
that it has met is due. -/
def finishPart (s : State) (status : Nat) (again : Bool) : State :=
  let core := s.cx.coreKey
  let s1 := s.modCx (fun c => { c with phase := 10, limitAt := if c.phase = 10 then c.limitAt else some s.clk })
  if !(List.range 11).all (fun n => (s1.ctx (core * 16 + n)).loads = 0 && !filling s1 (core * 16 + n)) then s1
  else
    let s2 := sdoneDrain s1 core
    let co := s2.core core
    let cl := s2.cluster (core / 4)
    let due (n : Nat) : Bool := (s2.ctx (core * 16 + n)).run = .live && (causeDue s2 (core * 16 + n)).isSome
    if co.journal = [] && co.siding = [] && !cl.copies.any (fun x => x.core = core) && !cl.tasks.any (fun x => x.core = core) &&
        !ringHolds s2 core && !(List.range 11).any due then
      memberDone (stopHelpers s2 core) core status again
    else s2

/-- The status that an `sdone` reports: INCOMPLETE where the supervisor ends a slice by it after the third abort of its join (R397). -/
def sdoneStatus (s : State) : Nat := if s.cx.priv && (sliceOn s s.cx.coreKey).any (fun x => 3 ≤ x.tries) then 9 else 0

def execSdone (a : SReg) (s : State) : Out :=
  issue s (.sdone a) (fun s => finishPart s (sdoneStatus s) ((jobOn s s.cx.coreKey).any (fun j => j.stages ≠ []) && bit (s.rS a) 0))

end Sys2Proof.Machine
end

