-- ==== Sys2Proof/Machine/Launch.lean ====
section
/-!
DEFINITION. The launch front end (12 R276 to R281, R289 to R291; 16 R337): rings, packets, completions, launch parameter
blocks, stage tables and the signal box, context commands, the watchdog.
-/
namespace Sys2Proof.Machine

/-! ## Completions (R280) -/

def clogOf (w : WorldDie) : Nat := clampLog w.clog
def rlogOf (w : WorldDie) : Nat := clampLog w.rlog

/-- The completion ring has a free entry. -/
def complRoom (w : WorldDie) : Bool := w.cen && (w.ctail - w.chead).toNat < 2 ^ clogOf w

/-- The oldest held completion is posted where its entry is free; an entry that cannot be written is logged. -/
def execHeldCompletionPost (world die : Nat) (s : State) : Out :=
  event s (fun s =>
    let w := s.wd world die
    match w.heldDone with
    | [] => s
    | c :: rest =>
      if !complRoom w then s
      else
        let at_ := w.cbase + BitVec.ofNat 64 (32 * (w.ctail.toNat % 2 ^ clogOf w))
        match unitWaits s world die permW at_ 32 with
        | some s1 => s1
        | none =>
          let s1 := match unitWrite s world die at_ (wordsBytes c) with
            | (true, s1) => s1
            | (false, s1) => s1.logOpen die 15 world at_ none
          let s2 := s1.modWd world die (fun w => { w with heldDone := rest, ctail := w.ctail + 1 })
          if w.cie then { s2 with hostIrqs := s2.hostIrqs ++ [(world, 0, putAt die 12)] } else s2)

/-! ## Packets (R278, R279) -/

/-- What the front end finds at the head of a ring. -/
inductive Packet0 where
  /-- Nothing to serve: disabled, stopped, empty, its completion ring full, a packet of which only a part is there, or an
  admission of a world that does not run (R350). -/
  | idle
  /-- The read of the ring parks. -/
  | parks (s : State)
  | malformed (va : Word) (tag : Nat)
  | launch (tag : Nat) (block : Word)
  | admission (tag : Nat) (flacon size cap deadline : Word)
  deriving DecidableEq, Repr

/-- The first byte of n from an address that a unit cannot read. -/
def unreadable (s : State) (world die : Nat) (va : Word) (n : Nat) : Option Nat :=
  (List.range n).find? (fun i => (vaReadLoc s world die (va + BitVec.ofNat 64 i)).isNone)

/-- The packet at HEAD: an overrun of the ring comes first, whose TAG is read where it can be (R278). -/
def peekPacket (s : State) (world die : Nat) : Packet0 :=
  let w := s.wd world die
  let size := 2 ^ rlogOf w
  let n := (w.rtail - w.rhead).toNat
  let e := w.rhead.toNat % size
  let va := w.rbase + BitVec.ofNat 64 (64 * e)
  if !w.ren || w.rstop || n = 0 || w.heldDone ≠ [] || !complRoom w then .idle
  else if size < n then .malformed va (((vaRead s world die va 64).map (fun l => leValue ((l.drop 4).take 4))).getD 0)
  else
    match unitWaits s world die permR va 64 with
    | some s1 => .parks s1
    | none =>
      match vaRead s world die va 64 with
      | none => .malformed va 0
      | some l =>
        let tag := leValue ((l.drop 4).take 4)
        let ty := leValue (l.take 1)
        let zero (p : List Byte) : Bool := p.all (· = 0)
        if ty ≠ 1 && ty ≠ 2 then .malformed va tag
        else if ty = 2 && size < e + 2 then .malformed va tag
        else if ty = 2 && n < 2 then .idle
        else if ty = 1 then
          if !zero ((l.drop 1).take 3) || !zero (l.drop 16) || (wordAt l 8).toNat % 128 ≠ 0 then .malformed va tag
          else .launch tag (wordAt l 8)
        else
          match unitWaits s world die permR (va + 64) 64, vaRead s world die (va + 64) 64 with
          | some s1, _ => .parks s1
          | none, none => .malformed va tag
          | none, some m =>
            if !zero ((l.drop 1).take 3) || !zero (l.drop 40) || !zero m || (wordAt l 8).toNat % 64 ≠ 0 || wordAt l 16 = 0 then .malformed va tag
            else if !(s.world world).running then .idle
            else .admission tag (wordAt l 8) (wordAt l 16) (wordAt l 24) (wordAt l 32)

/-- The front end of a die serves rings: it is in service, and its controller runs (R327, R328). -/
def frontEnd (s : State) (die : Nat) : Bool := inService s die 435 && (s.ctx (ctlKey (14 + die))).run = .live

/-- A ring has something to serve. DEDUCED (log 73). -/
def servable (s : State) (world die : Nat) : Bool :=
  frontEnd s die && match peekPacket s world die with
  | .idle => false
  | .parks _ => false
  | _ => true

/-- It is the ring's turn: no ring between the one that is next and it has something to serve. -/
def ringsTurn (s : State) (world die : Nat) : Bool :=
  let first := (s.dieAt die).ringTurn
  let order := (List.range 64).map (fun i => (first + i) % 64)
  order.find? (fun w => servable s w die) = some world

/-- The next ring has its turn. -/
def turnOn (s : State) (world die : Nat) : State := s.modDie die (fun d => { d with ringTurn := (world + 1) % 64 })

/-- The packet is taken up: HEAD moves, and the next ring has its turn. -/
def packetTaken (s : State) (world die len : Nat) : State :=
  turnOn (s.modWd world die (fun w => { w with rhead := w.rhead + BitVec.ofNat 16 len })) world die

/-- What the reads of a packet leave in the logs where they are refused (R321). -/
def packetReads (s : State) (world die : Nat) (va : Word) : State :=
  match unitRead s world die va 64 with
  | (some l, s1) =>
    let w := s.wd world die
    if l.headD 0 = 2 && w.rhead.toNat % 2 ^ rlogOf w + 2 ≤ 2 ^ rlogOf w then (unitRead s1 world die (va + 64) 64).2 else s1
  | (none, s1) => s1

/-- A ring is served: a malformed packet stops it; a read that parks asks for its page. Launches and admissions are acted on
by their own steps. -/
def execRingServe (world die : Nat) (s : State) : Out :=
  event s (fun s =>
    match peekPacket s world die with
    | .parks s1 => if frontEnd s die then s1 else s
    | .malformed va tag =>
      if !ringsTurn s world die then s
      else
        let s1 := pushCompletion (packetReads s world die va) world die tag 3 0 va 0 0
        let s2 := s1.logOpen die 15 world va none
        turnOn (s2.modWd world die (fun w => { w with rstop := true })) world die
    | _ => s)

/-! ## The launch parameter block (R281) -/

/-- A field of n bytes. -/
def fieldAt (l : List Byte) (off n : Nat) : Nat := leValue ((l.drop off).take n)

def lpbOf (l : List Byte) : Lpb :=
  { dimx := fieldAt l 0 2 + 1, dimy := fieldAt l 2 2 + 1, dimz := fieldAt l 4 2 + 1, order := fieldAt l 6 1, swz := fieldAt l 7 1,
    gcores := fieldAt l 8 1, gclust := fieldAt l 9 1, gdies := fieldAt l 10 1, prio := fieldAt l 11 1, gpkgs := fieldAt l 12 2,
    bstep := fieldAt l 14 1, twin := fieldAt l 15 1 % 2 = 1, entry := wordAt l 16, arg := wordAt l 24,
    deadline := fieldAt l 32 8, dstep := fieldAt l 40 8, budget := fieldAt l 48 8,
    pdead := (if fieldAt l 56 4 = 0 then 20000 else fieldAt l 56 4), image := fieldAt l 60 4, savebase := wordAt l 64,
    snap := wordAt l 72, tstart := wordAt l 80, joinwin := fieldAt l 88 4, stagep := wordAt l 96 }

/-- The first nonzero byte of a range, by its offset. -/
def nonzeroIn (l : List Byte) (off n : Nat) : Option Nat := ((List.range n).map (off + ·)).find? (fun i => (l[i]?).getD 0 ≠ 0)

/-- A paged VA of a die. -/
def pagedHere (s : State) (die : Nat) (va : Word) : Bool :=
  (vaDie va = 0x7FFE || vaDie va = ownLogical s die) && !vaScratch va

/-- An address in DM or paged space of a die of the package. -/
def dmOrPaged (s : State) (die : Nat) (va : Word) : Bool :=
  match routeDie s die va with
  | some (p, _) => p = s.pkg && vaDie va ≠ 0x7FFF && (!vaScratch va || (vaLevel va = 2 && bits va 45 26 = 0))
  | none => false

/-- ENTRY breaks its rule (R281, R289). -/
def entryBad (s : State) (die image : Nat) (e : Word) : Bool := e.toNat % 4 ≠ 0 || (image = 0 && !pagedHere s die e)

/-- The bytes of a snapshot map: words 0 to 3, and two words for each of its NREG regions. -/
def snapLength (l : List Byte) : Nat := 32 + 16 * min 14 (wordAt l 8).toNat

/-- The bytes of a snapshot map as memory stands. -/
def snapBytes (s : State) (world die : Nat) (va : Word) : Option (List Byte) :=
  (vaRead s world die va 32).bind (fun l => vaRead s world die va (snapLength l))

/-- A snapshot map (R337): none where it breaks its table. -/
def readSnap (s : State) (world die : Nat) (va : Word) : Option SnapMap :=
  if va.toNat % 64 ≠ 0 || !dmOrPaged s die va then none
  else
    match snapBytes s world die va with
    | none => none
    | some l =>
      let n := (wordAt l 8).toNat
      let base := wordAt l 16
      let size := (wordAt l 24).toNat
      let reg (i : Nat) : Word × Nat := (wordAt l (32 + 16 * i), (wordAt l (40 + 16 * i)).toNat)
      let regions := (List.range n).map reg
      if wordAt l 0 ≠ 0x50414E53 || 14 < n || base.toNat % 65536 ≠ 0 || !dmOrPaged s die base || size % 65536 ≠ 0 || size < 65536 ||
          !regions.all (fun r => r.1.toNat % 64 = 0 && r.2 % 64 = 0 && r.2 ≠ 0 && dmOrPaged s die r.1) then none
      else some { logBase := base, logSize := size, regions := regions }

/-- A stage table (R289): none where it breaks a rule. -/
def readStages (s : State) (world die image : Nat) (va : Word) : Option (List Stage) :=
  match vaRead s world die va 160 with
  | none => none
  | some l =>
    let n := fieldAt l 0 1 + 1
    let at_ (i : Nat) : List Byte := (l.drop (32 + 32 * i)).take 32
    let stage (i : Nat) : Stage :=
      { entry := wordAt (at_ i) 0, ring := wordAt (at_ i) 8, hi := fieldAt (at_ i) 16 4, lo := fieldAt (at_ i) 20 4,
        min := fieldAt (at_ i) 24 4, hot := false }
    let dmHere (va : Word) : Bool := va.toNat % 16 = 0 && vaScratch va && vaLevel va = 2 && dmOrPaged s die va
    let good (i : Nat) : Bool :=
      let t := stage i
      !entryBad s die image t.entry && dmHere t.ring && t.lo < t.hi && 1 ≤ t.min && (nonzeroIn (at_ i) 28 4).isNone
    if 4 < n || (nonzeroIn l 1 31).isSome || !(List.range n).all good || (nonzeroIn l (32 + 32 * n) (128 - 32 * n)).isSome then none
    else some ((List.range n).map stage)

/-- The cached image that a handle names. -/
def imageOf (s : State) (world die handle : Nat) : Option CachedImage :=
  s.images.find? (fun m => m.world = world && m.die = die && m.handle = handle)

/-- The first byte of a block that breaks a rule. -/
def lpbError (s : State) (world die : Nat) (l : List Byte) : Option Nat :=
  let p := lpbOf l
  let shapeOk := p.gcores ≠ 0 && p.gcores ≤ 15 && 1 ≤ p.gclust && p.gclust ≤ 48 && 1 ≤ p.gdies && p.gdies ≤ 4
  let rules : List (Nat × Bool) :=
    [(6, 4 < p.order || ((p.order = 2 || p.order = 4) && p.dimz ≠ 1)), (7, 8 < p.swz), (8, p.gcores = 0 || 15 < p.gcores),
     (8, shapeOk && !fitsPartition s world die p), (9, p.gclust = 0 || 48 < p.gclust), (10, p.gdies = 0 || 4 < p.gdies), (11, 7 < p.prio),
     (12, p.gpkgs = 0 || 6144 < p.gpkgs), (14, 15 < p.bstep), (15, 1 < fieldAt l 15 1), (16, entryBad s die p.image p.entry),
     (48, p.budget = 0), (60, p.image ≠ 0 && (imageOf s world die p.image).isNone), (64, p.savebase.toNat % 65536 ≠ 0),
     (72, if p.snap = 0 then p.twin else (readSnap s world die p.snap).isNone), (80, (p.tstart ≠ 0) ≠ (1 < p.gpkgs)),
     ((nonzeroIn l 92 4).getD 92, (nonzeroIn l 92 4).isSome),
     (96, p.stagep ≠ 0 && (readStages s world die p.image p.stagep).isNone),
     ((nonzeroIn l 104 24).getD 104, (nonzeroIn l 104 24).isSome)]
  (rules.find? (·.2)).map (·.1)

/-- A bad block: STATUS 2 with the first failing byte; what CAUSE holds the spec does not say. DESIGN CHOICE (log 80). -/
def badBlock (s : State) (world die tag off : Nat) : State :=
  let (v, s1) := s.freeVal
  pushCompletion s1 world die tag 2 (bits v 8 0) (BitVec.ofNat 64 off) 0 0

/-- A job arrives: its slices come into being one by one, but for pipeline jobs and gangs of several packages all at once.
DEDUCED (log 83). -/
def startJob (s : State) (world die tag : Nat) (p : Lpb) : State :=
  let (id, s1) := s.fresh
  let total := p.dimx * p.dimy * p.dimz
  let img := imageOf s world die p.image
  let stages := if p.stagep = 0 then [] else (readStages s world die p.image p.stagep).getD []
  let j : Job := { id := id, world := world, die := die, tag := tag, lpb := p, arrival := s.clk, next := 0, total := total, left := total,
                   notDone := 0, statuses := [], stages := stages, checks := 0,
                   snap := (if p.snap = 0 then none else readSnap s world die p.snap), codeVa := (img.map (·.codeVa)).getD 0 }
  let s2 := { s1 with jobs := s1.jobs ++ [j],
                      images := s1.images.map (fun m => if some m.handle = img.map (·.handle) && m.die = die then { m with launched := s.clk } else m) }
  if stages ≠ [] || 1 < p.gpkgs then addSlices s2 id total else s2

/-- The reads of a launch park: its block, its map, its table. -/
def launchWaits (s : State) (world die : Nat) (block : Word) : Option State :=
  match unitWaits s world die permR block 128 with
  | some s1 => some s1
  | none =>
    match vaRead s world die block 128 with
    | none => none
    | some l =>
      let p := lpbOf l
      (if p.snap = 0 then none
       else unitWaits s world die permR p.snap 32 <|>
         (vaRead s world die p.snap 32).bind (fun m => unitWaits s world die permR p.snap (snapLength m))) <|>
        (if p.stagep = 0 then none else unitWaits s world die permR p.stagep 160)

/-- What the refused reads of a launch leave in the logs (R321): of its block, its map, its table. -/
def launchReads (s : State) (world die : Nat) (block : Word) (off : Nat) : State :=
  match unitRead s world die block 128 with
  | (none, s1) => s1
  | (some l, s1) =>
    let p := lpbOf l
    if off = 72 && p.snap ≠ 0 then
      match unitRead s1 world die p.snap 32 with
      | (some m, s2) => (unitRead s2 world die p.snap (snapLength m)).2
      | (none, s2) => s2
    else if off = 96 && p.stagep ≠ 0 then (unitRead s1 world die p.stagep 160).2
    else s1

/-- A LAUNCH packet is acted on (R281). While one of its reads is parked the other rings have their turns. -/
def execLaunch (world die : Nat) (s : State) : Out :=
  event s (fun s =>
    match peekPacket s world die with
    | .launch tag block =>
      if !ringsTurn s world die then s
      else
        match launchWaits s world die block with
        | some s1 => turnOn s1 world die
        | none =>
          let s1 := packetTaken s world die 1
          match vaRead s world die block 128 with
          | none => badBlock (launchReads s1 world die block 0) world die tag ((unreadable s world die block 128).getD 0)
          | some l =>
            match lpbError s world die l with
            | some off => badBlock (launchReads s1 world die block off) world die tag off
            | none => startJob s1 world die tag (lpbOf l)
    | _ => s)

/-! ## Doorbells and commands (R276, R277) -/

def writeTail (s : State) (world die tail : Nat) : State := s.modWd world die (fun w => { w with rtail := BitVec.ofNat 16 tail })

/-- The host rings the doorbell, after what it wrote to its memory. -/
def execRtailWrite (world die tail : Nat) (hostWrites : List (Nat × BitVec 8)) (s : State) : Out :=
  event s (fun s => writeTail (hostWrites.foldl (fun st p => st.setByte (hostKey (p.1 % 2 ^ 49)) p.2) s) world die tail)

def writeRdoor (s : State) (v : Word) : State := writeTail s s.cx.world s.cx.die (bits v 15 0)

def execRdoorWrite (a : GReg) (s : State) : Out :=
  issue s (.putx a regRDOOR) (fun s => retire (writeRdoor s (s.rG a)) 4)

/-- The host writes 1 to STOP (R278). -/
def execRctlStopClear (world die : Nat) (s : State) : Out :=
  event s (fun s => s.modWd world die (fun w => { w with rstop := false }))

/-- A context that R174 has stopped, named by CTXCMD. -/
def stoppedCtx (s : State) (world die cluster core slot : Nat) : Option Nat :=
  let k := coreKeyOf die cluster core * 16 + slot
  if cluster < 48 && core < 4 && slot < 16 && (s.ctx k).run = .stopped && (s.ctx k).world = world then some k else none

/-- CTXCMD 1: the context goes on at TPC with the privilege it had (R174). -/
def execCtxcmdResume (world die cluster core slot : Nat) (s : State) : Out :=
  event s (fun s =>
    match stoppedCtx s world die cluster core slot with
    | some k => s.modCtx k (fun c => { c with run := if (s.core (k / 16)).saveDue then .held else .live, pc := c.trap.tpc, pulse := s.clk })
    | none => s)

/-- CTXCMD 2: the slice of the context ends with ABORTED, or INCOMPLETE after the third abort of its join (R397). -/
def execCtxcmdAbort (world die cluster core slot : Nat) (s : State) : Out :=
  event s (fun s =>
    match (stoppedCtx s world die cluster core slot).bind (fun k => sliceOn s (k / 16)) with
    | some x => endSlice s x (if 3 ≤ x.tries then 9 else 7)
    | none => s)

/-! ## The signal box (R290) -/

/-- The occupancy of a stage's ring. -/
def ringLoad (s : State) (j : Job) (t : Stage) : Nat :=
  match vaReadWord s j.world j.die t.ring, vaReadWord s j.world j.die (t.ring + 8) with
  | some h, some tl => satTo (tl - h).toNat (2 ^ 32 - 1)
  | _, _ => 0

/-- The best of a list under a preference that must hold strictly to replace an earlier one. -/
def bestOf {α : Type} (better : α → α → Bool) : List α → Option α
  | [] => none
  | x :: t =>
    match bestOf better t with
    | none => some x
    | some y => if better y x then some y else some x

/-- One check of a pipeline job. -/
def checkJob (s0 : State) (j : Job) : State :=
  let s := j.stages.foldl (fun st t => (unitRead (unitRead st j.world j.die t.ring 8).2 j.world j.die (t.ring + 8) 8).2) s0
  let o := j.stages.map (ringLoad s j)
  let at_ (i : Nat) : Nat := o.getD i 0
  let hot := (j.stages.zip o).map (fun p => if p.1.hi ≤ p.2 then true else if p.2 ≤ p.1.lo then false else p.1.hot)
  let stages := (j.stages.zip hot).map (fun p => { p.1 with hot := p.2 })
  let idx := List.range j.stages.length
  let gangs (i : Nat) : List Slice := s.slices.filter (fun x => x.job = j.id && x.nextStage = i)
  let dst := bestOf (fun a b => at_ b < at_ a) (idx.filter (fun i => hot.getD i false))
  let src := bestOf (fun a b => at_ a < at_ b || at_ a = at_ b) (idx.filter (fun i =>
    !(hot.getD i false) && at_ i ≤ ((j.stages[i]?).map (·.lo)).getD 0 && ((j.stages[i]?).map (·.min)).getD 0 < (gangs i).length &&
      some i ≠ dst))
  let n := j.checks + 1
  let s1 := s.modJob j.id (fun j => { j with stages := stages, checks := n })
  match dst, src with
  | some d, some a =>
    let free := (gangs a).filter (fun x => match x.movedAt with | some m => m + 4 < n | none => true)
    match bestOf (fun x y : Slice => y.seq < x.seq) free with
    | some x => s1.modSlice x.id (fun y => { y with nextStage := d, movedAt := some n,
                                                    stage := if y.st = .waiting then d else y.stage })
    | none => s1
  | _, _ => s1

/-- The signal box checks every pipeline job of its die, once at a CYCLE that is a multiple of 4,096. -/
def execSignalBoxCheck (die : Nat) (s : State) : Out :=
  event s (fun s =>
    if s.cycle.toNat % 4096 ≠ 0 || !inService s die 434 || (s.dieAt die).checkedAt = some s.cycle then s
    else (s.jobs.filter (fun j => j.die = die && j.stages ≠ [])).foldl (fun st j => checkJob st j)
      (s.modDie die (fun d => { d with checkedAt := some s.cycle })))

/-! ## The watchdog (R291) -/

/-- The last pulse of a control context and its helpers. -/
def lastPulse (s : State) (core : Nat) : Nat := (List.range 11).foldl (fun m n => max m (s.ctx (core * 16 + n)).pulse) 0

def execWatchdogExpire (core : Nat) (s : State) : Out :=
  event s (fun s =>
    let w := (s.core core).wdwin.toNat
    let c := s.ctx (core * 16)
    if w = 0 || (s.core core).slice.isNone || c.run = .free || c.run = .done || s.clk < lastPulse s core + w then s
    else pend (s.modCtx (core * 16) (fun c => { c with pulse := s.clk })) (core * 16) 0x0C3#9 0 (BitVec.ofNat 64 w))

end Sys2Proof.Machine
end

