-- ==== Sys2Proof/Machine/Admission.lean ====
section
/-!
DEFINITION. Flacons and translators (01 R17 to R25, R430; 12 R293 to R301): the checks before and after a translation, the
code cache, the meter, `halt`, and the instruction caches' `iprf` and `iinv`, with `xlat`.
-/
namespace Sys2Proof.Machine

/-! ## The checks before a translator starts (R17 to R19, R24, R430) -/

/-- The outcome of a check: a cause with the offset of the failing byte. -/
abbrev CheckFail := Cause × Nat

/-- The first of a list of rules that is broken: (offset, broken). -/
def firstBroken (k : Cause) (l : List (Nat × Bool)) : Option CheckFail := (l.find? (·.2)).map (fun p => (k, p.1))

/-- A section (R18). -/
structure Section where
  at_ : Nat
  kind : Nat
  zero : Bool
  offset : Nat
  size : Nat
  deriving DecidableEq, Repr

def sectionAt (l : List Byte) (at_ : Nat) : Section :=
  { at_ := at_, kind := fieldAt l at_ 2, zero := (nonzeroIn l (at_ + 2) 6).isNone && (nonzeroIn l (at_ + 24) 8).isNone,
    offset := fieldAt l (at_ + 8) 8, size := fieldAt l (at_ + 16) 8 }

/-- The header check (R17): the lowest offset among the fields that break it and, in a flacon of fewer than 256 bytes, the first byte
that is missing (R430). -/
def headerFail (l : List Byte) (size : Nat) : Option CheckFail :=
  let fields : List (Nat × Nat × Bool) :=
    [(0, 8, fieldAt l 0 8 ≠ 0x01004E4F43414C46), (8, 4, fieldAt l 8 4 ≠ 1), (12, 4, 1 < fieldAt l 12 4),
     (16, 4, fieldAt l 16 4 < 3 || 16 < fieldAt l 16 4), (20, 4, fieldAt l 20 4 < 256 || fieldAt l 20 4 % 64 ≠ 0),
     (24, 8, fieldAt l 24 8 = 0), (32, 8, fieldAt l 32 8 = 0 || fieldAt l 32 8 % 4096 ≠ 0),
     (112, 1, (nonzeroIn l 112 (min 144 (size - 112))).isSome)]
  firstBroken 0x190#9 ((fields.filter (fun p => p.1 + p.2.1 ≤ size)).map (fun p => (p.1, p.2.2)) ++ [(size, decide (size < 256))])

/-- Two ranges share a byte; an empty one shares none. -/
def clash (a b : Nat × Nat) : Bool := a.2 ≠ 0 && b.2 ≠ 0 && rangesMeet a b

/-- An entry of the section table breaks a rule of R18. -/
def sectionBad (l : List Byte) (size : Nat) (all : List Section) (e : Section) : Bool :=
  let flag := fieldAt l 12 4 % 2 = 1
  let stoff := fieldAt l 20 4
  let earlier := all.any (fun x => x.at_ < e.at_ && x.kind = e.kind)
  e.kind = 0 || (e.kind ≤ 5 && earlier) || (e.kind = 5 && !flag) || !e.zero || e.offset % 64 ≠ 0 || size < e.offset + e.size ||
    clash (e.offset, e.size) (0, 256) || clash (e.offset, e.size) (stoff, 32 * fieldAt l 16 4) ||
    all.any (fun x => x.at_ ≠ e.at_ && clash (e.offset, e.size) (x.offset, x.size)) ||
    (e.kind = 5 && (e.size ≠ 512 || all.any (fun x => x.at_ ≠ e.at_ && e.offset < x.offset) || e.offset + 512 ≠ size))

/-- The section-table check: a kind that no entry holds fails at STOFF, otherwise the first entry that breaks a rule. -/
def tableFail (l : List Byte) (size : Nat) : Option CheckFail :=
  let n := fieldAt l 16 4
  let stoff := fieldAt l 20 4
  let whole := (List.range n).filter (fun i => stoff + 32 * (i + 1) ≤ size)
  let all := whole.map (fun i => sectionAt l (stoff + 32 * i))
  let flag := fieldAt l 12 4 % 2 = 1
  let lacks (k : Nat) : Bool := whole.length = n && !all.any (fun e => e.kind = k)
  if lacks 1 || lacks 2 || lacks 3 || (flag && lacks 5) then some (0x191#9, stoff)
  else
    match all.find? (sectionBad l size all) with
    | some e => some (0x191#9, e.at_)
    | none => if whole.length < n then some (0x191#9, stoff + 32 * whole.length) else none

def sections (l : List Byte) : List Section := (List.range (fieldAt l 16 4)).map (fun i => sectionAt l (fieldAt l 20 4 + 32 * i))
def sectionOf (l : List Byte) (k : Nat) : Section := ((sections l).find? (fun e => e.kind = k)).getD { at_ := 0, kind := k, zero := true, offset := 0, size := 0 }
def partOf (l : List Byte) (e : Section) : List Byte := (l.drop e.offset).take e.size

/-- The signature check (R19). -/
def signatureFail (s : State) (world : Nat) (l : List Byte) : Option CheckFail :=
  let has := (sections l).any (fun e => e.kind = 5)
  let e := sectionOf l 5
  match (s.world world).vkey with
  | none => none
  | some (ex, m) =>
    if !has then some (0x192#9, 0)
    else if pssVerify ex m (l.take e.offset) (partOf l e) then none else some (0x192#9, e.offset)

/-- The flacon as the front end reads it: a byte whose read is refused reads 0 here, and fails by `refusedIn`. -/
def flaconBytes (s : State) (world die : Nat) (va : Word) (n : Nat) : List Byte :=
  (List.range n).map (fun i => match vaReadLoc s world die (va + BitVec.ofNat 64 i) with | some a => s.byte a | none => 0)

/-- The first byte of a range of the flacon that its owner refuses. -/
def refusedIn (s : State) (world die : Nat) (va : Word) (off n : Nat) : Option CheckFail :=
  (unreadable s world die (va + BitVec.ofNat 64 off) n).map (fun i => (0x190#9, off + i))

/-- Of two failures of one check, the one of the lower offset decides (R430). -/
def lowerFail : Option CheckFail → Option CheckFail → Option CheckFail
  | some a, some b => some (if a.2 ≤ b.2 then a else b)
  | some a, none => some a
  | none, b => b

def insertRange (r : Nat × Nat) : List (Nat × Nat) → List (Nat × Nat)
  | [] => [r]
  | x :: t => if r.1 ≤ x.1 then r :: x :: t else x :: insertRange r t

/-- The ranges from a byte up to `size` that ranges in rising order leave. -/
def without (size : Nat) : Nat → List (Nat × Nat) → List (Nat × Nat)
  | at_, [] => [(at_, size - at_)]
  | at_, r :: t => if r.1 < at_ || size < r.1 + r.2 then without size at_ t else (at_, r.1 - at_) :: without size (r.1 + r.2) t

/-- The ranges of the flacon that step 1 reads (R18, R24): the header alone where it fails; otherwise everything but the sections of
later parts, which only a signature covers. DEDUCED (log 81). -/
def flaconRanges (s : State) (world : Nat) (l : List Byte) (size : Nat) : List (Nat × Nat) :=
  if (headerFail l size).isSome then [(0, min 256 size)]
  else if ((s.world world).vkey).isSome then [(0, size)]
  else without size 0 ((((sections l).filter (fun e => 6 ≤ e.kind)).map (fun e => (e.offset, e.size))).foldr insertRange [])

/-- A range of the flacon that cannot be read yet: first the header, then the section table, then what else step 1 reads. -/
def flaconWaits (s : State) (world die : Nat) (va : Word) (l : List Byte) (size : Nat) : Option State :=
  let stoff := fieldAt l 20 4
  let table : List (Nat × Nat) :=
    if (headerFail l size).isSome then [] else [(stoff, min (32 * fieldAt l 16 4) (size - stoff))]
  ((0, min 256 size) :: table ++ flaconRanges s world l size).findSome? (fun r =>
    if r.2 = 0 then none else unitWaits s world die permR (va + BitVec.ofNat 64 r.1) r.2)

/-- The front end reads ranges of the flacon, up to the first that is refused. -/
def readRanges (world die : Nat) (va : Word) : List (Nat × Nat) → State → State
  | [], s => s
  | r :: t, s =>
    match unitRead s world die (va + BitVec.ofNat 64 r.1) r.2 with
    | (some _, s1) => readRanges world die va t s1
    | (none, s1) => s1

/-- STEP 1 of R24, on what it reads of the flacon. DEDUCED (log 81). -/
def step1Fail (s : State) (world die : Nat) (va : Word) (l : List Byte) (size : Nat) : Option CheckFail :=
  lowerFail ((flaconRanges s world l size).findSome? (fun r => refusedIn s world die va r.1 r.2)) (headerFail l size) <|>
    tableFail l size <|> signatureFail s world l

/-! ## The code cache (R25, R296, R301) -/

/-- The 512 bits of a digest as bytes. -/
def digestBytes (d : BitVec 512) : List Byte := leBytes d.toNat 64

/-- The key of an image (R25). -/
def imageKey (l : List Byte) : List Byte :=
  let chip := digestBytes chipDigest
  digestBytes (sha512 (digestBytes (sha512 (partOf l (sectionOf l 2))) ++ digestBytes (sha512 (partOf l (sectionOf l 3))) ++
    chip ++ (l.drop 104).take 8))

def findImage (s : State) (world die : Nat) (key : List Byte) : Option CachedImage :=
  s.images.find? (fun m => m.world = world && m.die = die && m.key = key)

/-- The windows taken in a world's region of a die: of admissions that failed, of cached images, and of admissions under way. -/
def takenWindows (s : State) (world die : Nat) : List (Nat × Nat) :=
  (s.wd world die).stale ++
  (s.images.filter (fun m => m.world = world && m.die = die)).map (fun m => (m.window.toNat, m.size)) ++
  (s.admits.filter (fun a => a.world = world && a.die = die && a.owSet && a.ended.isNone)).map (fun a => (a.ow.toNat, a.owSize))

/-- A free window of n bytes, the lowest, aligned to 4 KiB. DESIGN CHOICE (log 21). -/
def freeWindow (s : State) (world die n : Nat) : Option Word :=
  let w := s.wd world die
  let taken := takenWindows s world die
  ((List.range (w.icsize.toNat / 4096)).find? (fun i =>
    n ≤ w.icsize.toNat - 4096 * i && !taken.any (fun t => rangesMeet t (w.icbase.toNat + 4096 * i, n)))).map
      (fun i => w.icbase + BitVec.ofNat 64 (4096 * i))

/-- An image that a queued or running job names. -/
def imageUsed (s : State) (m : CachedImage) : Bool := s.jobs.any (fun j => j.world = m.world && j.die = m.die && j.lpb.image = m.handle)

/-- The least recently launched image of a region that no job names. -/
def oldestImage (s : State) (world die : Nat) : Option CachedImage :=
  bestOf (fun a b : CachedImage => a.launched < b.launched)
    (s.images.filter (fun m => m.world = world && m.die = die && !imageUsed s m))

/-- A window, after as many windows of failed admissions have gone and as many images are evicted as it takes; none goes
where that is not enough. DEDUCED (log 20). -/
def makeRoom (s : State) (world die n : Nat) : Nat → Option (Word × State)
  | 0 => none
  | fuel + 1 =>
    match freeWindow s world die n, (s.wd world die).stale, oldestImage s world die with
    | some w, _, _ => some (w, s)
    | none, _ :: rest, _ => makeRoom (s.modWd world die (fun x => { x with stale := rest })) world die n fuel
    | none, [], none => none
    | none, [], some m =>
      makeRoom { s with images := s.images.filter (fun x => !(x.handle = m.handle && x.die = die)) } world die n fuel

/-- STATUS 4 of an image. -/
def postAdmitted (s : State) (a : Admit) (m : CachedImage) : State := pushCompletion s a.world a.die a.tag 4 0 0 m.codeVa (BitVec.ofNat 64 m.handle)

/-- An admission that leaves without being the run of others. -/
def dropAdmit (s : State) (a : Admit) : State := { s with admits := s.admits.filter (fun x => x.id ≠ a.id) }

/-- A window is allocated and filled, as far as its pages are mapped. -/
def startTranslation (s : State) (a : Admit) : State :=
  match makeRoom s a.world a.die a.owSize (s.images.length + (s.wd a.world a.die).stale.length + 1) with
  | none => dropAdmit (pushCompletion s a.world a.die a.tag 6 0 0 0 0) a
  | some (w, s1) =>
    let b := { a with ow := w, waits := none, owSet := true }
    fillWindow { s1 with admits := s1.admits.map (fun x => if x.id = a.id then b else x) } b

/-- Another admission with an equal key runs or waits for its core. -/
def sameRun (s : State) (a : Admit) : Option Admit :=
  s.admits.find? (fun x => x.id ≠ a.id && x.world = a.world && x.die = a.die && x.key = a.key && x.waits.isNone && x.ended.isNone)

/-- AN ADMISSION whose step 1 has passed: the cached image, a run to wait for, or a run of its own. DEDUCED (log 19). -/
def admitOnward (s : State) (a : Admit) : State :=
  match findImage s a.world a.die a.key with
  | some m => dropAdmit (postAdmitted s a m) a
  | none =>
    match sameRun s a with
    | some x => { s with admits := s.admits.map (fun y => if y.id = a.id then { y with waits := some x.id } else y) }
    | none => startTranslation s a

/-- An ADMIT packet is acted on (R296). -/
def execAdmitPacket (world die : Nat) (s : State) : Out :=
  event s (fun s =>
    match peekPacket s world die with
    | .admission tag flacon size cap deadline =>
      if !ringsTurn s world die then s
      else
        let l := flaconBytes s world die flacon size.toNat
        match flaconWaits s world die flacon l size.toNat with
        | some s1 => turnOn s1 world die
        | none =>
          let s1 := packetTaken (readRanges world die flacon (flaconRanges s world l size.toNat) s) world die 2
          match step1Fail s world die flacon l size.toNat with
          | some (k, off) => pushCompletion s1 world die tag 5 k.toNat (BitVec.ofNat 64 off) 0 0
          | none =>
            let (id, s2) := s1.fresh
            let p := sectionOf l 2
            let x := sectionOf l 3
            let want := fieldAt l 24 8
            let a : Admit :=
              { id := id, ctx := none, world := world, die := die, tag := tag, flacon := flacon, size := size.toNat, key := imageKey l, ow := 0,
                owSize := fieldAt l 32 8, owSet := false, filled := false, privOff := p.offset, privSize := p.size, xwOff := x.offset, xwSize := x.size,
                lim := BitVec.ofNat 64 (if cap = 0 then want else min want cap.toNat), options := wordAt l 104,
                entry := (List.range 8).map (fun i => wordAt l (40 + 8 * i)), deadline := s.clk + deadline.toNat, waits := none,
                arrived := s.clk, ended := none, holds := [] }
            admitOnward { s2 with admits := s2.admits ++ [{ a with waits := some id }] } a
    | _ => s)

/-- What a waiting load receives from the run it waited for (R25). -/
def followRun (s : State) (a x : Admit) (e : AdmitEnd) : State :=
  let same := if e.cause = 0x181#9 then a.lim = x.lim
    else if e.halted then e.meter ≤ a.lim.toNat else e.meter < a.lim.toNat
  if e.cause = 0 then
    match findImage s a.world a.die a.key with
    | some m => dropAdmit (postAdmitted s a m) a
    | none => admitOnward s a
  else if same then dropAdmit (pushCompletion s a.world a.die a.tag 5 e.cause.toNat e.offset 0 0) a
  else admitOnward s a

/-- A run that has ended and that nothing waits for any more is forgotten. -/
def forgetRuns (s : State) : State :=
  { s with admits := s.admits.filter (fun x => x.ended.isNone || s.admits.any (fun y => y.waits = some x.id)) }

/-- The first admission of a die whose run has ended receives its outcome. -/
def execCacheWaitResolve (die : Nat) (s : State) : Out :=
  event s (fun s =>
    match s.admits.findSome? (fun a =>
      if a.die ≠ die then none
      else a.waits.bind (fun w => (s.admits.find? (fun x => x.id = w && x.id ≠ a.id)).bind (fun x => x.ended.map (fun e => (a, x, e))))) with
    | some (a, x, e) => forgetRuns (followRun s a x e)
    | none => s)

/-! ## The checks of the output image (R20, R21, R24, R430) -/

/-- A table of the image: offset, count, record size. -/
def imageTables (l : List Byte) : List (Nat × Nat × Nat) :=
  [(fieldAt l 16 4, fieldAt l 20 4, 8), (fieldAt l 24 4, fieldAt l 28 4, 16), (fieldAt l 32 4, fieldAt l 36 4, 16),
   (fieldAt l 40 4, fieldAt l 44 4, 8)]

/-- The records of a table, by their offsets from OWBASE. -/
def recordsOf (t : Nat × Nat × Nat) : List Nat := (List.range t.2.1).map (fun i => t.1 + t.2.2 * i)

def outHeaderFail (l : List Byte) (size : Nat) : Option CheckFail :=
  let words := fieldAt l 4 4
  let off := fieldAt l 8 8
  let bad (t : Nat × Nat × Nat) : Bool := t.1 % 8 ≠ 0 || size < t.1 + t.2.1 * t.2.2
  firstBroken 0x193#9 (([(0, fieldAt l 0 4 ≠ 0x4E494B4D), (4, words = 0), (8, off % 64 ≠ 0 || size < off + 4 * words)] : List (Nat × Bool)) ++
    ([16, 24, 32, 40].zip (imageTables l)).map (fun p => ((p.1, bad p.2) : Nat × Bool)))

/-- The lowest offset of failing records. -/
def lowest (k : Cause) (l : List Nat) : Option CheckFail := (bestOf (fun a b : Nat => a < b) l).map (fun i => (k, i))

/-- A table's offsets rise strictly and stay below CODEWORDS. -/
def orderFail (l : List Byte) : Option CheckFail :=
  let words := fieldAt l 4 4
  lowest 0x194#9 ((imageTables l).flatMap (fun t =>
    ((recordsOf t).zip (List.range t.2.1)).filterMap (fun p =>
      if words ≤ fieldAt l p.1 4 || (p.2 ≠ 0 && fieldAt l p.1 4 ≤ fieldAt l (p.1 - t.2.2) 4) then some p.1 else none)))

/-- Every safe point has a live mask. -/
def pointFail (l : List Byte) : Option CheckFail :=
  match imageTables l with
  | sp :: lm :: _ => lowest 0x195#9 ((recordsOf sp).filter (fun r => !(recordsOf lm).any (fun m => fieldAt l m 4 = fieldAt l r 4)))
  | _ => none

/-- Reserved fields are zero, and unwind codes exist: the failing field of a record (R430). -/
def reservedFail (l : List Byte) : Option CheckFail :=
  match imageTables l with
  | [sp, lm, uw, _] =>
    let at_ (t : Nat × Nat × Nat) (off : Nat) (bad : Nat → Bool) : List Nat :=
      ((recordsOf t).map (fun r => r + off)).filter bad
    lowest 0x196#9 ((if (nonzeroIn l 48 16).isSome then [48] else []) ++ at_ sp 4 (fun a => 1 < fieldAt l a 4) ++
      at_ lm 11 (fun a => 1 < fieldAt l a 1) ++ at_ lm 12 (fun a => (nonzeroIn l a 4).isSome) ++
      at_ uw 4 (fun a => 3 < fieldAt l a 1) ++ at_ uw 6 (fun a => (nonzeroIn l a 2).isSome))
  | _ => none

/-- The checks of step 3 after the header's. -/
def tablesFail (l : List Byte) : Option CheckFail := orderFail l <|> pointFail l <|> reservedFail l

/-- The first byte of the header or of a table that cannot be read. -/
def imageRefused (s : State) (a : Admit) (l : List Byte) : Option CheckFail :=
  (([(0, 64)] ++ (imageTables l).map (fun (t : Nat × Nat × Nat) => ((t.1, t.2.1 * t.2.2) : Nat × Nat))).findSome? (fun (r : Nat × Nat) =>
    (unreadable s a.world a.die (a.ow + BitVec.ofNat 64 r.1) (min r.2 (a.owSize - r.1))).map (fun i => r.1 + i))).map (fun i => (0x193#9, i))

/-- What the refused reads of an image's header and tables leave in the logs (R321). -/
def imageReads (s : State) (a : Admit) (l : List Byte) : State :=
  match imageRefused s a l with
  | some (_, i) => (unitRead s a.world a.die (a.ow + BitVec.ofNat 64 i) 1).2
  | none => s

/-! ## Lines of the instruction caches (R292, R294, R301) -/

/-- A line of 64 bytes overlaps [va, va + n); n = 0 is everything. -/
def Line.hit (x : Line) (world : Nat) (va : Word) (n : Nat) : Bool :=
  x.world = world && (n = 0 || rangesMeet (x.va, 64) (bits va 47 0, n))

/-- A fetch on its way fills no cache with a line that has been dropped meanwhile (R294): its `elem` is 1. -/
def Req.unfilled (r : Req) (world die : Nat) (va : Word) (n : Nat) : Req :=
  if r.kind = .fetch && r.die = die && Line.hit { world := r.world, va := bits r.va 47 0, words := [] } world va n then
    { r with elem := 1 }
  else r

/-- The lines of a world on a die that overlap a range are dropped. -/
def dropLines (s : State) (world die : Nat) (va : Word) (n : Nat) : State :=
  let s0 := { s with reqs := s.reqs.map (fun (r : Req) => r.unfilled world die va n) }
  let s1 := s0.modDie die (fun d => { d with l2i := d.l2i.filter (fun x => !x.hit world va n) })
  (List.range 48).foldl (fun st c => st.modCluster (die * 48 + c) (fun cl => { cl with l1i := cl.l1i.filter (fun x => !x.hit world va n) })) s1

/-! ## The end of a translation (R299 to R301) -/

/-- An image passes admission: lines over its window go, it is cached, and STATUS 4 is posted. DEDUCED (log 82). -/
def cacheImage (s : State) (a : Admit) (l : List Byte) : State :=
  let s1 := dropLines s a.world a.die a.ow a.owSize
  let m : CachedImage := { world := a.world, die := a.die, handle := s1.nextHandle, key := a.key, codeVa := a.ow + wordAt l 8, window := a.ow,
                           size := a.owSize, launched := s.clk }
  postAdmitted { s1 with images := s1.images ++ [m], nextHandle := s1.nextHandle + 1 } a m

/-- A translator's `halt`: step 3 of R24, on the bytes of the header and the tables. -/
def translatorHalts (s : State) (k : Nat) : State :=
  match s.admits.find? (fun a => a.ctx = some k) with
  | none => s.modCtx k (fun c => { c with run := .done })
  | some a =>
    match unitWaits s a.world a.die permR a.ow a.owSize with
    | some s1 => s1
    | none =>
      let s := imageReads s a (flaconBytes s a.world a.die a.ow a.owSize)
      let l := flaconBytes s a.world a.die a.ow a.owSize
      let fin (k : Cause) (off : Nat) : AdmitEnd := { cause := k, offset := BitVec.ofNat 64 off, meter := (s.cx.meter.meter + 1).toNat, halted := true }
      match lowerFail (imageRefused s a l) (outHeaderFail l a.owSize) <|> tablesFail l with
      | some (c, off) => finishAdmit s a (fin c off)
      | none => finishAdmit (cacheImage s a l) a (fin 0 0)

/-- The meter of the translator that issues is exhausted (R299). -/
def execMeterExhausted (s : State) : Out :=
  event s (fun s =>
    let c := s.cx
    if c.kind = .translator && c.run = .live && c.meter.meter = c.meter.lim then raiseHere s 0x181#9 0 c.meter.meter else s)

/-! ## halt (R101) -/

/-- DEDUCED (log 64). -/
def execHalt (s : State) : Out :=
  issue s .halt (fun s =>
    match s.cx.kind with
    | .helper => helperQuit s 0 2
    | .control => finishPart s 1 false
    | .translator => if s.ops.any (fun o => o.ctx = s.cur) then s else translatorHalts s s.cur
    | .controller =>
      if s.cx.core = 0 then
        if cipendOf s s.cx &&& s.cx.cien ≠ 0 then retire (s.modCx (fun c => { c with waiting := false })) 4
        else s.modCx (fun c => { c with waiting := true })
      else (retire s 4).modCx (fun c => { c with run := .halted }))

/-! ## iprf, iinv, xlat (R293 to R295) -/

/-- The hint changes nothing that the model shows. -/
def execIprf (a b : SReg) (s : State) : Out := issue s (.iprf a b) (fun s => retire s 4)

def execIinv (a b : SReg) (s : State) : Out :=
  issue s (.iinv a b) (fun s =>
    let c := s.cx
    let va := s.rS a
    if vaScratch va || vaDie va = 0x7FFF then retire s 4
    else
      match routeDie s c.die va with
      | none => retire s 4
      | some (p, d) =>
        let s1 := if p = s.pkg then dropLines s c.world d va (s.rS b).toNat else s
        (retire s1 4).modCx (fun c => { c with fetched := [], fetching := none }))

def execXlat (d a : SReg) (s : State) : Out :=
  issue s (.xlat d a) (fun s =>
    if !loadRoom s then s
    else
      let (op, s1) := newOp s (regDest s.cx d) 1 0x042#9 false
      retire (sendReq s1 .xlat op 0 false (s.rS a) 8 []) 4)

end Sys2Proof.Machine
end

