-- ==== Sys2Proof/Machine/Platform.lean ====
section
/-!
DEFINITION. The package's platform (spec 15): controllers and their images, memory schedulers, rails, clusters' gating, the
current governor, lanes, and the measured boot.
-/
namespace Sys2Proof.Machine

/-! ## Interrupts of controllers (R311, R312) -/

/-- An enabled interrupt that the controller takes at its next boundary: not within a `sys` WFI, which ends first. -/
def interruptDue (s : State) (c : Ctx) : Bool :=
  c.kind = .controller && c.run = .live && !bit c.ciret 0 && !c.waiting && (cipendOf s c &&& c.cien) ≠ 0

/-- THE ENTRY of an interrupt: CIRET, ACTIVE, CIVEC. -/
def takeInterrupt (c : Ctx) : Ctx :=
  { c with ciret := (c.pc.zeroExtend 64 &&& ~~~3#64) ||| 1#64, pc := c.civec.truncate 48, fetched := [], fetching := none }

def execControllerInterrupt (ctl : Nat) (s : State) : Out :=
  event s (fun s => if interruptDue s (s.ctx (ctlKey ctl)) then s.modCtx (ctlKey ctl) takeInterrupt else s)

/-- THE RETURN of a handler (R312). -/
def interruptReturn (s : State) : State :=
  jump (s.modCx (fun c => { c with ciret := c.ciret &&& ~~~1#64 })) ((s.cx.ciret &&& ~~~3#64).truncate 48)

/-! ## Measurement (R357) -/

/-- M := SHA-512(M ‖ V). -/
def extendMeas (s : State) (idx : Nat) (v : BitVec 512) : State :=
  let s1 := { s with meas := Tbl.put 0 s.meas idx (sha512 (digestBytes (Tbl.get 0 s.meas idx) ++ digestBytes v)) }
  if idx = 9 then { s1 with dev := { s1.dev with extended9 := true } } else s1

/-! ## Controller images (R326, R327) -/

/-- The kind of a controller: 0 SCTL, 1 PCTL, 2 MCTL, 3 LCTL, 4 FE. DEDUCED (log 51). -/
def kindOf (n : Nat) : Nat := if n ≤ 1 then n else if n ≤ 9 then 2 else if n ≤ 13 then 3 else 4
/-- The KIND field of a kind's images. -/
def kindField (kind : Nat) : Nat := if kind ≤ 1 then kind else 0xFF

def flashAt (s : State) (kind slot off : Nat) : Byte :=
  (Tbl.get none s.flash (slot * 2 ^ 32 + kind * 2 ^ 24 + off)).getD (Config.flashByte kind slot off)
def flashBytes (s : State) (kind slot off n : Nat) : List Byte := (List.range n).map (fun i => flashAt s kind slot (off + i))
def flashField (s : State) (kind slot off n : Nat) : Nat := leValue (flashBytes s kind slot off n)

def imageSize (s : State) (kind slot : Nat) : Nat := flashField s kind slot 16 8
def imageSvn (s : State) (kind slot : Nat) : Nat := flashField s kind slot 12 4
/-- The digest of its code that an image names. -/
def imageDigest (s : State) (kind slot : Nat) : BitVec 512 := BitVec.ofNat 512 (flashField s kind slot 32 64)

/-- The checks of an image: header, digest, signature, anti-rollback counter. -/
def imageOk (s : State) (kind slot : Nat) : Bool :=
  let size := imageSize s kind slot
  let entry := flashField s kind slot 24 8
  flashField s kind slot 0 8 = 0x00474D494C525443 && flashField s kind slot 8 4 = kindField kind && 4 ≤ size && size ≤ 261888 &&
    entry % 4 = 0 && entry < 0x40000 && flashField s kind slot 96 160 = 0 &&
    sha512 (flashBytes s kind slot 256 size) = imageDigest s kind slot &&
    vendorVerify 1 (flashBytes s kind slot 0 (256 + size)) (flashBytes s kind slot (256 + size) 512) &&
    thermometer s (64 * kind) 64 ≤ imageSvn s kind slot

def ctlImage (s : State) (n : Nat) : CtlImage := Tbl.get CtlImage.empty s.ctlImages n
def modImage (s : State) (n : Nat) (f : CtlImage → CtlImage) : State :=
  { s with ctlImages := Tbl.put CtlImage.empty s.ctlImages n (f (ctlImage s n)) }

/-- THE RESTART of a controller from its slot (R313): code in SRAM, the rest zero; registers at reset; PC at ENTRY. -/
def loadController (s : State) (n : Nat) : State :=
  let kind := kindOf n
  let slot := (ctlImage s n).slot
  let s1 := zeroRange s (ctlSpace n 0) 0x40000
  let s2 := s1.setBytes (ctlSpace n 0) (flashBytes s kind slot 256 (imageSize s kind slot))
  s2.setCtx (ctlKey n) { controllerReset n with run := .live, pc := BitVec.ofNat 48 (flashField s kind slot 24 8),
                                                cipend := (s.ctx (ctlKey n)).cipend }

/-- The other slot of a controller comes back, and the failure is logged (R314, R327). DESIGN CHOICE (log 49). -/
def otherSlot (s : State) (ctl : Nat) : State :=
  let (v, s1) := s.freeVal
  let (w, s2) := s1.freeVal
  loadController (modImage (logCtl s2 ctl v.toNat 5 (w.toNat % 2 ^ 32)) ctl
    (fun x => { x with slot := 1 - x.slot, aliveBy := none, faults := [], double := false })) ctl

/-- The SCTL restarts a stopped controller: after a double fault from its current image, or from the other slot after three within
10 ms; else from the slot that a switch selects, or its current one (R313, R314, R327). -/
def execControllerRestart (ctl : Nat) (s : State) : Out :=
  event s (fun s =>
    let m := ctlImage s ctl
    if ctl = 0 || 17 < ctl || (s.ctx (ctlKey ctl)).run ≠ .halted then s
    else if m.double then
      if 3 ≤ m.faults.length then otherSlot s ctl
      else loadController (modImage s ctl (fun x => { x with double := false })) ctl
    else
      match m.pending with
      | some p =>
        let s1 := modImage s ctl (fun x => { x with slot := p, pending := none, aliveBy := some (s.clk + 15000000), faults := [] })
        loadController (extendMeas s1 (2 + kindOf ctl) (imageDigest s (kindOf ctl) p)) ctl
      | none => loadController s ctl)

/-- A fuse counter raised to a value: every pair below it is programmed (R364). -/
def raiseCounter (s : State) (k n v : Nat) : State :=
  { s with fuses := (List.range (min v n)).foldl (fun t i => Tbl.put 0 t (k + i) (3#2)) s.fuses }

/-- CALIVE: the running image is alive, and its kind's counter may advance (R327). -/
def writeCalive (s : State) : State :=
  let n := s.cx.core
  let s1 := raiseCounter s (64 * kindOf n) 64 (imageSvn s (kindOf n) (ctlImage s n).slot)
  modImage s1 n (fun x => { x with aliveBy := none })

def execCaliveWrite (a : GReg) (s : State) : Out :=
  issue s (.putx a regCALIVE) (fun s => retire (writeCalive s) 4)

/-- CALIVE is missing 10 ms after a switch: the other slot comes back (R327). -/
def execCaliveTimeout (ctl : Nat) (s : State) : Out :=
  event s (fun s =>
    if (ctlImage s ctl).aliveBy.any (· ≤ s.clk) then otherSlot s ctl else s)

/-! ## Die-to-die links and lanes (R308, R325) -/

/-- A lane goes into training, and carries no data: ignored while another lane of the link trains. -/
def trainLane (lane : Nat) (l : Link) : Link :=
  if l.training.isSome then l else { l with training := some lane, up := l.up &&& ~~~((1#8) <<< lane) }

/-- LNCTL of link l. -/
def writeLnctl (s : State) (die l : Nat) (v : Word) : State := if bit v 3 then modLink s die l (trainLane (bits v 2 0)) else s

def execLnctlGo (a : GReg) (l : BitVec 4) (s : State) : Out :=
  issue s (.putx a (regLNCTL l)) (fun s => retire (writeLnctl s (s.cx.core - 10) l.toNat (s.rG a)) 4)

/-- The training of a lane ends: it carries data again, or stays out of UP. -/
def execLaneTrainDone (die link : Nat) (pass : Bool) (s : State) : Out :=
  event s (fun s =>
    match (linkOf s die link).training with
    | none => s
    | some lane =>
      modLink s die link (fun l =>
        { l with training := none, count := satTo (l.count + 1) 65535, up := if pass then l.up ||| ((1#8) <<< lane) else l.up }))

/-- An uncorrectable flit: dropped, its requests refused, 0x1E2 to the host, and the link retrains. DESIGN CHOICE (log 52). -/
def execD2dFlitUncorrectable (die other : Nat) (ids : List Nat) (s : State) : Out :=
  event s (fun s =>
    if die = other || 4 ≤ die || 4 ≤ other then s
    else
      let lost := ids.filterMap (fun i => (s.req i).bind (fun r =>
        let crosses := r.crossesTo s = some other && r.die = die || r.crossesTo s = some die && r.die = other
        let onWay := r.st = .sent && r.arrived.isNone
        if crosses && onWay && (match r.kind with | .sc .. => false | _ => true) then some r else none))
      let s1 := lost.foldl (fun st r => refuseReq st r r.die 14 0) s
      let (v, s2) := { s1 with hostIrqs := s1.hostIrqs ++ [(0, 0x1E2#9, putAt other 4 ||| putAt die 0)] }.freeVal
      modLink s2 die (d2dLink die other) (trainLane (v.toNat % 8)))

/-! ## Memory schedulers (R315 to R321) -/

/-- Requests that a scheduler holds are refused and logged. -/
def refuseHeld (s : State) (k : Nat) : State :=
  let held := (s.sched k).held
  let s1 := s.modSched k (fun x => { x with held := [] })
  held.foldl (fun st i =>
    match st.req i with
    | some r => refuseReq st r (k / 384) 4 (k % 384)
    | none => st) s1

/-- SCHCTL.MODE of scheduler k (R318, R319): 0 while it trains is ignored; 2 from online is taken as 1. DEDUCED (log 47). -/
def writeSchctl (s : State) (k : Nat) (v : Word) : State :=
  let mode := bits v 1 0
  let st := (s.sched k).state.toNat
  let put (m n : Nat) : State := s.modSched k (fun x =>
    { x with mode := BitVec.ofNat 2 m, state := BitVec.ofNat 3 n, units := if n = 0 || n = 5 then [] else x.units })
  match mode with
  | 0 => if st = 3 then s else put 0 0
  | 1 => put 1 (if st = 3 || st = 2 then st else 1)
  | 2 => if st = 0 then put 1 1 else put 2 (if st = 3 || st = 1 then st else 2)
  | _ => refuseHeld (put 3 5) k

/-- The number of scheduler n among all, for the MCTL that issues. -/
def ownSched (s : State) (n : BitVec 8) : Nat := (s.cx.core - 2) * 192 + n.toNat

def schctlWord (a : GReg) (n : BitVec 8) (s : State) : Out :=
  issue s (.putx a (regSCHCTL n)) (fun s => retire (writeSchctl s (ownSched s n) (s.rG a)) 4)

def execSchctlOnline (a : GReg) (n : BitVec 8) (s : State) : Out := schctlWord a n s
def execSchctlDrain (a : GReg) (n : BitVec 8) (s : State) : Out := schctlWord a n s
def execSchctlOffline (a : GReg) (n : BitVec 8) (s : State) : Out := schctlWord a n s
def execSchctlFenced (a : GReg) (n : BitVec 8) (s : State) : Out := schctlWord a n s

/-- A merge of a granule of a scheduler is under way: its write is queued there (R238, R319). -/
def mergingAt (s : State) (k : Nat) : Bool := s.merges.any (fun m => m.1 < 0x8000000000 && schedKey m.1 = k)

/-- A draining scheduler has completed its queue. -/
def execSchedulerDrainDone (stack n : Nat) (s : State) : Out :=
  event s (fun s =>
    if mergingAt s (stack * 192 + n) then s
    else s.modSched (stack * 192 + n) (fun x => if x.state = 1 then { x with state := 2 } else x))

/-- TRNCTL: GO acts in STATE 2 or 4 only. -/
def writeTrnctl (s : State) (k : Nat) (v : Word) : State :=
  s.modSched k (fun x =>
    if bit v 0 && (x.state = 2 || x.state = 4) then { x with state := 3, done := false, steps := BitVec.ofNat 4 (bits v 7 4) } else x)

def execTrnctlGo (a : GReg) (n : BitVec 8) (s : State) : Out :=
  issue s (.putx a (regTRNCTL n)) (fun s => retire (writeTrnctl s (ownSched s n) (s.rG a)) 4)

/-- Training ends: DONE, PASS, and the settings that its steps found. -/
def execTrainingDone (stack n : Nat) (pass : Bool) (zq wldly eyel eyer vref : BitVec 8) (s : State) : Out :=
  event s (fun s => s.modSched (stack * 192 + n) (fun x =>
    if x.state ≠ 3 then x
    else
      { x with state := 2, done := true, pass := pass
               zq := (if x.steps.getLsbD 0 then zq else x.zq)
               wldly := (if x.steps.getLsbD 1 then wldly else x.wldly)
               eyel := (if x.steps.getLsbD 2 then eyel else x.eyel)
               eyer := (if x.steps.getLsbD 2 then eyer else x.eyer)
               vref := (if x.steps.getLsbD 3 then vref else x.vref) }))

/-- A parity or command error: STATE 4, and a record whose address and syndrome the spec does not give (R321). -/
def execDataPathError (stack n : Nat) (s : State) : Out :=
  event s (fun s =>
    let (v, s1) := s.freeVal
    let (w, s2) := s1.freeVal
    let k := stack * 192 + n
    (s2.logRec (stack / 2) 4 (k % 384) v 2 (w.toNat % 2 ^ 32) none).modSched k (fun x => { x with state := 4 }))

/-- Refresh goes on in every state; the banks keep their data. -/
def execHbmRefreshDue (stack n : Nat) (s : State) : Out :=
  event s (fun s => s.modSched (stack * 192 + n) (fun x => { x with refreshes := x.refreshes + 1 }))

def schctlRead (x : Sched) : Word := x.mode.zeroExtend 64
def schstatWord (x : Sched) : Word :=
  putAt x.ue 48 ||| putAt x.ce 32 ||| putAt (satTo (x.held.length + x.units.length) 256) 16 ||| x.state.zeroExtend 64
def trnresWord (x : Sched) : Word :=
  putAt (if x.done then 1 else 0) 63 ||| putAt (if x.pass then 1 else 0) 62 ||| putAt x.zq.toNat 48 ||| putAt x.wldly.toNat 40 |||
    putAt x.eyel.toNat 32 ||| putAt x.eyer.toNat 24 ||| putAt x.vref.toNat 16

/-! ## Rails (R322): 0 VSTBY, 1 VIO, 2 VSRAM, 3 VCORE, 4 VHBM -/

def railAt (s : State) (r : Nat) : RailSt := Tbl.get RailSt.down s.rails r
def setRail (s : State) (r : Nat) (x : RailSt) : State := { s with rails := Tbl.put RailSt.down s.rails r x }

/-- The PCTL runs: while it does not, the rails hold (R327). DEDUCED (log 125). -/
def railsMove (s : State) : Bool := (s.ctx (ctlKey 1)).run = .live

/-- A rail has held 95 % of nominal for 100 µs: it is up, and the next one may come up. -/
def execRailStable (rail : Nat) (s : State) : Out :=
  event s (fun s =>
    if railAt s rail ≠ .rising || !railsMove s then s
    else
      let s1 := setRail s rail .up
      if rail < 4 && railAt s1 (rail + 1) = .down then setRail s1 (rail + 1) .rising else s1)

/-- A unit of the domain that VCORE supplies stops: every core, and every controller but the SCTL and the PCTL.
DEDUCED (log 53). -/
def coresLose (s : State) : State :=
  { s with ctxs := s.ctxs.map (fun p => if p.1 = ctlKey 0 || p.1 = ctlKey 1 then p else (p.1, { p.2 with run := .free })) }

/-- A rail goes down. -/
def lowerRail (s : State) (r : Nat) : State :=
  let s1 := setRail s r .falling
  if r = 3 then coresLose s1 else s1

/-- A rail leaves ±5 % of nominal: the PCTL takes every rail down, VHBM first, and reports 0x1E3. -/
def execRailOutOfTolerance (rail : Nat) (s : State) : Out :=
  event s (fun s =>
    if railAt s rail ≠ .up || 4 < rail || !railsMove s then s
    else lowerRail { s with hostIrqs := s.hostIrqs ++ [(0, 0x1E3#9, BitVec.ofNat 64 rail)] } 4)

/-- A rail that is brought down reads below 10 %: the next in the down order follows; VSTBY is the board's. -/
def execRailBelow10Percent (rail : Nat) (s : State) : Out :=
  event s (fun s =>
    if railAt s rail ≠ .falling || !railsMove s then s
    else
      let s1 := setRail s rail .down
      if 2 ≤ rail then lowerRail s1 (rail - 1) else s1)

/-! ## Gating of clusters (R323) -/

/-- A cluster lies in the partition of a world. -/
def inPartition (s : State) (die cluster : Nat) : Bool := (List.range 64).any (fun w => (s.wd w die).clusters.getLsbD cluster)

/-- CGATE of a die: bits of clusters in a partition are ignored. A cluster whose bit clears is ungated in 2 µs. -/
def writeCgate (s : State) (die : Nat) (v : Word) : State :=
  let keep : BitVec 48 := (List.range 48).foldl (fun (m : BitVec 48) c =>
    if bit v c && !inPartition s die c then m ||| ((1#48) <<< c) else m) 0
  (List.range 48).foldl (fun st c =>
    st.modCluster (die * 48 + c) (fun x =>
      if keep.getLsbD c then { x with gated := 1, ungateAt := none }
      else if x.gated = 1 then { x with gated := 2, ungateAt := some (s.clk + 3000) } else x))
    (s.modDie die (fun d => { d with cgate := keep }))

def execCgateWrite (a : GReg) (die : BitVec 2) (s : State) : Out :=
  issue s (.putx a (regCGATE die)) (fun s => retire (writeCgate s die.toNat (s.rG a)) 4)

/-- A cluster's memories, planes, stacks and tables filled with zero. -/
def zeroCluster (s : State) (ck : Nat) : State :=
  let d := ck / 48
  let s1 := zeroRange (zeroRange s (cmKey d (ck % 48) 0) 0x400000) (0x030000000000 + d * 0x100000000 + ck % 48 * 0x800000) 0x500000
  ((List.range 4).foldl (fun st i => st.modCore (ck * 4 + i) (fun c => { c with planes := [] })) s1).modCluster ck (fun c =>
    { c with tids := [], types := [] })

def execUngateDone (die cluster : Nat) (s : State) : Out :=
  event s (fun s =>
    let ck := die * 48 + cluster
    let x := s.cluster ck
    if x.gated ≠ 2 || !x.ungateAt.any (· ≤ s.clk) then s
    else (zeroCluster s ck).modCluster ck (fun c => { c with gated := 0, ungateAt := none }))

/-- CGSTAT: a cluster is powered while VSRAM and VCORE are up and it is not gated. -/
def cgstatWord (s : State) (die : Nat) : Word :=
  if railAt s 2 ≠ .up || railAt s 3 ≠ .up then 0
  else (List.range 48).foldl (fun (m : Word) c => if (s.cluster (die * 48 + c)).gated = 0 then m ||| putAt 1 c else m) 0

/-! ## The current governor (R324) -/

def writeGovlim (s : State) (v : Word) : State := { s with govLim := BitVec.ofNat 12 (satTo (bits v 11 0) 3600) }

/-- An interval of 256 clk ends. -/
def execGovernorInterval (amps : Nat) (s : State) : Out :=
  event s (fun s =>
    if s.govLim.toNat < amps then { s with throttled := true, govCnt := s.govCnt + 1 } else { s with throttled := false })

/-! ## The measured boot (R328) -/

/-- The package as its supply comes up: what fuses, flash and the model's own fields hold stays. -/
def powerUp (s : State) : State :=
  let slots := s.ctlImages.filterMap (fun p =>
    let slot := if p.1 = 0 then p.2.pending.getD p.2.slot else p.2.slot
    if slot = 0 then none else some (p.1, { CtlImage.empty with slot := slot }))
  { State.reset with turns := s.turns, free := s.free, nextId := s.nextId, fuses := s.fuses, flash := s.flash, pkg := s.pkg,
                     ctlImages := slots }

/-- Every bit of the pairs at or below the highest programmed one is programmed (R364). -/
def completeFuses (s : State) : State :=
  let s1 := (List.range 5).foldl (fun st n => raiseCounter st (64 * n) 64 (thermometer st (64 * n) 64)) s
  raiseCounter s1 512 3 (thermometer s1 512 3)

/-- Controllers of a kind. -/
def controllersOf (kind : Nat) : List Nat := (List.range 18).filter (fun n => kindOf n = kind)

/-- A kind's image is verified, measured and loaded into its controllers. -/
def startKind (s : State) (kind : Nat) : Option State :=
  let n := ((controllersOf kind).head?).getD 0
  let slot := (ctlImage s n).slot
  if !imageOk s kind slot then none
  else some ((controllersOf kind).foldl loadController (extendMeas s (2 + kind) (imageDigest s kind slot)))

/-- Every scheduler trained with all four steps, with settings of its own. -/
def trainAll (s : State) : State :=
  (List.range 1536).foldl (fun st k =>
    let (v, st1) := st.freeVal
    st1.modSched k (fun x => { x with done := true, pass := true, zq := v.extractLsb' 0 8, wldly := v.extractLsb' 8 8,
                                      eyel := v.extractLsb' 16 8, eyer := v.extractLsb' 24 8, vref := v.extractLsb' 32 8 })) s

/-- Index 8 at boot: the lifecycle code and the five counters. -/
def lifecycleValue (s : State) : BitVec 512 :=
  BitVec.ofNat 512 (leValue ([BitVec.ofNat 8 (lcsOf s)] ++ List.replicate 7 0 ++
    (List.range 5).flatMap (fun n => leBytes (thermometer s (64 * n) 64) 8)))

/-- The digest of the boot ROM. -/
def romDigest : BitVec 512 := sha512 ((List.range 0x8000).map Config.bootRom)

/-- A step of the boot: the state after it, or none where it fails. -/
def bootStepOf (s : State) : Option State :=
  match s.bootStep with
  | 1 => some (completeFuses s)
  | 2 => some (extendMeas s 1 romDigest)
  | 3 => startKind s 0
  | 4 => startKind s 1
  | 5 => some (if railAt s 1 = .down then setRail s 1 .rising else s)
  | 6 => ((startKind s 2).bind (fun s => startKind s 3)).bind (fun s => startKind s 4)
  | 7 => some (trainAll s)
  | _ => some { extendMeas (extendMeas s 7 chipDigest) 8 (lifecycleValue s) with ready := true }

/-- BOOT: the supply comes up after a failure or a reset, or the next step of the boot is made. `ok` is false where the
hardware of the step fails. A failure stops the SCTL and is reported over I3C with its step. -/
def execBoot (ok : Bool) (s : State) : Out :=
  .next (
    if !s.power || s.resetDue then powerUp s
    else if s.bootStep = 0 || 9 ≤ s.bootStep then s
    else
      match (if ok then bootStepOf s else none) with
      | some s1 =>
        if s.bootStep = 5 && !(List.range 5).all (fun r => railAt s1 r = .up) then s1 else { s1 with bootStep := s.bootStep + 1 }
      | none =>
        { s.modCtx (ctlKey 0) (fun c => { c with run := .halted }) with
          bootStep := 0, answers := s.answers ++ [{ world := 0, code := .bootFailed s.bootStep, data := [] }] })

/-- The package's supply fails: everything stops; a fuse advance under way may have programmed one bit of its pair (R364). -/
def execPowerFailure (s : State) : Out :=
  .next (
    let s1 := match s.dev.fbusy with
      | none => s
      | some k =>
        let (v, s1) := s.freeVal
        let (w, s2) := s1.freeVal
        { s2 with fuses := Tbl.put 0 s2.fuses k (Tbl.get 0 s.fuses k ||| (if bit v 0 then 1#2 ||| (if bit w 0 then 2#2 else 0) else 0)) }
    { s1 with power := false })

end Sys2Proof.Machine
end

