-- ==== Sys2Proof/Machine/Integrity.lean ====
section
/-!
DEFINITION. Soft errors (spec 16): strikes, error logs, rollback of a superstep, twin-mode resolution, spare cores, injection.
-/
namespace Sys2Proof.Machine

/-! ## Strikes (R330 to R333) -/

/-- The record of a strike, in the log of its die's mesh: a unit of logic has no log of its own, and no address or syndrome is
stated. DESIGN CHOICE (log 128). -/
def logStrike (s : State) (die : Nat) (inj : Bool) (c : Option Ctx) : State :=
  let (v, s1) := s.freeVal
  let (w, s2) := s1.freeVal
  s2.logRecInj die 14 0 v 4 inj (w.toNat % 2 ^ 32) c

/-- The newest checkpoint at or before a clk (R331): those of clk that are multiples of 16 in CYCLE. -/
def checkpointAt (s : State) (t : Nat) : Nat := t - (s.cycle.toNat + t - s.clk) % 16

/-- A unit goes back to a checkpoint: what it sent after it is revoked (R332). -/
def revokeFrom (s : State) (unit c : Nat) : State :=
  let gone (e : Effect) : Bool := e.src = unit && c < e.sent
  { s with effects := s.effects.filter (fun e => !gone e), revoked := s.revoked ++ s.effects.filter gone }

/-- A strike reported to a unit, with the context that injected it. The unit goes back to its checkpoint, and the replay recomputes what
it discards; a unit with more than 16 strikes within 2^20 clk is taken out of service. -/
def strikeAt (s : State) (unit : Nat) (by_ : Option Ctx) : State :=
  let recent := ((Tbl.get [] s.strikes unit).filter (fun t => s.clk < t + 1048576)) ++ [s.clk]
  let s1 := { s with strikes := Tbl.put [] s.strikes unit recent }.modDie (unit / 1024) (fun d =>
    { d with strikes := satTo (d.strikes + 1) (2 ^ 32 - 1) })
  let s2 := logStrike (revokeFrom s1 unit (checkpointAt s (s.clk - 48))) (unit / 1024) by_.isSome by_
  if 16 < recent.length && !s.outOfService.contains unit then
    { s2 with outOfService := s2.outOfService ++ [unit], hostIrqs := s2.hostIrqs ++ [(0, 0x1E4#9, BitVec.ofNat 64 unit)] }
  else s2

def execStrikeReport (unit : Nat) (s : State) : Out := event s (fun s => if unit / 1024 < 4 then strikeAt s unit none else s)

/-- A revocation reaches its receiver: it goes back to its checkpoint before the receipt, and its own later effects are revoked in turn
(R332). A replay gives the same results (R333), so that only the count of its die shows it. DEDUCED (log 130). -/
def execEffectRevoke (unit : Nat) (s : State) : Out :=
  event s (fun s =>
    match s.revoked.find? (fun e => e.dst = unit) with
    | none => s
    | some e =>
      let s1 := { s with revoked := dropFirst (· = e) s.revoked }.modDie (unit / 1024) (fun d =>
        { d with revokes := satTo (d.revokes + 1) (2 ^ 32 - 1) })
      match e.got with
      | none => s1
      | some t => revokeFrom s1 unit (checkpointAt s t))

def silstatWord (d : Die) : Word := putAt d.strikes 32 ||| putAt d.revokes 0

/-! ## Error logs (R335) -/

/-- ELSEL, ELREAD and the injection registers are a world's, on a die. -/
def worldDieKey (c : Ctx) : Nat := c.world * 4 + c.die

def writeElsel (s : State) (v : Word) : State :=
  let k := worldDieKey s.cx
  { s with elsel := Tbl.put 0 s.elsel k (putAt (bits v 15 0) 0), elpos := Tbl.put 0 s.elpos k 0 }

def execElselWrite (a : GReg) (s : State) : Out := issue s (.putx a regELSEL) (fun s => retire (writeElsel s (s.rG a)) 4)

/-- A record that a world's S may read. -/
def recordOfWorld (world : Nat) (r : List Word) : Bool := bit (r.getD 2 0) 63 && bits (r.getD 2 0) 32 27 = world

/-- The log that ELSEL selects for a context. -/
def selectedLog (s : State) (c : Ctx) : Nat :=
  let v := Tbl.get 0 s.elsel (worldDieKey c)
  if bits v 15 10 = 15 then logKey c.die 15 c.world else logKey c.die (bits v 15 10) (bits v 9 0)

/-- A list without its element at a place. -/
def dropAt {α : Type} : Nat → List α → List α
  | _, [] => []
  | 0, _ :: t => t
  | n + 1, x :: t => x :: dropAt n t

/-- A read of ELREAD: the next word of the oldest record of the world; the record goes after its word 3. DEDUCED (log 94). -/
def readElread (s : State) : Word × State :=
  let c := s.cx
  let key := selectedLog s c
  let l := Tbl.get [] s.logs key
  let at_ := l.findIdx (recordOfWorld c.world)
  match l[at_]? with
  | none => (0, s)
  | some r =>
    let k := worldDieKey c
    let pos := Tbl.get 0 s.elpos k
    if pos = 3 then
      (r.getD 3 0, { s with elpos := Tbl.put 0 s.elpos k 0, logs := Tbl.put [] s.logs key (dropAt at_ l) })
    else (r.getD pos 0, { s with elpos := Tbl.put 0 s.elpos k (pos + 1) })

def execElreadRead (d : GReg) (s : State) : Out :=
  issue s (.getx d regELREAD) (fun s => let (v, s1) := readElread s; retire (s1.wG d v) 4)

/-- What the physical function reads of a log through its mailbox window: every record, the oldest first. Reading takes none away.
DESIGN CHOICE (log 129). -/
def pfLog (s : State) (die cls idx : Nat) : List (List Word) := Tbl.get [] s.logs (logKey die cls idx)

def elstatWord (d : Die) : Word := putAt d.elCe 32 ||| putAt d.elUe 0

/-! ## Rollback (R341) -/

/-- The superstep of a number that a member has open, or that waits for its closing barrier. -/
def memberSnap (s : State) (n core : Nat) : Option Snap :=
  let c := s.core core
  if c.snap.isOpen && c.snap.number = n then some c.snap else if c.older.any (fun o => o.number = n) then c.older else none

/-- The superstep that a gang goes back to: the oldest that a member has open. -/
def rollTarget (s : State) (cores : List Nat) : Nat :=
  let l := cores.flatMap (fun k => (openSnaps (s.core k)).map (·.number))
  l.foldr min (l.headD 0)

/-- What the rollback discards at a member: younger journal entries that have not left, sub-tiles that are suspended or wait for a place
of the pool. -/
def rollDiscard (s : State) (n core : Nat) : State :=
  match memberSnap s n core with
  | none => s
  | some sn =>
    dropNodes (s.modCore core (fun c =>
      { c with journal := c.journal.filter (fun e => phaseClosed e.phase sn.closed || e.st ≠ .resting && e.st ≠ .leaving) })) core
      (fun _ => true)

/-- The opening barrier has completed at a member, and nothing of it is under way. -/
def rollReady (s : State) (n core : Nat) : Bool :=
  match memberSnap s n core with
  | none => true
  | some sn =>
    let cl := s.cluster (core / 4)
    (sn.waited.isSome || (s.ctx (core * 16)).arrivals.any (fun a => a.closed = sn.closed && a.released.isSome)) &&
      (List.range 11).all (fun i => let c := s.ctx (core * 16 + i); c.loads = 0 && c.stores = 0) &&
      (s.core core).siding = [] && !cl.copies.any (fun x => x.core = core) && !cl.tasks.any (fun x => x.core = core) &&
      !s.reqs.any (fun r => r.ctx / 16 = core && r.ctx < 65536 && r.kind ≠ .fetch)

/-- One record of a log area written back. -/
def undoRecord (s : State) (core : Nat) (l : List Byte) : State :=
  let w := wordAt l 64
  if bit (wordAt l 72) 0 then
    s.modCore core (fun c => { c with planes := (List.range 16).foldl (fun t i =>
      Tbl.put 0 t (w.toNat * 16 + i) (BitVec.ofNat 32 (leValue ((l.drop (4 * i)).take 4)))) c.planes })
  else
    (unitWrite s (s.core core).world (core / 192) w (l.take 64)).2

/-- The records of a superstep of a member written back, the newest first. -/
def undoLog (s : State) (m : SnapMap) (rank core : Nat) (sn : Snap) : State :=
  let at_ := logArea m rank sn.number
  ((List.range sn.used).reverse).foldl (fun st i =>
    undoRecord st core (readRegion st (st.core core).world (core / 192) at_ (0x2000 + 128 * i) 128)) s

/-- A member's control context and masks come back from its log area; its arrival is accepted and its barrier complete. -/
def restoreControl (s : State) (m : SnapMap) (rank core : Nat) (sn : Snap) : State :=
  let world := (s.core core).world
  let at_ := logArea m rank sn.number
  let rd (off n : Nat) : List Byte := readRegion s world (core / 192) at_ off n
  let k := core * 16
  let c0 := s.ctx k
  let back : Arrival :=
    match c0.arrivals.find? (fun a => a.closed = sn.closed), sn.waited with
    | some a, none => a
    | _, w =>
      { scope := sn.scope, group := sn.group, closed := sn.closed, entries := [], refused := bit (w.getD 0) 16, signalled := true,
        released := some ((w.getD 0).truncate 16, 0) }
  let c1 := c0.clearWait.fromRecord (rd 0x800 0x800)
  let c2 := (List.range 7).foldl (fun (x : Ctx) i => x.setMask (i + 1) (BitVec.ofNat 4096 (leValue (rd (0x1000 + 512 * i) 512)))) c1
  let others := c0.arrivals.filter (fun a => !(a.scope = sn.scope && a.group = sn.group))
  let helpers := (List.range 10).flatMap (fun i => (s.ctx (k + 1 + i)).pending)
  let s1 := s.setCtx k { c2 with run := .live, pending := (c0.pending ++ helpers).take 8, arrivals := others ++ [back], lates := [],
                                 fetched := [], fetching := none, pulse := s.clk }
  (List.range 10).foldl (fun st i => st.setCtx (k + 1 + i) Ctx.empty) s1

/-- One member rolled back. -/
def rollMember (s : State) (m : SnapMap) (n rank core : Nat) : State :=
  match memberSnap s n core with
  | none => s
  | some sn =>
    let g := groupAt sn.scope core sn.group
    let sn1 : Snap := { sn with isOpen := true, unrec := false, rbcnt := (s.core core).snap.rbcnt + 1, rolled := sn.rolled + 1,
                                closing := none, used := 0, recorded := [], ovf := false }
    let s1 := restoreControl s m rank core sn
    let s2 := s1.modCore core (fun c => { c with snap := sn1, older := none })
    let s3 := s2.modCluster (core / 4) (fun c => { c with waiters := c.waiters.filter (fun w => w.ctx / 16 ≠ core) })
    let s4 := s3.modGroup g (fun x =>
      let left := x.arrived.filter (· ≠ core)
      { x with arrived := left, drained := x.drained.filter (· ≠ core), state := if left = [] then 0 else x.state })
    (unitWrite s4 (s4.core core).world (core / 192) (logArea m rank sn.number + 8) (leBytes 0 16)).2

/-- A ROLLBACK of the gang of a slice: what it discards goes at once; the rest follows once nothing is under way, unless a write
performed meanwhile has made a superstep unrecoverable (R342). DEDUCED (log 27). -/
def execRollback (slice : Nat) (s : State) : Out :=
  event s (fun s =>
    match s.slice slice with
    | none => s
    | some x =>
      match (s.job x.job).bind (·.snap) with
      | none => s
      | some m =>
        if x.st ≠ .rolling then s
        else
          let n := rollTarget s x.cores
          let s1 := x.cores.foldl (fun st k => rollDiscard st n k) s
          if x.cores.any (fun k => (openSnaps (s1.core k)).any (·.unrec)) then endSlice s1 x 7
          else if !x.cores.all (rollReady s1 n) then s1
          else
            let ranked := x.cores.zip (List.range x.cores.length)
            let s2 := ranked.foldl (fun st p =>
              let c := st.core p.1
              if c.snap.isOpen && c.snap.number ≠ n then undoLog st m p.2 p.1 c.snap else st) s1
            let s3 := ranked.foldl (fun st p => match memberSnap st n p.1 with
              | some sn => undoLog st m p.2 p.1 sn
              | none => st) s2
            let s4 := ranked.foldl (fun st p => rollMember st m n p.2 p.1) s3
            s4.modSlice slice (fun y => { y with st := .placed, reports := [] }))

/-- RBSTAT (R342). -/
def rbstatWord (c : Core) : Word :=
  putAt c.snap.rbcnt 32 ||| putAt (if c.snap.isOpen && c.snap.unrec then 1 else 0) 1 ||| putAt (if c.snap.isOpen then 1 else 0) 0

/-! ## Twin mode (R343, R344) -/

/-- The signature of a run: the number of its records, and their sum. -/
def runSig (r : TwinRun) : Nat × Word := ((r.counts.map (·.2)).foldl (· + ·) 0, r.sum)

/-- Two runs agree. -/
def runsAgree (a b : TwinRun) : Bool := runSig a = runSig b && !a.overflow && !b.overflow

/-- The bytes that a record writes: offset in its granule, and location where its owner takes the write. -/
def recordPlaces (s : State) (world die : Nat) (l : List Byte) : List (Nat × Option Nat) :=
  (List.range 64).filterMap (fun i =>
    if bit (wordAt l 72) i then some (i, vaLoc s world die permW (wordAt l 64 + BitVec.ofNat 64 i)) else none)

/-- One record performed, its granule at once; a refused record is logged at its owner. -/
def performRecord (s : State) (world die : Nat) (l : List Byte) : State :=
  let va := wordAt l 64
  let at_ := recordPlaces s world die l
  let locs := at_.filterMap (·.2)
  if locs.length < at_.length then
    match placeOf s die world va with
    | .away => if (Tbl.get none (s.world world).keys 1).isNone then s.logRec die 14 0 va 5 0x041 none else s
    | _ => let (d, cls, idx) := unitArray s world die va; s.logRec d cls idx va 5 0x041 none
  else if mergeSpoilt s locs then (readEcc s (locs.headD 0) 1 (some va) none).2
  else healedAt ((at_.zip locs).foldl (fun st p => st.setByte p.2 ((l[p.1.1]?).getD 0)) s) locs

/-- The records of a run in the order of their logs: the core's die, and the record. -/
def runRecords (s : State) (world : Nat) (m : SnapMap) (r : TwinRun) : List (Nat × List Byte) :=
  (r.cores.zip (List.range r.cores.length)).flatMap (fun p =>
    let area := r.g * r.cores.length + p.2
    let n := ((r.counts.find? (fun q => q.1 = area)).map (·.2)).getD 0
    (List.range n).map (fun i =>
      (p.1 / 192, readRegion s world (p.1 / 192) (m.logBase + BitVec.ofNat 64 (area * m.logSize)) (0x2000 + 128 * i) 128)))

/-- The records of a run performed, once the page of each is mapped (R254). -/
def performRun (s : State) (world : Nat) (m : SnapMap) (r : TwinRun) (after : State → State) : State :=
  let l := runRecords s world m r
  match l.findSome? (fun p => unitWaits s world p.1 permW (wordAt p.2 64) 64) with
  | some s1 => s1
  | none => after (l.foldl (fun st p => performRecord st world p.1 p.2) s)

/-- The cores of a slice are released, and it waits for others. -/
def runAgain (s : State) (x : Slice) (runs : List TwinRun) (attempt : Nat) (used : List Nat) : State :=
  (x.cores.foldl freeCore (clearNodes s (nodesOf x))).modSlice x.id (fun y =>
    { y with st := .waiting, cores := [], reports := [], runs := runs, attempt := attempt, usedCores := used, holds := [], exhausted := false })

/-- The physical cores that serve a list of cores are quarantined. -/
def quarantineCores (s : State) (cores : List Nat) : State :=
  cores.foldl (fun st k =>
    st.modCluster (k / 4) (fun c => { c with quarantine := c.quarantine ||| ((1#5) <<< physCore st (k / 192) (k / 4 % 48) (k % 4)) })) s

/-- Every run of an attempt has completed: R344. DEDUCED (log 84). -/
def execTwinResolve (slice : Nat) (s : State) : Out :=
  event s (fun s =>
    match s.slice slice with
    | none => s
    | some x =>
      match (s.job x.job).bind (fun j => j.snap.map (fun m => (j.world, m))) with
      | none => s
      | some (w, m) =>
        if x.st ≠ .placed || !x.runs.all (·.finished) then s
        else
          match x.runs with
          | [a, b] =>
            if runsAgree a b then performRun s w m a (fun st => completeSlice st x a.status a.again)
            else runAgain s x x.runs x.attempt (a.cores ++ b.cores)
          | [a, b, c] =>
            let all := a.cores ++ b.cores ++ c.cores
            if runsAgree c a then performRun s w m a (fun st => completeSlice st x a.status a.again)
            else if runsAgree c b then performRun s w m b (fun st => completeSlice st x b.status b.again)
            else if x.attempt = 0 then runAgain s x [] 1 all
            else endSlice (quarantineCores s all) x 8
          | _ => s)

/-! ## Spare cores (R345) -/

def spareWord (c : Cluster) : Word :=
  putAt c.quarantine.toNat 24 ||| putAt c.map3.toNat 9 ||| putAt c.map2.toNat 6 ||| putAt c.map1.toNat 3 ||| putAt c.map0.toNat 0

/-- A slice or a translator is placed on a cluster. -/
def clusterBusy (s : State) (ck : Nat) : Bool :=
  (List.range 4).any (fun i => (s.core (ck * 4 + i)).slice.isSome || (s.ctx ((ck * 4 + i) * 16 + 14)).run ≠ .free)

/-- A write of SPARE by world 0: ignored where a MAP is above 4 or two are equal; a change of MAP is ignored while a slice is
placed. A change copies unit memories. DEDUCED (log 92). -/
def writeSpare (s : State) (v : Word) : State :=
  let ck := s.cx.clusterKey
  let cl := s.cluster ck
  let old := [cl.map0.toNat, cl.map1.toNat, cl.map2.toNat, cl.map3.toNat]
  let new := (List.range 4).map (fun i => bits v (3 * i + 2) (3 * i))
  if s.cx.world ≠ 0 || new.any (4 < ·) || new.eraseDups.length < 4 then s
  else
    let s1 := s.modCluster ck (fun c => { c with quarantine := BitVec.ofNat 5 (bits v 28 24) })
    if old = new || clusterBusy s ck then s1
    else
      s1.modCluster ck (fun c =>
        { c with map0 := BitVec.ofNat 3 (bits v 2 0), map1 := BitVec.ofNat 3 (bits v 5 3), map2 := BitVec.ofNat 3 (bits v 8 6)
                 map3 := BitVec.ofNat 3 (bits v 11 9)
                 copying := c.copying ++ [(s.clk + 4096, (old.zip new).filter (fun p => p.1 ≠ p.2))] })

def execSpareWrite (a : GReg) (s : State) : Out := issue s (.putx a regSPARE) (fun s => retire (writeSpare s (s.rG a)) 4)

/-- The unit memories of a cluster after the copies of one change: every new one holds what the old one held, with its ECC state,
and old ones that serve no more are zero. -/
def copyMemories (s : State) (die cluster : Nat) (pairs : List (Nat × Nat)) : State :=
  let um (k : Nat) : Nat := 0x030000000000 + die * 0x100000000 + cluster * 0x800000 + k * 0x100000
  let place (st : State) (p : Nat × Nat) : State :=
    let inside (x : Nat) : Bool := um p.1 ≤ x && x < um p.1 + 0x100000
    let at_ (x : Nat) : Nat := x - um p.1 + um p.2
    let s1 := zeroRange st (um p.2) 0x100000
    let s2 := (s.mem.filter (fun c => inside c.1)).foldl (fun st c => st.setByte (at_ c.1) c.2) s1
    { s2 with ues := s2.ues ++ (s.ues.filter (fun u => inside u.1)).map (fun u => (at_ u.1, u.2)),
              flips := s2.flips ++ (s.flips.filter (fun u => inside u.1)).map (fun u => (at_ u.1, u.2)) }
  (pairs.filter (fun p => !(pairs.any (fun q => q.2 = p.1)))).foldl (fun st p => zeroRange st (um p.1) 0x100000) (pairs.foldl place s)

/-- The copy of the earliest change ends. -/
def execSpareUmCopyDone (die cluster : Nat) (s : State) : Out :=
  event s (fun s =>
    let ck := die * 48 + cluster
    match (s.cluster ck).copying with
    | (due, pairs) :: rest =>
      if s.clk < due then s
      else (copyMemories s die cluster pairs).modCluster ck (fun c => { c with copying := rest })
    | [] => s)

/-! ## Injection (R346, R347) -/

/-- The granule that EINJA names, where it lies in the world's partition on this die. DEDUCED (log 93). -/
def injectTarget (s : State) (c : Ctx) (va : Word) : Option Nat :=
  match placeOf s c.die c.world va with
  | .phys pa => if dieOfLoc pa = c.die then some pa else none
  | .paged d =>
    if d ≠ c.die then none
    else match walk s c.world d (bits va 47 0) with
      | .ok pa _ _ _ => if paExists pa then some pa else none
      | _ => none
  | _ => none

/-- EINJC with GO: one error, or a strike at the issuing core. -/
def writeEinjc (s : State) (v : Word) : State :=
  let c := s.cx
  let mode := bits v 10 9
  if !bit v 63 || mode = 3 then s
  else if mode = 2 then strikeAt s (coreUnit c.die c.cluster (physCore s c.die c.cluster c.core)) (some c)
  else
    let va := (s.wd c.world c.die).einja
    match injectTarget s c va with
    | some loc => inject s loc mode (bits v 8 0)
    | none => s.logOpen c.die 15 c.world va (some c)

def execEinjcInject (a : GReg) (s : State) : Out := issue s (.putx a regEINJC) (fun s => retire (writeEinjc s (s.rG a)) 4)

/-- One step of the generator. -/
def xorshift (x : Word) : Word :=
  let a := x ^^^ (x <<< 13)
  let b := a ^^^ (a >>> 7)
  b ^^^ (b <<< 17)

/-- clk of the seeded injector of a world on a die: each hit alters the next granule written. -/
def injectorSteps : Nat → WorldDie → WorldDie
  | 0, w => w
  | n + 1, w =>
    let x := xorshift w.xseed
    injectorSteps n { w with xseed := x,
                             armed := if bits x 31 0 < w.xrate.toNat then w.armed ++ [(bits x 32 32, bits x 41 33)] else w.armed }

/-- The injector of a world on a die has stepped in every clk up to now in which EN and TEST were 1. -/
def injectorTo (s : State) (world die : Nat) : State :=
  s.modWd world die (fun w =>
    if !w.xen || !(s.world world).test then w else { injectorSteps (s.clk - w.xat) w with xat := s.clk })

/-- Every injector that is on. -/
def injectors (s : State) : State := (s.wds.filter (fun p => p.2.xen)).foldl (fun st p => injectorTo st (p.1 / 4) (p.1 % 4)) s

def execSeededInjectStep (world die : Nat) (s : State) : Out := event s (fun s => injectorTo s world die)

/-- XCTL: EN is stored as 0 while the partition is no test partition. -/
def writeXctl (s : State) (v : Word) : State :=
  let c := s.cx
  (injectorTo s c.world c.die).modWd c.world c.die (fun w =>
    { w with xen := bit v 63 && (s.world c.world).test, xrate := v.truncate 32, xat := s.clk })

def execXctlWrite (a : GReg) (s : State) : Out := issue s (.putx a regXCTL) (fun s => retire (writeXctl s (s.rG a)) 4)

def xctlWord (s : State) (c : Ctx) : Word :=
  let w := s.wd c.world c.die
  putAt (if w.xen then 1 else 0) 63 ||| putAt (if (s.world c.world).test then 1 else 0) 62 ||| w.xrate.zeroExtend 64

end Sys2Proof.Machine
end

