-- ==== Sys2Proof/Machine/Trust.lean ====
section
/-!
DEFINITION. Worlds, evidence, keys and lifecycle (spec 17, 18): the SCTL's device registers, the PF's mailbox commands, teardown,
TDISP and SPDM messages, key records, the debug port.
-/
namespace Sys2Proof.Machine

/-! ## Evidence (R357 to R359) -/

/-- The configuration record of a world: 256 bytes. DESIGN CHOICE (log 57), PRESUMED (log 62). -/
def configRecord (s : State) (w : Nat) : List Byte :=
  let x := s.world w
  let state := if x.debugBound then 4 else match x.tdisp with | .unlocked => 0 | .locked => 1 | .run => 2 | .error => 3
  let dm (d : Nat) : List Byte := (List.range 4).flatMap (fun i =>
    let r := ((s.wd w d).dmRanges[i]?).getD (0, 0)
    leBytes (r.1 / 65536 * 65536 + r.2 / 65536) 8)
  let key := match x.vkey with
    | some (e, m) => (digestBytes (sha512 (leBytes e 4 ++ m))).take 48
    | none => List.replicate 48 0
  leBytes (Config.recordHead w state).toNat 8 ++ leBytes x.masked.toNat 8 ++ leBytes x.route.toNat 8 ++ leBytes x.wdwin.toNat 8 ++
    leBytes x.tvec.toNat 8 ++ leBytes (if x.test then 1 else 0) 8 ++
    (List.range 4).flatMap (fun d => leBytes (s.wd w d).clusters.toNat 8) ++ (List.range 4).flatMap dm ++ key

/-- Block 0x40 + w. -/
def configDigest (s : State) (w : Nat) : BitVec 512 := sha512 (configRecord s w)

/-- A slice or a translator of a world is placed. -/
def worldPlaced (s : State) (w : Nat) : Bool :=
  s.slices.any (fun x => x.placedOn && (s.job x.job).any (fun j => j.world = w)) || s.admits.any (fun a => a.world = w && a.ctx.isSome)

/-- Key slots loaded, a bit each (R360). -/
def slotsLoaded (s : State) (w : Nat) : Nat :=
  (List.range 4).foldl (fun m i => if (Tbl.get none (s.world w).keys i).isSome then m + 2 ^ i else m) 0

/-- The content of a measurement block, where it exists. -/
def measBlock (s : State) (idx : Nat) : Option (List Byte) :=
  if 1 ≤ idx ∧ idx ≤ 9 then some (digestBytes (Tbl.get 0 s.meas idx))
  else if idx = 10 then some (leBytes ((if portOpen s then 1 else 0) + 2 * lcsOf s) 8)
  else if 0x40 ≤ idx ∧ idx < 0x80 then some (digestBytes (configDigest s (idx - 0x40)))
  else if 0x80 ≤ idx ∧ idx < 0xC0 then
    let w := idx - 0x80
    some (leBytes ((if worldPlaced s w then 0 else 1) + (if (s.world w).test then 2 else 0) + slotsLoaded s w * 256) 8)
  else if 0x100 ≤ idx ∧ idx < 0x140 then some (configRecord s (idx - 0x100))
  else none

/-- A VF sees the blocks of the package and its own (R358). -/
def mayRequest (w idx : Nat) : Bool := w = 0 || (1 ≤ idx && idx ≤ 10) || idx = 0x40 + w || idx = 0x80 + w || idx = 0x100 + w

/-- DESIGN CHOICE (log 66). -/
def answer (s : State) (w : Nat) (code : AnswerCode) (data : List Byte) : State :=
  { s with answers := s.answers ++ [{ world := w, code := code, data := data }] }

/-- A part whose seed is blanked answers nothing (R363). -/
def seedBlank (s : State) : Bool := lcsOf s = 4

/-- Messages to the SCTL wait while a mailbox request that came before them is served (R353). -/
def sctlFree (s : State) : Bool := !mailGo s

/-- A signed MEASUREMENTS response, with the requester's nonce. DESIGN CHOICE (log 61). -/
def measurements (s : State) (world index : Nat) : State :=
  match (if mayRequest world index then measBlock s index else none) with
  | none => answer s world .invalidRequest []
  | some l =>
    let (nonce, s1) := s.freeVal
    answer s1 world .ok (l ++ Config.identitySign (l ++ leBytes nonce.toNat 8))

/-- GET_MEASUREMENTS in version 1.3; in another version it comes as any request does, with its version.
DESIGN CHOICE (log 61). -/
def execSpdmGetMeasurements (world index : Nat) (s : State) : Out :=
  event s (fun s =>
    if !sctlFree s then s
    else if seedBlank s then answer s world .unspecified []
    else measurements s world index)

/-- The capabilities and algorithms that the SCTL offers (R356), as SPDM 1.3 numbers them: CERT, CHAL, MEAS with signature, ENCRYPT,
MAC, MUT_AUTH and KEY_EX; SHA-512 for measurements, RSAPSS_4096, SHA-512, SECP_384_R1, AES_256_GCM, RSAPSS_4096. PRESUMED (log 120). -/
def spdmCapabilities : List Byte := leBytes 0x3D6 4
def spdmAlgorithms : List Byte := leBytes 0x8 4 ++ leBytes 0x40 4 ++ leBytes 0x4 4 ++ leBytes 0x10 2 ++ leBytes 0x2 2 ++ leBytes 0x40 2

/-- The certificate chain of slot 0 or 1. -/
def certificates (slot : Nat) : Option (List Byte) :=
  match slot with
  | 0 => some Config.certChain
  | 1 => some (Config.certChain ++ Config.kemCert)
  | _ => none

/-- A request that has no state: capabilities, algorithms, the digests of the certificate chains, the chain of a slot; of any other
request, its code. PRESUMED (log 120). -/
def spdmAnswer (code param : Nat) : AnswerCode × List Byte :=
  match code with
  | 0xE1 => (.ok, spdmCapabilities)
  | 0xE3 => (.ok, spdmAlgorithms)
  | 0x81 => (.ok, [0x03#8] ++ [0, 1].flatMap (fun n => digestBytes (sha512 ((certificates n).getD []))))
  | 0x82 => match certificates param with
    | some l => (.ok, l)
    | none => (.invalidRequest, [])
  | _ => (.ok, [BitVec.ofNat 8 code])

/-- An answer that the SCTL signs with its identity key: the digest of the certificate chain of a slot, what else the answer says, and
a nonce of its own. PRESUMED (log 120). -/
def signedAnswer (s : State) (w slot : Nat) (more : List Byte) : State :=
  match certificates slot with
  | none => answer s w .invalidRequest []
  | some l =>
    let (nonce, s1) := s.freeVal
    let body := digestBytes (sha512 l) ++ more ++ leBytes nonce.toNat 8
    answer s1 w .ok (body ++ Config.identitySign body)

/-- KEY_EXCHANGE: the SCTL's share of the exchange is signed, and the session waits for FINISH. PRESUMED (log 120). -/
def keyExchange (s : State) (w slot : Nat) : State :=
  let (share, s1) := s.freeVal
  signedAnswer (if (certificates slot).isNone then s1 else s1.modWorld w (fun x => { x with session := 1 })) w slot (leBytes share.toNat 8)

/-- The state of a world's session after FINISH or END_SESSION, where it allows the message (R356). -/
def sessionStep (s : State) (w at_ next code : Nat) : State :=
  if (s.world w).session ≠ at_ then answer s w .invalidRequest []
  else answer (s.modWorld w (fun x => { x with session := next })) w .ok [BitVec.ofNat 8 code]

/-- A request in version 1.3: MEASUREMENTS, CHALLENGE, the messages of a session, or one that has no state. -/
def spdmServe (s : State) (w code param : Nat) : State :=
  match code with
  | 0xE0 => measurements s w param
  | 0x83 => signedAnswer s w param []
  | 0xE4 => keyExchange s w param
  | 0xE5 => sessionStep s w 1 2 code
  | 0xEC => sessionStep s w 2 0 code
  | _ => answer s w (spdmAnswer code param).1 (spdmAnswer code param).2

/-- Any SPDM request: version 1.3 only. The code comes with the first parameter of the message above it. -/
def execSpdmRequest (world version code : Nat) (s : State) : Out :=
  event s (fun s =>
    if !sctlFree s then s
    else if seedBlank s then answer s world .unspecified []
    else if version ≠ 0x13 then answer s world .versionMismatch []
    else spdmServe s world (code % 256) (code / 256))

/-! ## Teardown (R355, R369) -/

/-- What a world has on a die returns to reset, but for its partition. -/
def resetWorldDie (w : WorldDie) : WorldDie :=
  { WorldDie.empty with clusters := w.clusters, dmRanges := w.dmRanges, rtbase := w.rtbase, rtlen := w.rtlen, einja := w.einja,
                        xseed := w.xseed, xen := w.xen, xrate := w.xrate, armed := w.armed, s1root := w.s1root, stray := w.stray }

/-- The slices, jobs and admissions of a world stop without a save and without completions; its requests are refused at their
owners. -/
def stopWorld (s : State) (w : Nat) : State :=
  let jobs := (s.jobs.filter (fun j => j.world = w)).map (·.id)
  let mine := s.slices.filter (fun x => jobs.contains x.job)
  let open_ := s.reqs.filter (fun r => r.world = w && (match r.st with | .replied .. => false | _ => true))
  let s1 := open_.foldl (fun st r => match fateAt st r with | .refuse d cls idx => refuseReq st r d cls idx | _ => st) s
  let s2 := mine.foldl (fun st x => x.cores.foldl freeCore (clearNodes st (nodesOf x))) s1
  let s3 := (s.admits.filter (fun a => a.world = w)).foldl (fun st a => match a.ctx with | some k => freeCore st (k / 16) | none => st) s2
  { s3 with jobs := s3.jobs.filter (fun j => j.world ≠ w), slices := s3.slices.filter (fun x => !jobs.contains x.job),
            admits := s3.admits.filter (fun a => a.world ≠ w), images := s3.images.filter (fun m => m.world ≠ w),
            msgs := s3.msgs.filter (fun m => m.world ≠ w) }

/-- A TEARDOWN starts: the world is unbound, its rings stop, its slices stop at once (steps 1 to 3). DEDUCED (log 56). -/
def startTear (s : State) (w reason : Nat) : State :=
  if s.dev.tearing.any (fun p => p.1 = w) then s
  else
    let s1 := s.modWorld w (fun x => { x with tdisp := if reason = 1 then .error else .unlocked, debugBound := false, session := 0, ide := false })
    let s2 := stopWorld s1 w
    let s3 := (List.range 4).foldl (fun st d => (st.modWd w d resetWorldDie).modDie d (fun x =>
      { x with tlb := x.tlb.filter (fun t => t.world ≠ w), away := x.away.filter (fun a => a.world ≠ w) })) s2
    { s3 with dev := { s3.dev with tearing := s3.dev.tearing ++ [(w, reason)] } }

/-- A page filled with zero and freed. -/
def freePage (s : State) (p : Nat) : State :=
  { zeroRange s (p * 65536) 65536 with owner := Tbl.put 0 s.owner p 0 }

/-- A request of the mailbox with a command waits to be served by firmware that no handler holds up, and that no program of the SCTL has
taken (R373). -/
def mailWaits (s : State) (n : Nat) : Bool :=
  mailGo s && !s.dev.served && !s.dev.taken && bits (mailWord s 0) 7 0 = n && (s.ctx (ctlKey 0)).run = .live && !bit (s.ctx (ctlKey 0)).ciret 0

def setMailWord (s : State) (i : Nat) (v : Word) : State := s.writeMem (ctlSpace 0 (0x100000 + 8 * i)) 8 v.toNat

/-- The request has been served with a status; GO is cleared next. -/
def mailDone (s : State) (status : Nat) : State :=
  let s1 := setMailWord s 1 (BitVec.ofNat 64 status)
  { s1 with dev := { s1.dev with served := true } }

/-- No world has the number that stands for a WTEAR of every bound world while none is bound (R371). -/
def noWorld : Nat := 64

/-- A TEARDOWN ends: memories are zero, pages are free, keys are gone, the record is raised (steps 4 to 8), and a TEARDOWN command of
the world that waits is answered. -/
def endTear (s : State) (w reason : Nat) : State :=
  if w = noWorld then { s with dev := { s.dev with tearing := s.dev.tearing.filter (fun p => p.1 ≠ w) } }
  else
  let s1 := (List.range 4).foldl (fun st d =>
    let x := st.wd w d
    let st1 := ((List.range 48).filter (fun c => x.clusters.getLsbD c)).foldl (fun st c => zeroCluster st (d * 48 + c)) st
    x.dmRanges.foldl (fun st r => zeroRange st (dmKey d r.1) r.2) st1) s
  let s2 := ((s1.owner.filter (fun p => p.2 = w + 1)).map (·.1)).foldl freePage s1
  let s3 := { s2 with clusters := s2.clusters.map (fun (p : Nat × Cluster) => if p.2.keyWorld = some w then (p.1, { p.2 with keyWorld := none, leases := [] }) else p) }
  let s4 := s3.modWorld w (fun x => { x with keys := [], vkey := none, lastKey := none })
  let s5 := { s4 with hostIrqs := s4.hostIrqs ++ [(w, 0x141#9, BitVec.ofNat 64 reason)],
                      dev := { s4.dev with tearing := s4.dev.tearing.filter (fun p => p.1 ≠ w) } }
  if mailWaits s5 4 && mailWord s5 2 = BitVec.ofNat 64 w then mailDone s5 0 else s5

def execTeardownDone (world : Nat) (s : State) : Out :=
  event s (fun s =>
    match s.dev.tearing.find? (fun p => p.1 = world) with
    | some p => endTear s world p.2
    | none => s)

/-- Worlds that are bound. -/
def boundWorlds (s : State) : List Nat := (List.range 64).filter (fun w => (s.world w).bound)

/-! ## Zeroisation (R360, R365) -/

def startZero (s : State) : State := { s with dev := { s.dev with zbusy := true, zclean := false } }

def endZero (s : State) : State :=
  { s with worlds := s.worlds.map (fun (p : Nat × World) => (p.1, { p.2 with keys := [] })),
           clusters := s.clusters.map (fun (p : Nat × Cluster) => (p.1, { p.2 with keyWorld := none, leases := [] })),
           dev := { s.dev with zbusy := false, zclean := true, extended9 := false } }

def execZeroiseDone (s : State) : Out := event s (fun s => if s.dev.zbusy then endZero s else s)

/-! ## Fuses (R364) -/

/-- FPROG: the pair that an advance of a target programs, where one is left. -/
def advancePair (s : State) (target : Nat) : Option Nat :=
  if target ≤ 4 then (let v := thermometer s (64 * target) 64; if v < 64 then some (64 * target + v) else none)
  else if target = 8 then (let v := thermometer s 512 3; if v < 3 then some (512 + v) else none)
  else none

/-- A write of FPROG (R364); GO while programming runs is ignored: DESIGN CHOICE (log 150). -/
def startFuse (s : State) (v : Word) : State :=
  if !bit v 63 || s.dev.fbusy.isSome then s
  else
    match advancePair s (bits v 3 0) with
    | some k => { s with dev := { s.dev with fbusy := some k, ffail := false } }
    | none => s

/-- Programming ends; which bits of a pair that does not verify it has added the spec does not state. DEDUCED (log 90). -/
def execFuseProgramDone (ok : Bool) (s : State) : Out :=
  event s (fun s =>
    match s.dev.fbusy with
    | none => s
    | some k =>
      if ok then { s with fuses := Tbl.put 0 s.fuses k 3, dev := { s.dev with fbusy := none } }
      else
        let (v, s1) := s.freeVal
        { s1 with fuses := Tbl.put 0 s1.fuses k (Tbl.get 0 s1.fuses k ||| v.truncate 2), dev := { s1.dev with fbusy := none, ffail := true } })

/-! ## RSA verification (R365) -/

/-- A byte of the SCTL's address space as the RSA unit reads it. -/
def sctlByte (s : State) (a : Nat) : Byte := BitVec.ofNat 8 (ctlLoad s 0 a 1).1
def sctlBytes (s : State) (a n : Nat) : List Byte := (List.range n).map (fun i => sctlByte s (a + i))

/-- A write of RSACMD (R365); GO while a verification runs is ignored: DESIGN CHOICE (log 150). -/
def startRsa (s : State) (v : Word) : State :=
  if !bit v 8 || 2 ≤ bits v 1 0 || s.dev.rsaRun.isSome then s
  else { s with dev := { s.dev with rsaRun := some (bits v 1 0), rsaDone := false } }

def execRsaVerifyDone (s : State) : Out :=
  event s (fun s =>
    match s.dev.rsaRun with
    | none => s
    | some key =>
      let d := s.dev
      let pass := vendorVerify key (sctlBytes s d.rsaMsgA.toNat d.rsaMsgL.toNat) (sctlBytes s d.rsaSigA.toNat 512)
      { s with dev := { d with rsaRun := none, rsaDone := true, rsaPass := pass } })

/-! ## The debug port (R366) -/

/-- In DEBUG world 0 uses no IDE stream (R350). -/
def dropStream (s : State) : State := s.modWorld 0 (fun x => { x with ide := false })

/-- OPEN := 1 takes effect only when every interlock holds. -/
def openPort (s : State) : State :=
  let d := s.dev
  if boundWord s = 0 && d.tearing.isEmpty && !d.zbusy && d.zclean && d.extended9 && (lcsOf s = 1 || lcsOf s = 2) then
    dropStream { s with dev := { d with debugOpen := true } }
  else s

/-- The debug port selects a world-0 context for a stop (R369): 0x1C2, to the host; a translation ends by it (R300).
DESIGN CHOICE (log 63). -/
def execDebugStop (ctx : Nat) (s : State) : Out :=
  event s (fun s =>
    let c := s.ctx ctx
    if lcsOf s ≠ 3 || c.world ≠ 0 || c.run ≠ .live || c.kind = .controller then s
    else if c.kind = .translator then translatorFail s ctx 0x1C2#9 c.pc
    else
      let (v, s1) := s.freeVal
      let (w, s2) := s1.freeVal
      hostStop s2 ctx false 0x1C2#9 v w c.pc)

/-! ## The device registers (R365, R371) -/

/-- WTEAR. -/
def writeWtear (s : State) (v : Word) : State :=
  if !bit v 63 then s
  else
    let reason := if bits v 9 8 = 0 then 2 else bits v 9 8
    let ws := if bit v 6 then boundWorlds s else [bits v 5 0]
    if ws = [] then { s with dev := { s.dev with tearing := s.dev.tearing.filter (fun p => p.1 ≠ noWorld) ++ [(noWorld, reason)] } }
    else ws.foldl (fun st w => startTear st w reason) s

/-- MCMD. DEDUCED (log 60). -/
def writeMcmd (s : State) (v : Word) : State :=
  let idx := bits v 7 0
  if idx = 0 || 9 < idx then s
  else
    let s1 := if bit v 63 then extendMeas s idx s.dev.mval else s
    { s1 with dev := { s1.dev with mread := idx } }

/-- A word stored to a device register of the SCTL. -/
def deviceWrite (s : State) (a : Nat) (v : Word) : State :=
  let d := s.dev
  if a = 0x10000040 then startFuse s v
  else if a = 0x10010000 then { s with dev := { d with rsaMsgA := v } }
  else if a = 0x10010008 then { s with dev := { d with rsaMsgL := v.truncate 17 } }
  else if a = 0x10010010 then { s with dev := { d with rsaSigA := v } }
  else if a = 0x10010018 then startRsa s v
  else if a = 0x10030000 then writeWtear s v
  else if a = 0x10030010 then (if bit v 63 then startZero s else s)
  else if a = 0x10040000 then writeMcmd s v
  else if 0x10040040 ≤ a ∧ a < 0x10040080 then
    let sh := 8 * (a - 0x10040040)
    { s with dev := { d with mval := (d.mval &&& ~~~((0xFFFFFFFFFFFFFFFF#512) <<< sh)) ||| ((v.zeroExtend 512) <<< sh) } }
  else if a = 0x10050000 then (if bit v 0 then openPort s else s)
  else s

/-- An `st64`: at a device register of the SCTL its whole word acts. -/
def storeDouble (v b : GReg) (imm : BitVec 14) (s : State) : Out := storeBy deviceWrite s (.st64 v b imm) v b imm 8

def execSt64 (v b : GReg) (imm : BitVec 14) (s : State) : Out := storeDouble v b imm s
def execFprogGo (v b : GReg) (imm : BitVec 14) (s : State) : Out := storeDouble v b imm s
def execRsacmdGo (v b : GReg) (imm : BitVec 14) (s : State) : Out := storeDouble v b imm s
def execWtearGo (v b : GReg) (imm : BitVec 14) (s : State) : Out := storeDouble v b imm s
def execKzeroGo (v b : GReg) (imm : BitVec 14) (s : State) : Out := storeDouble v b imm s
def execMcmdGo (v b : GReg) (imm : BitVec 14) (s : State) : Out := storeDouble v b imm s
def execDbgctlOpen (v b : GReg) (imm : BitVec 14) (s : State) : Out := storeDouble v b imm s

/-! ## The PF's mailbox (R353) -/

/-- A command of the mailbox, served when it waits. -/
def mailCommand (n : Nat) (s : State) (act : State → State) : Out := event s (fun s => if mailWaits s n then act s else s)

/-- Commands 1 to 4 in a lifecycle state that allows them for a world: in DEBUG for world 0, but PAGEFREE not at all. -/
def commandAllowed (s : State) (n w : Nat) : Bool :=
  lcsOf s = 1 || lcsOf s = 2 || (lcsOf s = 3 && w = 0 && n ≠ 3)

/-- The four DM ranges of PARTITION, base and length in bytes. DEDUCED (log 58). -/
def mailRanges (s : State) : List (Nat × Nat) :=
  ([(5, 0), (5, 32), (6, 0), (6, 32)].map (fun (p : Nat × Nat) =>
    let v := bits (mailWord s p.1) (p.2 + 31) p.2
    ((v / 65536 * 65536, v % 65536 * 65536) : Nat × Nat))).filter (fun (r : Nat × Nat) => r.2 ≠ 0)

/-- A slice or translator of a world is placed on a die. -/
def placedOnDie (s : State) (w die : Nat) : Bool :=
  s.slices.any (fun x => x.placedOn && x.cores.any (fun k => k / 192 = die) && (s.job x.job).any (fun j => j.world = w)) ||
    s.admits.any (fun a => a.world = w && a.ctx.any (fun k => k / 16 / 192 = die))

/-- Clusters that leave a world's partition lose its key, and their leases go back (R237, R266). -/
def leaveWorld (s : State) (w die : Nat) (mask : BitVec 48) : State :=
  ((List.range 48).filter (fun c => !mask.getLsbD c && (s.cluster (die * 48 + c)).keyWorld = some w)).foldl (fun st c =>
    st.modCluster (die * 48 + c) (fun x => { x with keyWorld := none, leases := [] })) s

/-- Would a partition of a world on a die be refused: outside the die, gated, or over another world's? DEDUCED (log 54). -/
def partitionBad (s : State) (w die : Nat) (mask : Word) (rs : List (Nat × Nat)) : Bool :=
  64 ≤ w || 4 ≤ die || bits mask 63 48 ≠ 0 || rs.any (fun r => 0x4000000 < r.1 + r.2) ||
    (List.range 48).any (fun c => bit mask c && (s.cluster (die * 48 + c)).gated ≠ 0) ||
    (List.range 64).any (fun o => o ≠ w &&
      ((s.wd o die).clusters &&& mask.truncate 48 ≠ 0 || (s.wd o die).dmRanges.any (fun a => rs.any (fun b => rangesMeet a b))))

def execPartition (s : State) : Out :=
  mailCommand 1 s (fun s =>
    let w := (mailWord s 2).toNat
    let die := (mailWord s 3).toNat
    let mask := mailWord s 4
    let rs := mailRanges s
    if !commandAllowed s 1 w then mailDone s 3
    else if partitionBad s w die mask rs then mailDone s 2
    else if s.dev.tearing.any (fun p => p.1 = w) then s
    else if placedOnDie s w die then mailDone s 1
    else
      let s1 := (leaveWorld s w die (mask.truncate 48)).modWd w die (fun x => { x with clusters := mask.truncate 48, dmRanges := rs })
      mailDone (if lcsOf s = 3 then s1.modWorld w (fun x => { x with debugBound := true, keys := [], ide := false }) else s1) 0)

def execSettings (s : State) : Out :=
  mailCommand 2 s (fun s =>
    let w := (mailWord s 2).toNat
    let opt := mailWord s 6
    if !commandAllowed s 2 w then mailDone s 3
    else if 64 ≤ w then mailDone s 2
    else
      let s1 := s.modWorld w (fun x =>
        { x with route := (mailWord s 3).truncate 32, wdwin := (mailWord s 4).truncate 32, tvec := (mailWord s 5).truncate 48 &&& ~~~3#48
                 masked := BitVec.ofNat 32 (bits opt 23 1 * 2), test := bit opt 0 })
      mailDone (if bit opt 0 then s1 else (List.range 4).foldl (fun st d => st.modWd w d (fun x => { x with xen := false })) s1) 0)

/-- A stage-2 entry of some world names a page. -/
def pageNamed (s : State) (p : Nat) : Bool :=
  s.wds.any (fun x => (x.2.stage2 ++ x.2.stage2g).any (fun e =>
    pteV e.2 && (let n := leafBytes (pteSize e.2) / 65536; pteAddr e.2 / 65536 / n = p / n)))

def execPagefree (s : State) : Out :=
  mailCommand 3 s (fun s =>
    let p := bits (mailWord s 2) 47 16
    if !commandAllowed s 3 64 then mailDone s 3
    else if 0x800000 ≤ p || pageNamed s p then mailDone s 2
    else mailDone (freePage s p) 0)

/-- The command is answered once the teardown has ended. -/
def execTeardown (s : State) : Out :=
  mailCommand 4 s (fun s =>
    let w := (mailWord s 2).toNat
    if !commandAllowed s 4 w then mailDone s 3
    else if 64 ≤ w then mailDone s 2
    else startTear s w 2)

/-- DBGCHAL: a fresh nonce is stored and returned. -/
def execDbgchal (s : State) : Out :=
  mailCommand 5 s (fun s =>
    let (n, s1) := s.freeVal
    let s2 := (s1.writeMem (ctlSpace 0 0x1000) 8 n.toNat).writeMem (ctlSpace 0 0x1008) 8 1
    mailDone (setMailWord s2 2 n) 0)

/-- The token's fields against the device, the lifecycle and the nonce that was stored (R367, R368 step 2). -/
def tokenOk (s : State) (t : List Byte) (nonce : Word) (valid : Bool) : Bool :=
  wordAt t 0 = 0x4E454B4F54474244 && (List.range 32).all (fun i => t[32 + i]? = some 0) && wordAt t 8 = Config.devId &&
    (wordAt t 16).toNat = lcsOf s && (lcsOf s = 1 || lcsOf s = 2) && valid && wordAt t 24 = nonce

/-- DBGUNLOCK (R368). -/
def execDbgunlock (s : State) : Out :=
  mailCommand 6 s (fun s =>
    let nonce : Word := BitVec.ofNat 64 (s.readMem (ctlSpace 0 0x1000) 8)
    let valid := s.readMem (ctlSpace 0 0x1008) 8 ≠ 0
    let s1 := s.writeMem (ctlSpace 0 0x1008) 8 0
    let t := s1.bytes (ctlSpace 0 0x101000) 64
    if !vendorVerify 0 t (s1.bytes (ctlSpace 0 0x101040) 512) || !tokenOk s1 t nonce valid then mailDone s1 2
    else
      let s2 := (boundWorlds s1).foldl (fun st w => startTear st w 3) s1
      let s3 := s2.dev.tearing.foldl (fun st p => endTear st p.1 p.2) s2
      let s4 := endZero s3
      let s5 := extendMeas { s4 with dev := { s4.dev with mval := BitVec.ofNat 512 (leValue t), mread := 9 } } 9 (BitVec.ofNat 512 (leValue t))
      mailDone (openPort s5) 0)

/-- A slot of a kind that no controller of the kind uses. -/
def slotIdle (s : State) (kind slot : Nat) : Bool := !(controllersOf kind).any (fun n => (ctlImage s n).slot = slot)

/-- Bytes that the host writes into a slot of a kind, from an offset on. -/
def writeSlot (s : State) (kind slot off : Nat) (data : List Byte) : State :=
  { s with flash := (data.zip (List.range data.length)).foldl (fun t p =>
    Tbl.put none t (slot * 2 ^ 32 + kind * 2 ^ 24 + off + p.2) (some p.1)) s.flash }

/-- The switch of a kind to a slot is pending, and source 0 is raised at its controllers. -/
def switchKind (s : State) (kind slot : Nat) : State :=
  (controllersOf kind).foldl (fun st n =>
    let st1 := modImage st n (fun x => { x with pending := some slot })
    if n = 0 then st1 else st1.setByte (ctlSpace n 0x100007) (st1.byte (ctlSpace n 0x100007) ||| 0x80#8)) s

/-- The bytes of an image that a request brings: as many as its word 5 says from mailbox offset 0x1000, for the place in the slot
that its word 4 names. The slot must be idle, and hold them. -/
def imagePart (s : State) (kind slot off n : Nat) : State :=
  if !slotIdle s kind slot || 0xF000 < n || 262656 < off + n then mailDone s 2
  else mailDone (writeSlot s kind slot off (s.bytes (ctlSpace 0 0x101000) n)) 0

/-- IMAGE: bytes of an image go into the inactive slot; a request without bytes switches to the slot once the image there passes
its checks. DESIGN CHOICE (log 121). -/
def execImage (s : State) : Out :=
  mailCommand 7 s (fun s =>
    let slot := (mailWord s 2).toNat
    let kind := (mailWord s 3).toNat
    if 1 < slot || 4 < kind then mailDone s 2
    else if mailWord s 5 ≠ 0 then imagePart s kind slot (mailWord s 4).toNat (mailWord s 5).toNat
    else if imageOk s kind slot then mailDone (switchKind s kind slot) 0
    else mailDone s 2)

/-- The SCTL ends a request: an unknown command gets its status; GO clears (R353, R372). -/
def execMailboxGoClear (s : State) : Out :=
  event s (fun s =>
    let cmd := bits (mailWord s 0) 7 0
    let unknown := !s.dev.served && !s.dev.taken && (cmd = 0 || 7 < cmd)
    if !mailGo s || !(s.dev.served || unknown) then s
    else
      let s1 := if unknown then setMailWord s 1 4 else s
      mailboxEnded (setMailWord s1 0 (mailWord s1 0 &&& 0x7FFFFFFFFFFFFFFF#64)))

/-! ## TDISP and IDE (R350, R351) -/

/-- LOCK_INTERFACE_REQUEST binds the world: its stage-2 table starts with every entry invalid on every die (R252). -/
def execLockInterfaceRequest (world : Nat) (s : State) : Out :=
  event s (fun s =>
    if !sctlFree s then s
    else if portOpen s then answer s world .invalidDeviceConfiguration []
    else if 64 ≤ world || (s.world world).tdisp ≠ .unlocked || s.dev.tearing.any (fun p => p.1 = world) then answer s world .invalidState []
    else
      let s1 := s.modWorld world (fun x => { x with tdisp := .locked })
      answer ((List.range 4).foldl (fun st d => st.modWd world d (fun x => { x with stage2 := [], stage2g := [] })) s1) world .ok [])

def execTdispRun (world : Nat) (s : State) : Out :=
  event s (fun s =>
    if !sctlFree s then s
    else if (s.world world).tdisp ≠ .locked then answer s world .invalidState []
    else answer (s.modWorld world (fun x => { x with tdisp := .run })) world .ok [])

/-- A transition to ERROR tears the world down. -/
def execTdispError (world : Nat) (s : State) : Out := event s (fun s => if 64 ≤ world then s else startTear s world 1)

/-- The keys of a world's IDE stream are programmed, over its SPDM session (R351); in DEBUG world 0 uses none. -/
def execIdeKm (world : Nat) (s : State) : Out :=
  event s (fun s =>
    if !sctlFree s then s
    else if seedBlank s then answer s world .unspecified []
    else if 64 ≤ world || lcsOf s = 3 || (s.world world).session ≠ 2 then answer s world .invalidRequest []
    else answer (s.modWorld world (fun x => { x with ide := true })) world .ok [])

/-! ## Keys (R360 to R362) -/

def zeros (l : List Byte) (off n : Nat) : Bool := (List.range n).all (fun i => l[off + i]? = some 0)

/-- The key that a key-wrap record is wrapped under: from the shared secret, the device, the world and the slot. DESIGN CHOICE
(log 119). -/
def wrapKey (w slot : Nat) (l : List Byte) : List Byte :=
  let info := "kostad key wrap".toList.map (fun c => BitVec.ofNat 8 c.toNat) ++ leBytes Config.devId.toNat 8 ++ leBytes w 1 ++ leBytes slot 1
  hkdf (List.replicate 64 0) (Config.decaps ((l.drop 72).take 1568)) info 32

/-- The key in a record, where its tag verifies. -/
def unwrapped (w slot : Nat) (l : List Byte) : Option (List Byte) :=
  gcmDecrypt (wrapKey w slot l) ((l.drop 1640).take 12) (l.take 72 ++ leBytes w 1) ((l.drop 1652).take 64) ((l.drop 1716).take 16)

/-- The status of a key-wrap record, and the key it releases with its slot. DEDUCED (log 59). -/
def wrapStatus (s : State) (w : Nat) (l : List Byte) : Nat × Option (Nat × List Byte) :=
  let slot := fieldAt l 4 1
  if lcsOf s ≠ 2 || portOpen s || (s.world w).tdisp ≠ .run then (4, none)
  else if l.length ≠ 1732 || fieldAt l 0 4 ≠ 0x50415257 || 3 < slot || !zeros l 5 3 then (2, none)
  else if BitVec.ofNat 512 (fieldAt l 8 64) ≠ configDigest s w then (1, none)
  else
    match unwrapped w slot l with
    | none => (2, none)
    | some k =>
      if slot ≠ 0 && (k.drop 32).any (· ≠ 0) then (2, none)
      else if slot = 0 && worldPlaced s w then (3, none)
      else (0, some (slot, if slot = 0 then k else k.take 32))

/-- n bytes from a location become free values. -/
def freeBytes (s : State) (loc : Nat) : Nat → State
  | 0 => s
  | n + 1 => let (v, s1) := s.freeVal; freeBytes (s1.setByte loc (v.truncate 8)) (loc + 1) n

/-- Sealed memory of a world under a new key of slot 0: what was written under an earlier key reads as unrelated bytes (R361). -/
def reseal (s : State) (w : Nat) : State :=
  let pages := (s.owner.filter (fun p => p.2 = w + 1)).map (fun p => (p.1 * 65536, 65536))
  let dm := (List.range 4).flatMap (fun d => (s.wd w d).dmRanges.map (fun r => (dmKey d r.1, r.2)))
  (pages ++ dm).foldl (fun st r => freeBytes st r.1 r.2) s

/-- A key released into a slot: with another key in slot 0 sealed memory reads otherwise, and leases of the world's clusters go
(R266). -/
def loadKey (s : State) (w slot : Nat) (key : List Byte) : State :=
  let s1 := { s.modWorld w (fun x => { x with keys := Tbl.put none x.keys slot (some key) }) with dev := { s.dev with zclean := false } }
  if slot ≠ 0 then s1
  else
    let changed := (s.world w).lastKey ≠ some key
    let s2 := s1.modWorld w (fun x => { x with lastKey := some key })
    let s3 := { s2 with clusters := s2.clusters.map (fun (p : Nat × Cluster) =>
      if changed && p.2.keyWorld = some w then (p.1, { p.2 with leases := [] }) else p) }
    if changed && (s.world w).lastKey.isSome then reseal s3 w else s3

def execKeyWrap (world : Nat) (record : List (BitVec 8)) (s : State) : Out :=
  event s (fun s =>
    if !sctlFree s then s
    else if seedBlank s then answer s world .unspecified []
    else
      let (st, k) := wrapStatus s world record
      answer (match k with | some (slot, key) => loadKey s world slot key | none => s) world (.status st) [])

/-- The status of a key-registration record. -/
def registerStatus (s : State) (w : Nat) (l : List Byte) : Nat :=
  let op := fieldAt l 4 1
  let e := fieldAt l 8 4
  let modulus := (l.drop 16).take 512
  let good := if op = 1 then e % 2 = 1 && 65537 ≤ e && 128 ≤ fieldAt l 16 1 else op = 2 && e = 0 && modulus.all (· = 0)
  if (lcsOf s ≠ 1 && lcsOf s ≠ 2) || portOpen s then 4
  else if l.length ≠ 528 || fieldAt l 0 4 ≠ 0x4745524B || !zeros l 5 3 || !zeros l 12 4 || !good then 2
  else if s.admits.any (fun a => a.world = w && a.ended.isNone) then 3
  else 0

def execKeyRegistration (world : Nat) (record : List (BitVec 8)) (s : State) : Out :=
  event s (fun s =>
    if !sctlFree s then s
    else if seedBlank s then answer s world .unspecified []
    else
    let st := registerStatus s world record
    let s1 :=
      if st ≠ 0 then s
      else if fieldAt record 4 1 = 1 then
        s.modWorld world (fun x => { x with vkey := some (fieldAt record 8 4, (record.drop 16).take 512) })
      else s.modWorld world (fun x => { x with vkey := none })
    answer s1 world (.status st) [])

end Sys2Proof.Machine
end

