-- ==== Sys2Proof/Machine/System.lean ====
section
/-!
DEFINITION. System functions (R98), system registers (R5, R42, R99), helpers (R79 to R84), traps, returns, queries and
notices (R102, R176 to R179), words that are not instructions (R46), and pending causes at a boundary (R170).
-/
namespace Sys2Proof.Machine

/-! ## System functions (R98) -/

def execSysCtrd (d a : GReg) (s : State) : Out := setG s (.sysCtrd d a) d (chipWord (s.rG a))

/-- A translator receives 0; every other context 64 bits that nothing fixes. -/
def execSysEntropy (d a : GReg) (s : State) : Out :=
  issue s (.sysEntropy d a) (fun s =>
    if s.cx.kind = .translator then retire (s.wG d 0) 4
    else
      let (v, s1) := s.freeVal
      retire (s1.wG d v) 4)

def execSysWfi (d a : GReg) (s : State) : Out :=
  issue s (.sysWfi d a) (fun s =>
    if cipendOf s s.cx &&& s.cx.cien ≠ 0 then retire (s.modCx (fun c => { c with waiting := false })) 4
    else s.modCx (fun c => { c with waiting := true }))

def execSysCret (s : State) : Out := issue s .sysCret interruptReturn

/-! ## Reading a system register -/

/-- The control context of a compute context: helpers read their slice registers there (R286). -/
def State.controlOf (s : State) (c : Ctx) : Ctx := if c.kind = .helper then s.ctx (c.coreKey * 16) else c

/-- PDEAD (R180): what is left of the time to the forced save. DEDUCED (log 14). -/
def pdeadWord (s : State) (c : Ctx) : Word :=
  if c.kind ≠ .control then 0
  else
    match c.pdeadAt with
    | some t => BitVec.ofNat 64 (t - s.clk)
    | none => (s.core c.coreKey).pdead.zeroExtend 64

/-- BUDGET (R286). -/
def budgetWord (s : State) (c : Ctx) : Word :=
  match sliceOn s c.coreKey with
  | some x => BitVec.ofNat 64 (budgetLeft s x)
  | none => 0

/-- JSTAT (R149). -/
def jstatWord (c : Core) : Word :=
  putAt c.fullCnt 48 ||| putAt c.phase.toNat 32 |||
    putAt (c.journal.filter (fun e => e.st = .inflight || e.st = .performed || e.st = .refused)).length 16 |||
    putAt c.journal.length 0

/-- SIDSTAT (R160). -/
def sidstatWord (c : Core) : Word := putAt c.ovfCnt 48 ||| putAt c.aliasCnt 32 ||| occupancy c

/-- The context registers 0x000 to 0x0FF (R72, R286, R297). -/
def ctxReg (s : State) (c : Ctx) (r : Nat) : Word :=
  let co := s.core c.coreKey
  let h := s.controlOf c
  match r with
  | 0x000 => ctxWord s c
  | 0x001 => s.cycle
  | 0x002 => c.bsp
  | 0x003 => c.bsl
  | 0x004 => c.ba
  | 0x005 => if c.kind = .helper then c.planes.zeroExtend 64 else c.hgrant.zeroExtend 64
  | 0x006 => shapeWord c
  | 0x007 => c.trap.upvec.zeroExtend 64
  | 0x008 => upframeWord c.trap
  | 0x009 => notqWord c
  | 0x00A => c.pnote.zeroExtend 64
  | 0x00B => h.gidx
  | 0x00C => jstatWord co
  | 0x00D => sidstatWord co
  | 0x00E => putAt c.slipFrozen.toNat 32 ||| putAt c.slipEvents.toNat 0
  | 0x00F => h.ginfo
  | 0x010 => c.ast
  | 0x011 => h.arg
  | 0x012 => h.grank
  | 0x013 => rbstatWord co
  | 0x080 => c.fb
  | 0x081 => c.wlow
  | 0x082 => c.trap.tpc.zeroExtend 64
  | 0x083 => tcauseWord c.trap
  | 0x084 => c.trap.taddr
  | 0x085 => c.trap.tinfo
  | 0x086 => c.trap.tvec.zeroExtend 64
  | 0x087 => putAt (if c.preq then 1 else 0) 0
  | 0x088 => pdeadWord s c
  | 0x089 => budgetWord s c
  | 0x08A => c.meter.meter
  | 0x08B => c.meter.lim
  | 0x08C => c.meter.pwBase
  | 0x08D => c.meter.pwLim
  | 0x08E => c.meter.owBase
  | 0x08F => c.meter.owLim
  | 0x090 => c.meter.xwBase
  | 0x091 => c.meter.xwLim
  | _ => 0

/-- The core registers (R169). -/
def coreReg (c : Core) (r : Nat) : Word :=
  match r with
  | 0x100 => c.route.zeroExtend 64
  | 0x101 => BitVec.ofNat 64 c.world
  | 0x102 => c.wdwin.zeroExtend 64
  | 0x103 => savepVa c
  | _ => 0

/-- A barrier group register: BMASK, or BSTATE (R196). -/
def groupWord (s : State) (c : Ctx) (r : Nat) : Word :=
  match groupReg r with
  | some (scope, g, st) =>
    let x := s.group (groupAt scope c.coreKey g)
    if st then bstateWord x else x.mask
  | none => 0

/-- POOLSTAT (R224). -/
def poolstatWord (s : State) (ck : Nat) : Word :=
  let c := s.cluster ck
  let busy (n : Nat) : Nat := if c.pool.any (fun e => e.engine = some n) then 1 else 0
  let since := match c.poolSince with | some t => s.clk - t | none => 0
  putAt (satTo (c.poolFull + since) 65535) 48 ||| putAt (busy 2) 18 ||| putAt (busy 1) 17 ||| putAt (busy 0) 16 |||
    putAt (c.pool.filter (issuable s ck)).length 8 ||| putAt c.pool.length 0

/-- The cluster registers (R196, R210, R224, R241, R267, R345). -/
def clusterReg (s : State) (c : Ctx) (r : Nat) : Word :=
  let ck := c.clusterKey
  let x := s.cluster ck
  match r with
  | 0x208 => putAt x.futFull 48 ||| putAt x.waiters.length 0
  | 0x210 => x.tqBase
  | 0x211 => tqctlWord x
  | 0x212 => poolstatWord s ck
  | 0x213 => putAt x.recalls 48 ||| putAt x.grants 32 ||| putAt x.leases.length 0
  | 0x214 => spareWord x
  | _ => groupWord s c r

/-- The die registers whose read changes nothing. Registers that are written only read 0 (R5). -/
def dieReg (s : State) (c : Ctx) (r : Nat) : Word :=
  let w := s.wd c.world c.die
  match r with
  | 0x340 => w.s1root
  | 0x344 =>
    putAt w.stray 48 ||| putAt (w.requests.filter (·.posted)).length 32 ||| putAt (parkedAtDie s c.world c.die).length 0
  | 0x346 => Tbl.get 0 s.elsel (worldDieKey c)
  | 0x348 => elstatWord (s.dieAt c.die)
  | 0x349 => w.einja
  | 0x34B => w.xseed
  | 0x34C => silstatWord (s.dieAt c.die)
  | 0x34D => xctlWord s c
  | 0x34E => w.rtbase
  | 0x34F => w.rtlen
  | 0x351 => vstatWord (s.view (viewKey c.world c.die 0))
  | 0x353 => vstatWord (s.view (viewKey c.world c.die 1))
  | 0x355 => vstatWord (s.view (viewKey c.world c.die 2))
  | 0x357 => vstatWord (s.view (viewKey c.world c.die 3))
  | 0x358 => nistatWord s c.die
  | _ => groupWord s c r

/-- The registers of a controller (R311, R314, R318, R323, R325). -/
def controllerReg (s : State) (c : Ctx) (r : Nat) : Word :=
  if r ≤ 0x807 then
    match r with
    | 0x800 => cipendOf s c
    | 0x801 => c.cien
    | 0x802 => c.civec
    | 0x803 => c.ciret
    | 0x805 => c.cfault
    | 0x806 => c.cfaddr
    | 0x807 => c.cfinfo
    | _ => 0
  else if 0x900 ≤ r then
    let x := s.sched ((c.core - 2) * 192 + (r - 0x900) / 4)
    match r % 4 with
    | 0 => schctlRead x
    | 1 => schstatWord x
    | 2 => 0
    | _ => trnresWord x
  else if 0x850 ≤ r then
    let l := linkOf s (c.core - 10) (r - 0x850)
    putAt l.up.toNat 56 ||| putAt l.count 0
  else if 0x840 ≤ r then 0
  else if r = 0x828 then s.govLim.zeroExtend 64
  else if r = 0x829 then s.govCnt
  else if 0x824 ≤ r then cgstatWord s (r - 0x824)
  else (s.dieAt (r - 0x820)).cgate.zeroExtend 64

/-- The value of a register for the issuing context, and the state after a read that has an effect of its own (R261, R335). -/
def readReg (s : State) (r : Nat) : Word × State :=
  let c := s.cx
  if r = 0x342 then readPage s c.world c.die 1 s.cur
  else if r = 0x347 then readElread s
  else if 0x800 ≤ r then (controllerReg s c r, s)
  else if 0x300 ≤ r then (dieReg s c r, s)
  else if 0x200 ≤ r then (clusterReg s c r, s)
  else if 0x100 ≤ r then (coreReg (s.core c.coreKey) r, s)
  else (ctxReg s c r, s)

def execGetx (d : GReg) (r : BitVec 12) (s : State) : Out :=
  issue s (.getx d r) (fun s =>
    let (v, s1) := readReg s r.toNat
    retire (s1.wG d v) 4)

/-! ## Writing a system register (R5, R99) -/

/-- A context register's writable fields. -/
def putCtxReg (c : Ctx) (r : Nat) (v : Word) : Ctx :=
  match r with
  | 0x002 => { c with bsp := v }
  | 0x003 => { c with bsl := v }
  | 0x004 => { c with ba := v }
  | 0x005 => if c.kind = .helper then c else { c with hgrant := v.truncate 16 }
  | 0x007 => { c with trap := { c.trap with upvec := (v &&& 0x0000FFFFFFFFFFFC#64).truncate 48 } }
  | 0x009 => if bit v 63 then { c with notqOvf := false } else c
  | 0x00A => { c with pnote := v.truncate 32 }
  | 0x010 => { c with ast := v &&& 0x7F7F#64 }
  | 0x082 => { c with trap := { c.trap with tpc := v.truncate 48 } }
  | 0x083 => { c with trap := c.trap.setTcause v }
  | 0x084 => { c with trap := { c.trap with taddr := v } }
  | 0x085 => { c with trap := { c.trap with tinfo := v } }
  | 0x086 => { c with trap := { c.trap with tvec := (v &&& 0x0000FFFFFFFFFFFC#64).truncate 48 } }
  | _ => c

/-- TROUTE as it is stored: a field of 3 becomes 1 (R169). -/
def routeStored (v : BitVec 32) : BitVec 32 := v &&& ~~~((v &&& (v >>> 1) &&& 0x55555555#32) <<< 1)

def putCoreReg (c : Core) (r : Nat) (v : Word) : Core :=
  match r with
  | 0x100 => { c with route := routeStored (v.truncate 32) }
  | 0x102 => { c with wdwin := v.truncate 32 }
  | _ => c

def putClusterReg (s : State) (r : Nat) (v : Word) : State :=
  match r with
  | 0x210 => writeTqbase s s.cx.clusterKey v
  | 0x211 => writeTqctl s s.cx.clusterKey v
  | 0x214 => writeSpare s v
  | _ => writeGroupReg s r v

def putDieReg (s : State) (r : Nat) (v : Word) : State :=
  let c := s.cx
  match r with
  | 0x345 => writeRdoor s v
  | 0x346 => writeElsel s v
  | 0x349 => s.modWd c.world c.die (fun w => { w with einja := v &&& ~~~63#64 })
  | 0x34A => writeEinjc s v
  | 0x34B => s.modWd c.world c.die (fun w => { w with xseed := if v = 0 then 1 else v })
  | 0x34D => writeXctl s v
  | 0x34E => writeRtbase s v
  | 0x34F => writeRtlen s v
  | 0x350 => writeVcfg s 0 v
  | 0x352 => writeVcfg s 1 v
  | 0x354 => writeVcfg s 2 v
  | 0x356 => writeVcfg s 3 v
  | _ => writeGroupReg s r v

def putControllerReg (s : State) (r : Nat) (v : Word) : State :=
  let n := s.cx.core
  if r ≤ 0x807 then
    match r with
    | 0x801 => s.modCx (fun c => { c with cien := v &&& 0xFFFF#64 })
    | 0x802 => s.modCx (fun c => { c with civec := v &&& 0x0000FFFFFFFFFFFC#64 })
    | 0x803 => s.modCx (fun c => { c with ciret := v &&& 0x0000FFFFFFFFFFFD#64 })
    | 0x804 => writeCalive s
    | 0x805 => s.modCx (fun c => { c with cfault := v &&& 0x80000000000001FF#64 })
    | 0x806 => s.modCx (fun c => { c with cfaddr := v })
    | 0x807 => s.modCx (fun c => { c with cfinfo := v })
    | _ => s
  else if 0x900 ≤ r then
    let k := (n - 2) * 192 + (r - 0x900) / 4
    match r % 4 with
    | 0 => writeSchctl s k v
    | 2 => writeTrnctl s k v
    | _ => s
  else if 0x850 ≤ r then s
  else if 0x840 ≤ r then writeLnctl s (n - 10) (r - 0x840) v
  else if r = 0x828 then writeGovlim s v
  else if 0x824 ≤ r then s
  else writeCgate s (r - 0x820) v

/-- UPFRAME: a write that clears BUSY holds pending upcalls back until the next instruction has retired (R173). -/
def writeUpframe (s : State) (v : Word) : State :=
  (retire s 4).modCx (fun c => { c with trap := { c.trap with busy := bit v 63 }, holdBack := !bit v 63 })

/-- THE WRITE of a register, with the retirement of the `putx`; S1ROOT and TINV retire when their drops are done (R262). -/
def writeReg (s : State) (r : Nat) (v : Word) : State :=
  if r = 0x008 then writeUpframe s v
  else if r = 0x340 then writeS1root s v
  else if r = 0x341 then writeTinv s v
  else if r = 0x343 then writePrqreply s v
  else if 0x800 ≤ r then retire (putControllerReg s r v) 4
  else if 0x300 ≤ r then retire (putDieReg s r v) 4
  else if 0x200 ≤ r then retire (putClusterReg s r v) 4
  else if 0x100 ≤ r then retire (s.modCore s.cx.coreKey (fun c => putCoreReg c r v)) 4
  else retire (s.modCx (fun c => putCtxReg c r v)) 4

def execPutx (a : GReg) (r : BitVec 12) (s : State) : Out :=
  issue s (.putx a r) (fun s => writeReg s r.toNat (s.rG a))

def execUpframeWrite (a : GReg) (s : State) : Out :=
  issue s (.upframeWrite a) (fun s => writeUpframe s (s.rG a))

/-- A write of the host to a world's register page (R276). -/
def hostPage (w : WorldDie) (off : Nat) (v : Word) : WorldDie :=
  match off with
  | 0x000 => { w with rbase := v &&& ~~~63#64 }
  | 0x008 =>
    { w with rhead := (if !w.ren || w.rstop then v.extractLsb' 16 16 else w.rhead), ren := bit v 63,
             rstop := w.rstop && !bit v 62, rlog := clampLog (bits v 35 32) }
  | 0x010 => { w with rtail := v.truncate 16 }
  | 0x018 => { w with cbase := v &&& ~~~31#64 }
  | 0x020 => { w with cen := bit v 63, cie := bit v 62, clog := clampLog (bits v 35 32), chead := v.truncate 16 }
  | 0x028 => { w with icbase := v &&& ~~~0xFFFF#64 }
  | 0x030 => { w with icsize := v &&& ~~~0xFFFF#64 }
  | _ => w

/-- A register write without behaviour of its own, by the agent that makes it (R5, R276, R310, R365). CTXCMD is the
resume and the abort of its own rows. A command in the SCTL's mailbox waits to be served from the write of word 0; one that comes
while an earlier one waits or is served has its turn after it (R353). -/
def execGenericRegisterWrite (t : RegWrite) (s : State) : Out :=
  match t with
  | .reg a r => issue s (.putx a r) (fun s => writeReg s r.toNat (s.rG a))
  | .device v b i => storeDouble v b i s
  | .host world die off v => event s (fun s => s.modWd world die (fun w => hostPage w off v))
  | .mailbox ctl off v =>
    event s (fun s =>
      if 17 < ctl || 0x10000 ≤ off || off % 8 ≠ 0 then s
      else if ctl = 0 && off = 0 && bit v 63 && mailGo s then { s with dev := { s.dev with mailNext := some v } }
      else
        let s1 := s.writeMem (ctlSpace ctl (0x100000 + off)) 8 v.toNat
        if ctl = 0 && off = 0 && bit v 63 then { s1 with dev := { s1.dev with served := false, taken := false } } else s1)

/-! ## Helpers (R79 to R84) -/

/-- The lowest free slot id of a core. -/
def freeHelper (s : State) (core : Nat) : Option Nat := (List.range 10).find? (fun h => (s.ctx (core * 16 + h + 1)).run = .free)

/-- THE START of a helper (R80). -/
def helperAt (s : State) (c : Ctx) (slot : Nat) (entry : Word) (arg : Word) : Ctx :=
  { Ctx.empty with kind := .helper, run := .live, world := c.world, die := c.die, cluster := c.cluster, core := c.core,
                   slot := slot, pc := entry.truncate 48, priv := c.priv, regs := Tbl.put 0 [] 1 arg,
                   planes := c.hgrant, rows := c.rows, cols := c.cols, ast := c.ast &&& 0x7F00#64, pulse := s.clk,
                   trap := { TrapRegs.zero with tvec := c.trap.tvec, upvec := c.trap.upvec } }

def execHstart (d a b : SReg) (s : State) : Out :=
  issue s (.hstart d a b) (fun s =>
    let c := s.cx
    let t := s.rS a
    if t.toNat % 4 ≠ 0 then raiseHere s 0x026#9 t (tinfo1 (.hstart d a b) 0 false)
    else
      match freeHelper s c.coreKey with
      | none => retire (s.wS d (BitVec.allOnes 64)) 4
      | some h =>
        let s1 := s.setCtx (c.coreKey * 16 + h + 1) (helperAt s c (h + 1) t (s.rS b))
        retire (s1.wS d (BitVec.ofNat 64 h)) 4)

def execHjoin (d a : SReg) (s : State) : Out :=
  issue s (.hjoin d a) (fun s =>
    let h := s.rS a
    let k := s.cx.coreKey * 16 + h.toNat + 1
    let x := s.ctx k
    if 9 < h.toNat || x.run = .free then retire (s.wS d 0) 4
    else if x.run = .ended then retire ((s.setCtx k Ctx.empty).wS d x.exitValue) 4
    else s)

def execHquit (a : SReg) (s : State) : Out := issue s (.hquit a) (fun s => helperQuit s (s.rS a) 0)

def execHstat (d a : SReg) (s : State) : Out :=
  issue s (.hstat d a) (fun s =>
    let h := s.rS a
    let x := s.ctx (s.cx.coreKey * 16 + h.toNat + 1)
    retire (s.wS d (if 9 < h.toNat then 3
      else BitVec.ofNat 64 (slotCode x + (if x.run = .ended then x.exitReason * 256 else 0)))) 4)

/-- A helper that waits for its counters ends (R82). -/
def execHelperEnd (ctx : Nat) (s : State) : Out :=
  event s (fun s => if (s.ctx ctx).run = .ending then helperEnds s ctx else s)

/-! ## Traps, returns, queries and notices -/

/-- R102. -/
def execBrk (code : BitVec 12) (s : State) : Out :=
  issue s (.brk code) (fun s => raiseHere s 0x1C1#9 0 (code.zeroExtend 64))

/-- R176: the resume PC is that of the next instruction. -/
def execTrap (a : SReg) (s : State) : Out :=
  issue s (.trap a) (fun s => raiseExact s s.cur 0x1A4#9 0 (s.rS a) (s.cx.pc + 4))

/-- R177; the target check of R95 holds for it as for every control transfer. DEDUCED (log 13). -/
def execEret (s : State) : Out :=
  issue s .eret (fun s =>
    match targetCause s.cx s.cx.trap.tpc with
    | some k => raiseHere s k (s.cx.trap.tpc.zeroExtend 64) (tinfo1 .eret 0 false)
    | none => afterRetire (sReturn s))

/-- R178. -/
def queryValue (masked : BitVec 32) (l : Nat) : Word :=
  if l = 0 then 1
  else if !leafAssigned l then 0
  else if masked.getLsbD l then 2 else 1

def execQuery (d a : SReg) (s : State) : Out :=
  setS s (.query d a) d (queryValue (s.core s.cx.coreKey).masked (s.rS a).toNat) 4

/-- R179. -/
def execPend (d : SReg) (s : State) : Out :=
  issue s (.pend d) (fun s =>
    let q := s.cx.notices
    retire ((s.modCx (fun c => { c with notices := q.drop 1 })).wS d (q.headD 0)) 4)

/-! ## Words that are not instructions (R46) -/

/-- The first cause that a word raises in a context: none where it is an instruction that R46 lets execute. -/
def wordCause (s : State) (c : Ctx) (w imm : BitVec 32) : Option (Cause × Word) :=
  match decode w imm with
  | .ok i => firstCause s c i
  | .error e =>
    match e with
    | .majorZero => some (0x001#9, 0)
    | .reservedMajor => some (0x002#9, 0)
    | _ =>
      if 0x10 ≤ (majorOf w).toNat && c.plirenOnly then some (0x007#9, 0)
      else
        match e with
        | .reservedClass => some (0x00D#9, 0)
        | .reservedCode => some (0x003#9, 0)
        | .badLong => some (0x005#9, 0)
        | .mustBeZero i =>
          if formCause i = some 0x003#9 then some (0x003#9, 0)
          else if leafMasked s c (leafOf i) then some (0x006#9, BitVec.ofNat 64 (leafOf i))
          else if c.kind = .helper && controlOnly i then some (0x00E#9, 0)
          else if c.kind = .control && (match i with | .hquit _ => true | _ => false) then some (0x00F#9, 0)
          else some (0x004#9, 0)
        | _ => none

/-- A live context meets a word: the meter first (R299), then the first cause of R46. -/
def execIllegalWord (w imm : BitVec 32) (s : State) : Out :=
  event s (fun s =>
    let c := s.cx
    if c.run ≠ .live then s
    else if c.kind = .translator ∧ c.meter.meter = c.meter.lim then raiseHere s 0x181#9 0 c.meter.meter
    else
      match wordCause s c w imm with
      | some k => raise46 s (.illegalWord w imm) k
      | none => s)

/-! ## Pending causes (R170) -/

/-- The oldest pending cause of a context is taken at its boundary, unless its route is closed: not while a fill of the
context is on its way. -/
def execPendingCauseTake (ctx : Nat) (s : State) : Out :=
  event s (fun s =>
    let c := s.ctx ctx
    if c.run ≠ .live || filling s ctx then s
    else
      match causeDue s ctx with
      | some p => takeAsync (s.modCtx ctx (fun x => { x.thaw s.clk with pending := x.pending.drop 1 })) ctx p
      | none => s)

end Sys2Proof.Machine
end

