-- ==== Sys2Proof/Machine/Fetch.lean ====
section
/-!
DEFINITION. Instruction supply (R26, R95, R292, R298, R310, R314): the caches, the words that a context holds ahead, fetches
that miss, and the words of the instruction at PC.
-/
namespace Sys2Proof.Machine

/-! ## The caches (R292) -/

/-- Lines of 64 bytes in an L1I of 64 KiB and in an L2I of 8 MiB. -/
def l1iLines : Nat := 1024
def l2iLines : Nat := 131072

/-- The line of a world that holds an address. -/
def lineAt (l : List Line) (world a : Nat) : Option Line := l.find? (fun x => x.world = world && x.va = a / 64 * 64)

/-- The word at an address, from the caches' lines. -/
def lineWord (l : List Line) (world a : Nat) : Option Word32 := (lineAt l world a).bind (fun x => x.words[a % 64 / 4]?)

/-- A line enters a cache: the oldest leaves a full one. -/
def addLine (cap : Nat) (l : List Line) (x : Line) : List Line :=
  let rest := l.filter (fun y => !(y.world = x.world && y.va = x.va))
  (if cap ≤ rest.length then rest.drop (rest.length + 1 - cap) else rest) ++ [x]

/-- Up to n words in sequence from an address, as far as lines hold them. -/
def wordsFrom (l : List Line) (world : Nat) : Nat → Nat → List Word32
  | 0, _ => []
  | n + 1, a =>
    match lineWord l world (a % 2 ^ 48) with
    | some w => w :: wordsFrom l world n (a + 4)
    | none => []

/-- The address of word i from a context's PC. -/
def Ctx.wordAddr (c : Ctx) (i : Nat) : Nat := (c.pc.toNat + 4 * i) % 2 ^ 48

/-- A context takes words from its L1I while it has room for them: 8 at most. DEDUCED (log 15). -/
def Ctx.refill (c : Ctx) (l1i : List Line) : Ctx :=
  let n := c.fetched.length
  { c with fetched := c.fetched ++ wordsFrom l1i c.world (8 - n) (c.pc.toNat + 4 * n) }

def refillCtx (s : State) (k : Nat) : State :=
  s.modCtx k (fun c => (c.thaw s.clk).refill (s.cluster c.clusterKey).l1i)

/-! ## A miss -/

/-- The 16 words of a line as one number, and back. -/
def lineValue (ws : List Word32) : Nat := leValue (ws.flatMap bytesOfWord)
def lineWords (v : Nat) : List Word32 := (List.range 16).map (fun i => BitVec.ofNat 32 (v / 2 ^ (32 * i)))

/-- The VA of the line of an address in the paged space of the own die. -/
def codeVa (a : Nat) : Word := 0xFFFC000000000000#64 ||| BitVec.ofNat 64 (a % 2 ^ 48 / 64 * 64)

/-- A word is in no L1I line: the context stops for a fetch of its line (R144), answered by the L2I where that holds it.
The context that issues is `s.cur`. -/
def fetchLine (s : State) (a : Nat) : State :=
  let c := s.cx
  let s1 := sendReq s .fetch 0 0 false (codeVa a) 64 []
  let s2 := match lineAt (s.dieAt c.die).l2i c.world a with
    | some x => s1.modReq s.nextId (fun r => { r with st := .replied (lineValue x.words) 0 false })
    | none => s1
  s2.modCx (fun c => { c with fetching := some s.nextId, fetchAt := s.clk,
                              slipEvents := BitVec.ofNat 32 (satTo (c.slipEvents.toNat + 1) (2 ^ 32 - 1)) })

/-- A fetch that was refused: 0x02A, with TADDR the address of the word that is missing (R95, R26). TINFO
holds the first word where it was fetched, and 0 where it is the word that is missing (R115). DESIGN CHOICE (log 107). -/
def fetchRefused (s : State) (k : Nat) : State :=
  let c := s.ctx k
  raiseExact s k 0x02A#9 (BitVec.ofNat 64 (c.wordAddr c.fetched.length)) ((c.fetched.headD 0).zeroExtend 64) c.pc

/-- A fetch that missed returns: its line fills both caches, and the stopped context takes its words; a refused one raises
0x02A, and one that reads an uncorrectable granule consumes it (R336). -/
def execFetchFill (id : Nat) (s : State) : Out :=
  event s (fun s =>
    match s.req id with
    | none => s
    | some r =>
      match r.kind, r.st with
      | .fetch, .replied v _ refused =>
        let k := r.ctx
        let stands := (s.ctx k).fetching = some id && (s.ctx k).run = .live
        let s1 := s.dropReq id
        if refused then
          if !stands then s1
          else
            let s2 := s1.modCtx k (fun c => c.thaw s.clk)
            if v = 0x161 then consume s2 k r.va (s.ctx k).pc else fetchRefused s2 k
        else
          let x : Line := { world := r.world, va := bits r.va 47 0, words := lineWords v }
          let s2 :=
            if r.elem = 1 then s1
            else
              (s1.modDie r.die (fun d => { d with l2i := addLine l2iLines d.l2i x })).modCluster r.clusterKey (fun c =>
                { c with l1i := addLine l1iLines c.l1i x })
          if !stands then s2 else s2.modCtx k (fun c => (c.thaw s.clk).refill [x])
      | _, _ => s)

/-! ## The instruction at PC -/

/-- What a context finds at its PC: the words of the instruction there, or the state that the fetch leaves. -/
inductive Supply where
  | wait (s : State)
  | words (s : State) (w imm : Word32)

/-- A controller fetches from its SRAM, and the SCTL also from its boot ROM (R310, R314). -/
def ctlSupply (s : State) (c : Ctx) : Supply :=
  let a := c.pc.toNat
  match ctlPlace c.core a with
  | .sram => .words s (BitVec.ofNat 32 (s.readMem (ctlSpace c.core a) 4)) 0
  | .rom => .words s (BitVec.ofNat 32 (leValue ((List.range 4).map (fun i => Config.bootRom (a - 0x200000 + i))))) 0
  | _ => .wait (raiseHere s 0x02A#9 (c.pc.zeroExtend 64) 0)

/-- The words held ahead are enough, or the next one is fetched. DEDUCED (log 16). -/
def headSupply (s : State) (c : Ctx) : Supply :=
  match c.fetched with
  | w :: rest =>
    if longForm w && !c.plirenOnly then
      match rest with
      | m :: _ => .words s w m
      | [] => .wait (fetchLine s (c.wordAddr 1))
    else .words s w 0
  | [] => .wait (fetchLine s (c.wordAddr 0))

/-- THE FETCH of the issuing context's next instruction. A translator's PC lies in its own section (R298). -/
def supply (s : State) : Supply :=
  let c := s.cx
  match c.kind with
  | .controller => ctlSupply s c
  | .translator =>
    if !insideX c c.pc then .wait (raiseHere s 0x182#9 (c.pc.zeroExtend 64) 0)
    else if c.fetching.isSome then .wait s
    else let s1 := refillCtx s s.cur; headSupply s1 s1.cx
  | _ =>
    if c.fetching.isSome then .wait s
    else let s1 := refillCtx s s.cur; headSupply s1 s1.cx

/-- The instruction of two words: a word that is none is itself the instruction of its cause (R46). -/
def instrOf (w imm : Word32) : Instr :=
  match decode w imm with
  | .ok i => i
  | .error _ => .illegalWord w imm

/-! ## What comes before the instruction (R170, R182, R299, R312) -/

/-- What a live context does at its boundary in place of its next instruction. -/
inductive Boundary where
  | hold
  | interrupt
  | idle
  | cause
  | meter
  | issue
  deriving DecidableEq, Repr

/-- The core of a context that runs a program has been taken out of service: the context issues nothing more (R333). -/
def outOfUse (s : State) (c : Ctx) : Bool :=
  c.kind ≠ .controller && s.outOfService.contains (coreUnit c.die c.cluster (physCore s c.die c.cluster c.core))

def boundaryOf (s : State) (k : Nat) : Boundary :=
  let c := s.ctx k
  let free := !filling s k && c.phase ≠ committed
  if (c.kind = .control || c.kind = .helper) && (s.core c.coreKey).saveDue && free then .hold
  else if interruptDue s c then .interrupt
  else if outOfUse s c then .idle
  else if c.kind ≠ .controller && free && (causeDue s k).any (fun p => !(p.cause = 0x041#9 && inRefusedWait c)) then .cause
  else if c.kind = .translator && c.meter.meter = c.meter.lim then .meter
  else .issue

/-! ## Time -/

/-- clk pass: CYCLE counts them, less the one that a correction holds back (R74, R375). DEDUCED (log 12). -/
def State.tick (s : State) (dt : Nat) : State :=
  let held := if s.slewHold && 0 < dt then 1 else 0
  { s with clk := s.clk + dt, cycle := s.cycle + BitVec.ofNat 64 (dt - held), slewHold := s.slewHold && dt = 0 }

/-! ## Placing an instruction (the model's own) -/

/-- The control context of core 0, in S, about to issue the words given: the place that `withFetchWord` uses. -/
def placedCtx0 (c : Ctx) (ws : List Word32) : Ctx :=
  { c with kind := .control, run := .live, priv := true, fetched := ws, fetching := none, pending := [], phase := 0 }

/-- That context is the next to issue on core 0: no save is due, the core is in service, and both pipes begin with it. -/
def placeNext (s : State) (ws : List Word32) : State :=
  ({ s with outOfService := s.outOfService.filter (fun u => u ≠ coreUnit 0 0 (physCore s 0 0 0)) }.modCtx 0
      (fun c => placedCtx0 c ws)).modCore 0 (fun c =>
    { c with saveDue := false, issueAt := 0, issued := [], lastScalar := 10, lastPlane := 10 })

end Sys2Proof.Machine
end

