-- ==== Sys2Proof/Machine/Dispatch.lean ====
section
/-! DEFINITION. The meaning of every instruction: one arm per constructor, each a call of its meaning. -/
namespace Sys2Proof.Machine

def exec (i : Instr) (s : State) : Host.Outcome State Fault Refusal :=
  match i with
  | .add d a b => Sys2Proof.Machine.execAdd d a b s
  | .sub d a b => Sys2Proof.Machine.execSub d a b s
  | .and d a b => Sys2Proof.Machine.execAnd d a b s
  | .or d a b => Sys2Proof.Machine.execOr d a b s
  | .xor d a b => Sys2Proof.Machine.execXor d a b s
  | .shl d a b => Sys2Proof.Machine.execShl d a b s
  | .shr d a b => Sys2Proof.Machine.execShr d a b s
  | .sar d a b => Sys2Proof.Machine.execSar d a b s
  | .mul d a b => Sys2Proof.Machine.execMul d a b s
  | .mulh d a b => Sys2Proof.Machine.execMulh d a b s
  | .mulhz d a b => Sys2Proof.Machine.execMulhz d a b s
  | .div d a b => Sys2Proof.Machine.execDiv d a b s
  | .divz d a b => Sys2Proof.Machine.execDivz d a b s
  | .rem d a b => Sys2Proof.Machine.execRem d a b s
  | .remz d a b => Sys2Proof.Machine.execRemz d a b s
  | .slt d a b => Sys2Proof.Machine.execSlt d a b s
  | .sltz d a b => Sys2Proof.Machine.execSltz d a b s
  | .addi d a imm => Sys2Proof.Machine.execAddi d a imm s
  | .andi d a imm => Sys2Proof.Machine.execAndi d a imm s
  | .ori d a imm => Sys2Proof.Machine.execOri d a imm s
  | .xori d a imm => Sys2Proof.Machine.execXori d a imm s
  | .shli d a n => Sys2Proof.Machine.execShli d a n s
  | .shri d a n => Sys2Proof.Machine.execShri d a n s
  | .sari d a n => Sys2Proof.Machine.execSari d a n s
  | .slti d a imm => Sys2Proof.Machine.execSlti d a imm s
  | .sltzi d a imm => Sys2Proof.Machine.execSltzi d a imm s
  | .liu d imm => Sys2Proof.Machine.execLiu d imm s
  | .ld8s d b imm => Sys2Proof.Machine.execLd8s d b imm s
  | .ld8z d b imm => Sys2Proof.Machine.execLd8z d b imm s
  | .ld16s d b imm => Sys2Proof.Machine.execLd16s d b imm s
  | .ld16z d b imm => Sys2Proof.Machine.execLd16z d b imm s
  | .ld32s d b imm => Sys2Proof.Machine.execLd32s d b imm s
  | .ld32z d b imm => Sys2Proof.Machine.execLd32z d b imm s
  | .ld64 d b imm => Sys2Proof.Machine.execLd64 d b imm s
  | .st8 v b imm => Sys2Proof.Machine.execSt8 v b imm s
  | .st16 v b imm => Sys2Proof.Machine.execSt16 v b imm s
  | .st32 v b imm => Sys2Proof.Machine.execSt32 v b imm s
  | .st64 v b imm => Sys2Proof.Machine.execSt64 v b imm s
  | .beq a b o => Sys2Proof.Machine.execBeq a b o s
  | .bne a b o => Sys2Proof.Machine.execBne a b o s
  | .blt a b o => Sys2Proof.Machine.execBlt a b o s
  | .bge a b o => Sys2Proof.Machine.execBge a b o s
  | .bbl a b o => Sys2Proof.Machine.execBbl a b o s
  | .bae a b o => Sys2Proof.Machine.execBae a b o s
  | .jal d o => Sys2Proof.Machine.execJal d o s
  | .jalr d a imm => Sys2Proof.Machine.execJalr d a imm s
  | .sysCtrd d a => Sys2Proof.Machine.execSysCtrd d a s
  | .sysEntropy d a => Sys2Proof.Machine.execSysEntropy d a s
  | .sysWfi d a => Sys2Proof.Machine.execSysWfi d a s
  | .sysCret => Sys2Proof.Machine.execSysCret s
  | .getx d r => Sys2Proof.Machine.execGetx d r s
  | .putx a r => Sys2Proof.Machine.execPutx a r s
  | .ordr => Sys2Proof.Machine.execOrdr s
  | .halt => Sys2Proof.Machine.execHalt s
  | .brk c => Sys2Proof.Machine.execBrk c s
  | .clz d a => Sys2Proof.Machine.execClz d a s
  | .ctz d a => Sys2Proof.Machine.execCtz d a s
  | .popc d a => Sys2Proof.Machine.execPopc d a s
  | .bitrev d a => Sys2Proof.Machine.execBitrev d a s
  | .bswap d a => Sys2Proof.Machine.execBswap d a s
  | .sel d a b => Sys2Proof.Machine.execSel d a b s
  | .mkva d a b => Sys2Proof.Machine.execMkva d a b s
  | .dieof d a => Sys2Proof.Machine.execDieof d a s
  | .addva d a b => Sys2Proof.Machine.execAddva d a b s
  | .bfx d a p l => Sys2Proof.Machine.execBfx d a p l s
  | .bfi d a p l => Sys2Proof.Machine.execBfi d a p l s
  | .call n o => Sys2Proof.Machine.execCall n o s
  | .callFar n imm => Sys2Proof.Machine.execCallFar n imm s
  | .callr n a => Sys2Proof.Machine.execCallr n a s
  | .ret => Sys2Proof.Machine.execRet s
  | .ldk d imm => Sys2Proof.Machine.execLdk d imm s
  | .ldkZ d imm => Sys2Proof.Machine.execLdkZ d imm s
  | .ldkHi d imm => Sys2Proof.Machine.execLdkHi d imm s
  | .setba a => Sys2Proof.Machine.execSetba a s
  | .ldbits d sc w => Sys2Proof.Machine.execLdbits d sc w s
  | .stbits a w => Sys2Proof.Machine.execStbits a w s
  | .waitc l sc c t => Sys2Proof.Machine.execWaitc l sc c t s
  | .rdctr d n => Sys2Proof.Machine.execRdctr d n s
  | .hstart d a b => Sys2Proof.Machine.execHstart d a b s
  | .hjoin d a => Sys2Proof.Machine.execHjoin d a s
  | .hquit a => Sys2Proof.Machine.execHquit a s
  | .hstat d a => Sys2Proof.Machine.execHstat d a s
  | .trap a => Sys2Proof.Machine.execTrap a s
  | .eret => Sys2Proof.Machine.execEret s
  | .yield d => Sys2Proof.Machine.execYield d s
  | .query d a => Sys2Proof.Machine.execQuery d a s
  | .pend d => Sys2Proof.Machine.execPend d s
  | .xlat d a => Sys2Proof.Machine.execXlat d a s
  | .iinv a b => Sys2Proof.Machine.execIinv a b s
  | .iprf a b => Sys2Proof.Machine.execIprf a b s
  | .sdone a => Sys2Proof.Machine.execSdone a s
  | .amo d a b o w r => Sys2Proof.Machine.execAmo d a b o w r s
  | .cas d a b w r => Sys2Proof.Machine.execCas d a b w r s
  | .ldsc d a w => Sys2Proof.Machine.execLdsc d a w s
  | .stsc a b w => Sys2Proof.Machine.execStsc a b w s
  | .amosc d a b o w => Sys2Proof.Machine.execAmosc d a b o w s
  | .arrive d sc g x => Sys2Proof.Machine.execArrive d sc g x s
  | .wait d sc g => Sys2Proof.Machine.execWait d sc g s
  | .publish sc => Sys2Proof.Machine.execPublish sc s
  | .bmask d a sc g => Sys2Proof.Machine.execBmask d a sc g s
  | .bstep d a sc g => Sys2Proof.Machine.execBstep d a sc g s
  | .ffill d a => Sys2Proof.Machine.execFfill d a s
  | .fwait d a => Sys2Proof.Machine.execFwait d a s
  | .fpoll d a => Sys2Proof.Machine.execFpoll d a s
  | .send d a b l => Sys2Proof.Machine.execSend d a b l s
  | .recv d a b => Sys2Proof.Machine.execRecv d a b s
  | .rankset d a b => Sys2Proof.Machine.execRankset d a b s
  | .rankmv d a b => Sys2Proof.Machine.execRankmv d a b s
  | .coll d a => Sys2Proof.Machine.execColl d a s
  | .cwait d a => Sys2Proof.Machine.execCwait d a s
  | .view d a => Sys2Proof.Machine.execView d a s
  | .vack d a => Sys2Proof.Machine.execVack d a s
  | .vadd d a b k r t => Sys2Proof.Machine.execVadd d a b k r t s
  | .vsub d a b k r t => Sys2Proof.Machine.execVsub d a b k r t s
  | .vmul d a b k r t => Sys2Proof.Machine.execVmul d a b k r t s
  | .vmulh d a b k r t => Sys2Proof.Machine.execVmulh d a b k r t s
  | .vfma d a b k r t => Sys2Proof.Machine.execVfma d a b k r t s
  | .vmin d a b k r t => Sys2Proof.Machine.execVmin d a b k r t s
  | .vmax d a b k r t => Sys2Proof.Machine.execVmax d a b k r t s
  | .vabs d a k r t => Sys2Proof.Machine.execVabs d a k r t s
  | .vneg d a k r t => Sys2Proof.Machine.execVneg d a k r t s
  | .vdiv d a b k r t => Sys2Proof.Machine.execVdiv d a b k r t s
  | .vsqrt d a k r t => Sys2Proof.Machine.execVsqrt d a k r t s
  | .vaddImm d a k r t imm => Sys2Proof.Machine.execVaddImm d a k r t imm s
  | .vsubImm d a k r t imm => Sys2Proof.Machine.execVsubImm d a k r t imm s
  | .vmulImm d a k r t imm => Sys2Proof.Machine.execVmulImm d a k r t imm s
  | .vmulhImm d a k r t imm => Sys2Proof.Machine.execVmulhImm d a k r t imm s
  | .vminImm d a k r t imm => Sys2Proof.Machine.execVminImm d a k r t imm s
  | .vmaxImm d a k r t imm => Sys2Proof.Machine.execVmaxImm d a k r t imm s
  | .vdivImm d a k r t imm => Sys2Proof.Machine.execVdivImm d a k r t imm s
  | .vand d a b k t => Sys2Proof.Machine.execVand d a b k t s
  | .vor d a b k t => Sys2Proof.Machine.execVor d a b k t s
  | .vxor d a b k t => Sys2Proof.Machine.execVxor d a b k t s
  | .vshl d a b k t => Sys2Proof.Machine.execVshl d a b k t s
  | .vshr d a b k t => Sys2Proof.Machine.execVshr d a b k t s
  | .vsar d a b k t => Sys2Proof.Machine.execVsar d a b k t s
  | .vpopc d a k t => Sys2Proof.Machine.execVpopc d a k t s
  | .vclz d a k t => Sys2Proof.Machine.execVclz d a k t s
  | .vandImm d a k t imm => Sys2Proof.Machine.execVandImm d a k t imm s
  | .vorImm d a k t imm => Sys2Proof.Machine.execVorImm d a k t imm s
  | .vxorImm d a k t imm => Sys2Proof.Machine.execVxorImm d a k t imm s
  | .vshlImm d a k t imm => Sys2Proof.Machine.execVshlImm d a k t imm s
  | .vshrImm d a k t imm => Sys2Proof.Machine.execVshrImm d a k t imm s
  | .vsarImm d a k t imm => Sys2Proof.Machine.execVsarImm d a k t imm s
  | .vcmp h q a b k c t => Sys2Proof.Machine.execVcmp h q a b k c t s
  | .vcmpImm h q a k c t imm => Sys2Proof.Machine.execVcmpImm h q a k c t imm s
  | .vsel d a b k t => Sys2Proof.Machine.execVsel d a b k t s
  | .vbcast d sc k t => Sys2Proof.Machine.execVbcast d sc k t s
  | .vbcastImm d k t imm => Sys2Proof.Machine.execVbcastImm d k t imm s
  | .vidx d k t => Sys2Proof.Machine.execVidx d k t s
  | .vred d a x o k r t => Sys2Proof.Machine.execVred d a x o k r t s
  | .vscan d a x o k r t => Sys2Proof.Machine.execVscan d a x o k r t s
  | .vtrans d a k t => Sys2Proof.Machine.execVtrans d a k t s
  | .vperm d a b k t => Sys2Proof.Machine.execVperm d a b k t s
  | .vcvtTo d a f k r t g => Sys2Proof.Machine.execVcvtTo d a f k r t g s
  | .vcvtFrom d a f k r t g => Sys2Proof.Machine.execVcvtFrom d a f k r t g s
  | .shape d a b => Sys2Proof.Machine.execShape d a b s
  | .shapeq d => Sys2Proof.Machine.execShapeq d s
  | .kand d a b => Sys2Proof.Machine.execKand d a b s
  | .kor d a b => Sys2Proof.Machine.execKor d a b s
  | .kxor d a b => Sys2Proof.Machine.execKxor d a b s
  | .knot d a => Sys2Proof.Machine.execKnot d a s
  | .kedge d a => Sys2Proof.Machine.execKedge d a s
  | .kpop d a => Sys2Proof.Machine.execKpop d a s
  | .vld p b sc k t => Sys2Proof.Machine.execVld p b sc k t s
  | .vst p b sc k t => Sys2Proof.Machine.execVst p b sc k t s
  | .vldi p b imm k t => Sys2Proof.Machine.execVldi p b imm k t s
  | .vsti p b imm k t => Sys2Proof.Machine.execVsti p b imm k t s
  | .vldb p w k t => Sys2Proof.Machine.execVldb p w k t s
  | .vstb p w k t => Sys2Proof.Machine.execVstb p w k t s
  | .vamo p b imm t o => Sys2Proof.Machine.execVamo p b imm t o s
  | .vrst p b imm t o => Sys2Proof.Machine.execVrst p b imm t o s
  | .tdefDefine d a b => Sys2Proof.Machine.execTdefDefine d a b s
  | .tdefStatus d a b => Sys2Proof.Machine.execTdefStatus d a b s
  | .tdefClearStatus d a b => Sys2Proof.Machine.execTdefClearStatus d a b s
  | .tdefUndefine d a b => Sys2Proof.Machine.execTdefUndefine d a b s
  | .ttypeDefine d a b => Sys2Proof.Machine.execTtypeDefine d a b s
  | .ttypeUndefine d a b => Sys2Proof.Machine.execTtypeUndefine d a b s
  | .force d a b => Sys2Proof.Machine.execForce d a b s
  | .tdrop d a => Sys2Proof.Machine.execTdrop d a s
  | .sidq d a => Sys2Proof.Machine.execSidq d a s
  | .tmul d a b => Sys2Proof.Machine.execTmul d a b s
  | .tew d a b => Sys2Proof.Machine.execTew d a b s
  | .tred d a b => Sys2Proof.Machine.execTred d a b s
  | .tcvt d a b => Sys2Proof.Machine.execTcvt d a b s
  | .tmove d a b => Sys2Proof.Machine.execTmove d a b s
  | .tgather d a b => Sys2Proof.Machine.execTgather d a b s
  | .tenq d a => Sys2Proof.Machine.execTenq d a s
  | .illegalWord w imm => Sys2Proof.Machine.execIllegalWord w imm s
  | .helperEnd ctx => Sys2Proof.Machine.execHelperEnd ctx s
  | .loadReturn id => Sys2Proof.Machine.execLoadReturn id s
  | .accessAtOwner id ext => Sys2Proof.Machine.execAccessAtOwner id ext s
  | .walkEnd id => Sys2Proof.Machine.execWalkEnd id s
  | .pageRequestDeferredPost world die => Sys2Proof.Machine.execPageRequestDeferredPost world die s
  | .parkReplay id => Sys2Proof.Machine.execParkReplay id s
  | .parkNoticeTimeout id => Sys2Proof.Machine.execParkNoticeTimeout id s
  | .drainPerform core entry ext => Sys2Proof.Machine.execDrainPerform core entry ext s
  | .drainAck core entry => Sys2Proof.Machine.execDrainAck core entry s
  | .atomicAtHome id ext => Sys2Proof.Machine.execAtomicAtHome id ext s
  | .leaseWriteback cluster line => Sys2Proof.Machine.execLeaseWriteback cluster line s
  | .scWindowPerform window => Sys2Proof.Machine.execScWindowPerform window s
  | .scResult id => Sys2Proof.Machine.execScResult id s
  | .futureFillAtBank id => Sys2Proof.Machine.execFutureFillAtBank id s
  | .futureWake cluster => Sys2Proof.Machine.execFutureWake cluster s
  | .mergeRead core entry => Sys2Proof.Machine.execMergeRead core entry s
  | .mergeWriteback core entry => Sys2Proof.Machine.execMergeWriteback core entry s
  | .pendingCauseTake ctx => Sys2Proof.Machine.execPendingCauseTake ctx s
  | .upframeWrite a => Sys2Proof.Machine.execUpframeWrite a s
  | .poolInsert cluster => Sys2Proof.Machine.execPoolInsert cluster s
  | .engineIssue cluster => Sys2Proof.Machine.execEngineIssue cluster s
  | .poolEntryComplete cluster seq => Sys2Proof.Machine.execPoolEntryComplete cluster seq s
  | .lateFault cluster seq cause => Sys2Proof.Machine.execLateFault cluster seq cause s
  | .taskConvert cluster => Sys2Proof.Machine.execTaskConvert cluster s
  | .pdeadExpire core => Sys2Proof.Machine.execPdeadExpire core s
  | .forcedSave core => Sys2Proof.Machine.execForcedSave core s
  | .gangTableSave slice => Sys2Proof.Machine.execGangTableSave slice s
  | .timetableRank die => Sys2Proof.Machine.execTimetableRank die s
  | .barrierDrainStart node group => Sys2Proof.Machine.execBarrierDrainStart node group s
  | .barrierComplete node group => Sys2Proof.Machine.execBarrierComplete node group s
  | .barrierWaitRelease ctx => Sys2Proof.Machine.execBarrierWaitRelease ctx s
  | .budgetExhausted slice => Sys2Proof.Machine.execBudgetExhausted slice s
  | .heldCompletionPost world die => Sys2Proof.Machine.execHeldCompletionPost world die s
  | .ringServe world die => Sys2Proof.Machine.execRingServe world die s
  | .launch world die => Sys2Proof.Machine.execLaunch world die s
  | .admitPacket world die => Sys2Proof.Machine.execAdmitPacket world die s
  | .meterExhausted => Sys2Proof.Machine.execMeterExhausted s
  | .cacheWaitResolve die => Sys2Proof.Machine.execCacheWaitResolve die s
  | .signalBoxCheck die => Sys2Proof.Machine.execSignalBoxCheck die s
  | .watchdogExpire core => Sys2Proof.Machine.execWatchdogExpire core s
  | .fetchFill id => Sys2Proof.Machine.execFetchFill id s
  | .rtailWrite world die tail hostWrites => Sys2Proof.Machine.execRtailWrite world die tail hostWrites s
  | .rdoorWrite a => Sys2Proof.Machine.execRdoorWrite a s
  | .rctlStopClear world die => Sys2Proof.Machine.execRctlStopClear world die s
  | .ctxcmdResume world die cluster core slot => Sys2Proof.Machine.execCtxcmdResume world die cluster core slot s
  | .ctxcmdAbort world die cluster core slot => Sys2Proof.Machine.execCtxcmdAbort world die cluster core slot s
  | .dieMapWrite die n v => Sys2Proof.Machine.execDieMapWrite die n v s
  | .s1rootWrite a => Sys2Proof.Machine.execS1rootWrite a s
  | .tinvWrite a => Sys2Proof.Machine.execTinvWrite a s
  | .prq1Read d => Sys2Proof.Machine.execPrq1Read d s
  | .prqreplyWrite a => Sys2Proof.Machine.execPrqreplyWrite a s
  | .pfPageRequestRead world die => Sys2Proof.Machine.execPfPageRequestRead world die s
  | .stage2PageReply world die id page size perm refuse => Sys2Proof.Machine.execStage2PageReply world die id page size perm refuse s
  | .migration world die page dest => Sys2Proof.Machine.execMigration world die page dest s
  | .groupRegisterWrite a r => Sys2Proof.Machine.execGroupRegisterWrite a r s
  | .tqctlWrite a => Sys2Proof.Machine.execTqctlWrite a s
  | .genericRegisterWrite t => Sys2Proof.Machine.execGenericRegisterWrite t s
  | .controllerInterrupt ctl => Sys2Proof.Machine.execControllerInterrupt ctl s
  | .controllerRestart ctl => Sys2Proof.Machine.execControllerRestart ctl s
  | .caliveWrite a => Sys2Proof.Machine.execCaliveWrite a s
  | .caliveTimeout ctl => Sys2Proof.Machine.execCaliveTimeout ctl s
  | .d2dFlitUncorrectable die other ids => Sys2Proof.Machine.execD2dFlitUncorrectable die other ids s
  | .schctlOnline a n => Sys2Proof.Machine.execSchctlOnline a n s
  | .schctlDrain a n => Sys2Proof.Machine.execSchctlDrain a n s
  | .schctlOffline a n => Sys2Proof.Machine.execSchctlOffline a n s
  | .schctlFenced a n => Sys2Proof.Machine.execSchctlFenced a n s
  | .schedulerDrainDone stack n => Sys2Proof.Machine.execSchedulerDrainDone stack n s
  | .trnctlGo a n => Sys2Proof.Machine.execTrnctlGo a n s
  | .trainingDone stack n pass zq wldly eyel eyer vref => Sys2Proof.Machine.execTrainingDone stack n pass zq wldly eyel eyer vref s
  | .dataPathError stack n => Sys2Proof.Machine.execDataPathError stack n s
  | .hbmRefreshDue stack n => Sys2Proof.Machine.execHbmRefreshDue stack n s
  | .railStable rail => Sys2Proof.Machine.execRailStable rail s
  | .railOutOfTolerance rail => Sys2Proof.Machine.execRailOutOfTolerance rail s
  | .cgateWrite a die => Sys2Proof.Machine.execCgateWrite a die s
  | .ungateDone die cluster => Sys2Proof.Machine.execUngateDone die cluster s
  | .governorInterval amps => Sys2Proof.Machine.execGovernorInterval amps s
  | .lnctlGo a l => Sys2Proof.Machine.execLnctlGo a l s
  | .laneTrainDone die link pass => Sys2Proof.Machine.execLaneTrainDone die link pass s
  | .boot ok => Sys2Proof.Machine.execBoot ok s
  | .strikeReport unit => Sys2Proof.Machine.execStrikeReport unit s
  | .effectRevoke unit => Sys2Proof.Machine.execEffectRevoke unit s
  | .elselWrite a => Sys2Proof.Machine.execElselWrite a s
  | .elreadRead d => Sys2Proof.Machine.execElreadRead d s
  | .rollback slice => Sys2Proof.Machine.execRollback slice s
  | .twinResolve slice => Sys2Proof.Machine.execTwinResolve slice s
  | .spareWrite a => Sys2Proof.Machine.execSpareWrite a s
  | .spareUmCopyDone die cluster => Sys2Proof.Machine.execSpareUmCopyDone die cluster s
  | .einjcInject a => Sys2Proof.Machine.execEinjcInject a s
  | .seededInjectStep world die => Sys2Proof.Machine.execSeededInjectStep world die s
  | .xctlWrite a => Sys2Proof.Machine.execXctlWrite a s
  | .partition => Sys2Proof.Machine.execPartition s
  | .settings => Sys2Proof.Machine.execSettings s
  | .pagefree => Sys2Proof.Machine.execPagefree s
  | .teardown => Sys2Proof.Machine.execTeardown s
  | .dbgchal => Sys2Proof.Machine.execDbgchal s
  | .dbgunlock => Sys2Proof.Machine.execDbgunlock s
  | .image => Sys2Proof.Machine.execImage s
  | .mailboxGoClear => Sys2Proof.Machine.execMailboxGoClear s
  | .lockInterfaceRequest world => Sys2Proof.Machine.execLockInterfaceRequest world s
  | .tdispError world => Sys2Proof.Machine.execTdispError world s
  | .ideKm world => Sys2Proof.Machine.execIdeKm world s
  | .spdmGetMeasurements world index => Sys2Proof.Machine.execSpdmGetMeasurements world index s
  | .spdmRequest world version code => Sys2Proof.Machine.execSpdmRequest world version code s
  | .keyWrap world record => Sys2Proof.Machine.execKeyWrap world record s
  | .keyRegistration world record => Sys2Proof.Machine.execKeyRegistration world record s
  | .fprogGo v b imm => Sys2Proof.Machine.execFprogGo v b imm s
  | .fuseProgramDone ok => Sys2Proof.Machine.execFuseProgramDone ok s
  | .rsacmdGo v b imm => Sys2Proof.Machine.execRsacmdGo v b imm s
  | .rsaVerifyDone => Sys2Proof.Machine.execRsaVerifyDone s
  | .wtearGo v b imm => Sys2Proof.Machine.execWtearGo v b imm s
  | .teardownDone world => Sys2Proof.Machine.execTeardownDone world s
  | .kzeroGo v b imm => Sys2Proof.Machine.execKzeroGo v b imm s
  | .zeroiseDone => Sys2Proof.Machine.execZeroiseDone s
  | .mcmdGo v b imm => Sys2Proof.Machine.execMcmdGo v b imm s
  | .dbgctlOpen v b imm => Sys2Proof.Machine.execDbgctlOpen v b imm s
  | .debugStop ctx => Sys2Proof.Machine.execDebugStop ctx s
  | .flitReceive port world ok payload => Sys2Proof.Machine.execFlitReceive port world ok payload s
  | .timeExchange forward => Sys2Proof.Machine.execTimeExchange forward s
  | .messageArrival id => Sys2Proof.Machine.execMessageArrival id s
  | .messageRetry id => Sys2Proof.Machine.execMessageRetry id s
  | .messageReply id => Sys2Proof.Machine.execMessageReply id s
  | .rtbaseWrite a => Sys2Proof.Machine.execRtbaseWrite a s
  | .rtlenWrite a => Sys2Proof.Machine.execRtlenWrite a s
  | .vcfgInstall a v => Sys2Proof.Machine.execVcfgInstall a v s
  | .vcfgClear a v => Sys2Proof.Machine.execVcfgClear a v s
  | .heartbeatSend world die slot => Sys2Proof.Machine.execHeartbeatSend world die slot s
  | .heartbeatTimeout world die slot => Sys2Proof.Machine.execHeartbeatTimeout world die slot s
  | .propose world die slot tag members join => Sys2Proof.Machine.execPropose world die slot tag members join s
  | .proposeReplyTimeout world die slot member => Sys2Proof.Machine.execProposeReplyTimeout world die slot member s
  | .commit world die slot tag members => Sys2Proof.Machine.execCommit world die slot tag members s
  | .joinReq world die slot member => Sys2Proof.Machine.execJoinReq world die slot member s
  | .joinAck world die slot member => Sys2Proof.Machine.execJoinAck world die slot member s
  | .collectivePacket world die slot tag member n desc data => Sys2Proof.Machine.execCollectivePacket world die slot tag member n desc data s
  | .collectiveEnd world die slot n => Sys2Proof.Machine.execCollectiveEnd world die slot n s
  | .switchAttest world die slot switch => Sys2Proof.Machine.execSwitchAttest world die slot switch s
  | .switchLeavesDomain world die slot switch => Sys2Proof.Machine.execSwitchLeavesDomain world die slot switch s
  | .gangJoinReport slice pkg => Sys2Proof.Machine.execGangJoinReport slice pkg s
  | .joinWindowExpire slice => Sys2Proof.Machine.execJoinWindowExpire slice s
  | .recvLimitExpiry ctx => Sys2Proof.Machine.execRecvLimitExpiry ctx s
  | .tstartReached slice => Sys2Proof.Machine.execTstartReached slice s
  | .tdispRun world => Sys2Proof.Machine.execTdispRun world s
  | .railBelow10Percent rail => Sys2Proof.Machine.execRailBelow10Percent rail s
  | .powerFailure => Sys2Proof.Machine.execPowerFailure s

end Sys2Proof.Machine
end

