-- ==== Sys2Proof/Machine/Issue.lean ====
section
/-!
DEFINITION. Who acts in a clk, and in which order: the end of a clk (R220, R271, R347), the order of the accesses and samples of
one clk (R83, R91, R145, R191, R208), and the two pipes of a core (R144).
-/
namespace Sys2Proof.Machine

/-! ## From one clk to the next -/

/-- The pools at the end of a clk (R220). -/
def endClk (s : State) : State := (s.clusters.map (·.1)).foldl poolAdvance s

/-- clk pass up to the clk `stop`, with a stop at each in which SC operations fall due (R271), up to which the injectors have stepped
(R347). -/
def clkTo : Nat → Nat → State → State
  | 0, stop, s => s.tick (stop - s.clk)
  | n + 1, stop, s =>
    match (scNext s (s.clk + 1)).filter (· ≤ stop) with
    | some t => clkTo n stop (scDue (injectors (s.tick (t - s.clk))))
    | none => s.tick (stop - s.clk)

/-- The SC operations that can fall due: each is performed once and answered once. -/
def scStops (s : State) : Nat := 2 * s.reqs.length + 1

/-- dt clk pass. An insertion that waits for a place freed in the clk that ends takes it at the end of the next (R220). -/
def advance (s : State) (dt : Nat) : State :=
  if dt = 0 || !s.power || s.resetDue then s.tick dt
  else
    let s1 := endClk s
    let s2 := clkTo (scStops s1) (s.clk + 1) s1
    injectors (if dt = 1 then s2 else let s3 := endClk s2; clkTo (scStops s3) (s.clk + dt) s3)

/-! ## The instruction that a context is about to issue -/

/-- A context at its boundary with its next instruction fetched: the state after the fetch, and the words. -/
def nextWords (s : State) (k : Nat) : Option (State × Word32 × Word32) :=
  if (s.ctx k).run ≠ .live then none
  else
    match boundaryOf s k with
    | .issue =>
      match supply { s with cur := k } with
      | .words s1 w imm => some (s1, w, imm)
      | .wait _ => none
    | _ => none

/-- Majors of the plane pipe (R144). -/
def planePipe (w : Word32) : Bool := 0x20 ≤ (majorOf w).toNat && (majorOf w).toNat ≤ 0x26

/-- The pipe (plane pipe: true) on which a context of a core is ready to issue. It is not ready where its instruction would leave
it as it is, and not while it waits in one that it has issued (R144). -/
def readyPipe (s : State) (k : Nat) : Option Bool :=
  if (s.ctx k).kind = .controller || (s.ctx k).phase ≠ 0 then none
  else
    match nextWords s k with
    | none => none
    | some (s1, w, imm) =>
      match exec (instrOf w imm) s1 with
      | .next t => if t.ctx k = s1.ctx k then none else some (planePipe w)
      | _ => some (planePipe w)

/-! ## The two pipes of a core (R144) -/

/-- A pipe, or a slot, of a core has issued in this clk. -/
def pipeUsed (s : State) (core : Nat) (p : Bool) : Bool :=
  (s.core core).issueAt = s.clk && (s.core core).issued.any (fun x => x.1 = p)
def slotUsed (s : State) (core n : Nat) : Bool :=
  (s.core core).issueAt = s.clk && (s.core core).issued.any (fun x => x.2 = n)

/-- The slots of a core in the order in which a pipe looks at them: the eleven after the one that it issued last, in turn.
At reset the last is taken as helper 9, so that the control context comes first. DEDUCED (log 118). -/
def pipeOrder (s : State) (core : Nat) (p : Bool) : List Nat :=
  let last := if p then (s.core core).lastPlane else (s.core core).lastScalar
  (List.range 11).map (fun i => (last + 1 + i) % 11)

/-- A pipe issues from a slot. -/
def noteIssue (s : State) (core : Nat) (p : Bool) (n : Nat) : State :=
  s.modCore core (fun c =>
    { c with issueAt := s.clk, issued := (if c.issueAt = s.clk then c.issued else []) ++ [(p, n)],
             lastPlane := if p && n ≤ 10 then n else c.lastPlane, lastScalar := if !p && n ≤ 10 then n else c.lastScalar })

/-- THE ARBITER. The slot to which the pipe `p` of a core gives a turn of its slot `slot`: the first ready context after the one
that the pipe issued last, and none where the pipe has issued in this clk; a context issues at most once in a clk.
DEDUCED (log 118). -/
def issuer (s : State) (core slot : Nat) (p : Bool) : Option Nat :=
  if pipeUsed s core p then none
  else
    (if slot ≤ 10 then pipeOrder s core p else [slot]).find? (fun n =>
      !slotUsed s core n && readyPipe s (core * 16 + n) = some p)

/-- A turn of a context that is ready goes to its pipe's issuer, if there is one. Any other turn stays with its context. -/
def arbitrate (s : State) (k : Nat) : Option State :=
  match readyPipe s k with
  | none => some { s with cur := k }
  | some p => (issuer s (k / 16) (k % 16) p).map (fun n => { noteIssue s (k / 16) p n with cur := k / 16 * 16 + n })

/-! ## The order within one clk -/

/-- The source of an access: cores by (die, cluster, core), the engines of a cluster after its cores (R191). -/
def coreSource (core : Nat) : Nat := core / 4 * 8 + core % 4
def engineSource (cluster : Nat) : Nat := cluster * 8 + 4
/-- The writes of other packages come after those of every cluster. -/
def outsideSource (port : Nat) : Nat := 192 * 8 + port

/-- The place of a request among those performed in one clk: atomics and fills, reads, writes (R191). -/
def accessPlace (s : State) (id : Nat) : Nat × Nat :=
  match s.req id with
  | none => (2, 0)
  | some r =>
    match r.kind with
    | .atomic .. | .fill _ | .sc .. => (1, coreSource (r.ctx / 16))
    | .drain _ | .store _ => (10, coreSource (r.ctx / 16))
    | .engWrite .. => (10, engineSource r.clusterKey)
    | .engRead .. => (3, engineSource r.clusterKey)
    | _ => (3, coreSource (r.ctx / 16))

/-- The place of a context's next instruction among the agents of a clk. Its local accesses precede a write that arrives (R91);
the scalar pipe precedes the plane pipe (R145); the end of a helper, an `arrive`, a definition's use and what a sample looks at
precede the instruction that samples them (R83, R179, R200, R208, R245, R382). -/
def instrPlace (s : State) (k : Nat) (w : Word32) (i : Instr) : Nat :=
  match i with
  | .amo .. | .cas .. | .tenq .. => 1
  | .hquit _ => 4
  | .ret => if (s.ctx k).kind = .helper && (s.ctx k).readS 31 = 0 then 4 else 6
  | .arrive .. => 5
  | .bmask .. | .hjoin .. | .hstat .. | .fwait .. | .fpoll .. | .yield _ | .recv .. => 7
  | .tdefDefine .. | .tdefStatus .. | .tdefClearStatus .. | .tdefUndefine .. => 7
  | .pend _ => 13
  | _ => if planePipe w then 9 else 6

/-- The place of what the context `k` does next. -/
def ownPlace (s : State) (k : Nat) : Nat × Nat :=
  match nextWords s k with
  | none => (6, coreSource (k / 16))
  | some (_, w, imm) => (instrPlace s k w (instrOf w imm), coreSource (k / 16))

/-- The place of a turn of the context `k`: that of the context to which the arbiter gives it. -/
def ctxPlace (s : State) (k : Nat) : Nat × Nat :=
  match (readyPipe s k).bind (issuer s (k / 16) (k % 16)) with
  | none => ownPlace s k
  | some n => ownPlace s (k / 16 * 16 + n)

/-- The place of an agent in the order of one clk: the agents with the lesser place come first. A commit finds a `cwait` that issues
in its clk waiting (R403); the engines take entries before those that complete free them (R222); what expires in a clk follows its
issues (R182, R291, R303). DEDUCED (log 126). -/
def agentPlace (s : State) : Agent → Nat × Nat
  | .ctx k => ctxPlace s k
  | .event (.accessAtOwner id _) => accessPlace s id
  | .event (.atomicAtHome id _) => accessPlace s id
  | .event (.futureFillAtBank id) => accessPlace s id
  | .event (.parkReplay id) => accessPlace s id
  | .event (.walkEnd id) => accessPlace s id
  | .event (.mergeRead core _) => (3, coreSource core)
  | .event (.helperEnd k) => (4, coreSource (k / 16))
  | .event (.recvLimitExpiry k) => (7, coreSource (k / 16))
  | .event (.drainPerform core _ _) => (10, coreSource core)
  | .event (.mergeWriteback core _) => (10, coreSource core)
  | .event (.engineIssue ck) => (3, engineSource ck)
  | .event (.commit ..) => (8, 0)
  | .event (.joinAck ..) => (8, 0)
  | .event (.poolEntryComplete ck _) => (10, engineSource ck)
  | .event (.lateFault ck _ _) => (10, engineSource ck)
  | .event (.flitReceive port _ _ (.write ..)) => (10, outsideSource port)
  | .event (.pdeadExpire core) => (11, coreSource core)
  | .event (.watchdogExpire core) => (11, coreSource core)
  | .event (.budgetExhausted _) => (11, 0)
  | .event (.taskConvert ck) => (11, engineSource ck)
  | .event (.poolInsert ck) => (12, engineSource ck)
  | .event _ => (2, 0)

def placeLt (a b : Nat × Nat) : Bool := a.1 < b.1 || (a.1 = b.1 && a.2 < b.2)

/-- The first of the agents whose place is least, and the others in their order. -/
def firstAgent (s : State) (a : Agent) : List Agent → Agent × List Agent
  | [] => (a, [])
  | b :: l =>
    let (x, r) := firstAgent s b l
    if placeLt (agentPlace s x) (agentPlace s a) then (x, a :: r) else (a, b :: l)

/-- The agent that acts next, and the state in which it does: of the turns that stand in one clk the first in that clk's order,
or, when none is listed, the current context after one clk. -/
def nextTurn (s : State) : Agent × State :=
  match s.turns with
  | [] => (.ctx s.cur, advance s 1)
  | t :: rest =>
    let s1 := advance { s with turns := rest } t.dt
    let now := rest.takeWhile (fun x => x.dt = 0)
    let (a, others) := firstAgent s1 t.agent (now.map (·.agent))
    (a, { s1 with turns := others.map (fun x => { dt := 0, agent := x }) ++ rest.drop now.length })

/-! ## What the agent does -/

/-- A live context at its boundary: what is due before its next instruction, or that instruction. -/
def issueNext (s : State) : Out :=
  match boundaryOf s s.cur with
  | .hold => .next (holdCtx s s.cur)
  | .interrupt => Sys2Proof.Machine.execControllerInterrupt s.cx.core s
  | .idle => .next s
  | .cause => exec (.pendingCauseTake s.cur) s
  | .meter => exec .meterExhausted s
  | .issue =>
    match supply s with
    | .wait s1 => .next s1
    | .words s1 w imm => exec (instrOf w imm) s1

/-- A turn of the context `k`. Without a supply nothing runs; after the SCTL asks for a reset only the boot acts. -/
def runCtx (s : State) (k : Nat) : Out :=
  if !s.power then .fault .noSupply
  else if s.resetDue then .next { s with cur := k }
  else
    match arbitrate s k with
    | none => .next { s with cur := k }
    | some s1 => if s1.cx.run ≠ .live then .next s1 else issueNext s1

/-- A unit makes a step of its own: one of the rows that have no encoding. -/
def runEvent (s : State) (i : Instr) : Out :=
  if (encodeFirst i).isSome || (s.resetDue && (match i with | .boot _ => false | _ => true)) then .next s else exec i s

end Sys2Proof.Machine
end

