-- ==== Sys2Proof/Machine/Step.lean ====
section
/-!
DEFINITION. One step of the package: the next turn, the context or unit that acts in it, and what it does.
-/
namespace Sys2Proof.Machine

/-- THE STEP: the agent whose turn is next acts. -/
def step (s : State) : Out :=
  match nextTurn s with
  | (.ctx k, s1) => runCtx s1 k
  | (.event i, s1) => runEvent s1 i

/-- The words of an instruction whose bits are w, in the buffer from which core 0's control context issues next. -/
def State.withFetchWord (s : State) (nbits w : Nat) : State :=
  let v := w % 2 ^ nbits
  let ws : List Word32 := [BitVec.ofNat 32 v, BitVec.ofNat 32 (v / 2 ^ 32), 0, 0, 0, 0, 0, 0]
  placeNext { s with turns := [], cur := 0, power := true, resetDue := false } ws

end Sys2Proof.Machine
end

