-- ==== Sys2Proof/Safety.lean ====
section
/-!
DEFINITION. The terms in which statements are made: when an instruction acts, what a step leaves alone, what the bits of an
element read as and how an exact value is rounded (spec 03), the invariant of memory, and what a safe run is.
-/
namespace Sys2Proof.Machine

/-! ## When an instruction of the issuing context acts -/

/-- The package has its supply, the issuing context is live, no check of R46 and no meter stops the instruction, and nothing
that it names is locked: it issues now (R46, R92, R144, R299). -/
structure Ready (s : State) (i : Instr) : Prop where
  power : s.power = true
  live : s.cx.run = .live
  meter : ¬ (s.cx.kind = .translator ∧ s.cx.meter.meter = s.cx.meter.lim)
  checks : firstCause s s.cx i = none
  free : held s i = false

/-- An instruction that no late fault was noted for while it waited (R162): its first issue. -/
def Fresh (s : State) : Prop := s.cx.lates = []

/-! ## What a step leaves alone -/

/-- Everything but the issuing context is as it was: memory, cores, clusters, dies, requests, logs, every other context. -/
structure OnlyContext (s t : State) : Prop where
  rest : t = { s with ctxs := t.ctxs }
  others : ∀ k, k ≠ s.cur → t.ctx k = s.ctx k

/-- The special registers of a context and its other state besides its window, its PC and what it holds of fetched words. -/
structure SameSpecials (c d : Ctx) : Prop where
  kind : d.kind = c.kind
  run : d.run = c.run
  place : d.world = c.world ∧ d.die = c.die ∧ d.cluster = c.cluster ∧ d.core = c.core ∧ d.slot = c.slot
  priv : d.priv = c.priv
  window : d.fb = c.fb ∧ d.wlow = c.wlow ∧ d.bsp = c.bsp ∧ d.bsl = c.bsl
  bits : d.ba = c.ba
  masks : d.masks = c.masks
  counters : d.loads = c.loads ∧ d.stores = c.stores ∧ d.copies = c.copies ∧ d.tiles = c.tiles
  status : d.ast = c.ast
  grant : d.hgrant = c.hgrant ∧ d.planes = c.planes ∧ d.rows = c.rows ∧ d.cols = c.cols
  trap : d.trap = c.trap
  pending : d.pending = c.pending
  notices : d.notices = c.notices ∧ d.notqOvf = c.notqOvf ∧ d.pnote = c.pnote
  preempt : d.preq = c.preq ∧ d.pdeadAt = c.pdeadAt ∧ d.restored = c.restored
  waits : d.arrivals = c.arrivals ∧ d.handles = c.handles ∧ d.rank = c.rank
  slice : d.gidx = c.gidx ∧ d.ginfo = c.ginfo ∧ d.arg = c.arg ∧ d.grank = c.grank
  controller : d.cien = c.cien ∧ d.civec = c.civec ∧ d.ciret = c.ciret ∧ d.cfault = c.cfault ∧ d.cfaddr = c.cfaddr ∧
    d.cfinfo = c.cfinfo

/-- The frame of an instruction of n bytes whose one effect is a value in window register d. -/
structure RegisterFrame (s t : State) (d : SReg) (n : Nat) : Prop where
  only : OnlyContext s t
  pc : t.cx.pc = s.cx.pc + BitVec.ofNat 48 n
  zero : t.rS 0 = 0
  others : ∀ r : SReg, r ≠ d → t.rS r = s.rS r
  specials : SameSpecials s.cx t.cx

/-- What a write of v leaves in window register d: s0 discards it. -/
def written (d : SReg) (v : Word) : Word := if d = 0 then 0 else v

/-- The instruction completes with v in window register d, and changes nothing else but the PC. -/
def Writes (s : State) (i : Instr) (d : SReg) (v : Word) (n : Nat) : Prop :=
  ∃ t, exec i s = .next t ∧ t.rS d = written d v ∧ RegisterFrame s t d n

/-- The transfer retires at a target with its link in gd (s0: no link), and changes nothing else. -/
def Transfers (s : State) (i : Instr) (d : SReg) (link : Word) (target : BitVec 48) : Prop :=
  ∃ t, exec i s = .next t ∧ t.cx.pc = target ∧ t.rS d = written d link ∧ t.rS 0 = 0 ∧ (∀ r, r ≠ d → t.rS r = s.rS r) ∧
    OnlyContext s t ∧ SameSpecials s.cx t.cx ∧ t.cx.fetched = []

/-- The target of a word offset from the PC. -/
def relative (s : State) (off : Int) : BitVec 48 := s.cx.pc + BitVec.ofInt 48 (4 * off)

/-- The window after a slide by n: a register shows what stood n higher; one that enters from above shows zero (R77). -/
def Slid (s t : State) (n : Nat) (link : Word) : Prop :=
  t.rS 0 = 0 ∧ t.rS 31 = link ∧
    ∀ r : Nat, 1 ≤ r → r ≤ 30 → t.rS (BitVec.ofNat 5 r) = if r + n ≤ 31 then s.rS (BitVec.ofNat 5 (r + n)) else 0

/-! ## Conditions on memory accesses -/

/-- A compute context: control or helper (R71). -/
def Ctx.isCompute (c : Ctx) : Bool := c.kind = .control || c.kind = .helper

/-- No granule is uncorrectable or waits with a flipped bit, and no injection is armed (R334, R346, R347). -/
def SoundMemory (s : State) : Prop := s.ues = [] ∧ s.flips = [] ∧ ∀ w d, (s.wd w d).armed = []

/-- No superstep of the core records its writes (R340). -/
def NoSuperstep (s : State) (core : Nat) : Prop := (s.core core).snap.isOpen = false ∧ (s.core core).older = none

/-- No suspended node, copy or task of the core touches n bytes at an address, and none is being forced: a store there waits for
nothing (R93, R155, R223). -/
def StoreClear (s : State) (va : Word) (n : Nat) : Prop :=
  s.cx.forcing = [] ∧ copyMeets s s.cx.coreKey (accessFoot s va n) = false ∧
    ∀ x ∈ (s.core s.cx.coreKey).siding, nodeMeets s s.cx.coreKey x (accessFoot s va n) = false

/-- An atomic of n bytes at an address finds nothing in its way: it has not begun, nothing of the core touches its bytes, and
the core's journal is empty (R155, R223, R268). -/
def AtomicFree (s : State) (va : Word) (n : Nat) : Prop :=
  StoreClear s va n ∧ s.cx.phase = 0 ∧ (s.core s.cx.coreKey).journal = []

/-- What an atomic of n bytes leaves where it found `old`: operators 0 to 6 of R35 on an operand, and 7, compare and swap. -/
def atomicLeaves (o n old operand expect : Nat) : Nat :=
  let v := operand % 2 ^ (8 * n)
  let signed (x : Nat) : Int := (BitVec.ofNat (8 * n) x).toInt
  match o with
  | 0 => (old + v) % 2 ^ (8 * n)
  | 1 => if signed v < signed old then v else old
  | 2 => if signed old < signed v then v else old
  | 3 => old &&& v
  | 4 => old ||| v
  | 5 => old ^^^ v
  | 6 => v
  | _ => if old = expect % 2 ^ (8 * n) then v else old

/-- The instruction retires without writing a register: the window and the special registers are as they were. -/
structure NoRegisters (s t : State) (n : Nat) : Prop where
  pc : t.cx.pc = s.cx.pc + BitVec.ofNat 48 n
  regs : ∀ r : SReg, t.rS r = s.rS r
  specials : SameSpecials s.cx t.cx

/-- The frame of a store of bytes at a location: those bytes, the issuing context's PC, and nothing else. -/
structure StoreFrame (s t : State) (loc : Nat) (bs : List Byte) (n : Nat) : Prop where
  rest : t = { s with ctxs := t.ctxs, mem := t.mem }
  others : ∀ k, k ≠ s.cur → t.ctx k = s.ctx k
  bytes : ∀ a, t.byte a = if loc ≤ a ∧ a < loc + bs.length then bs.getD (a - loc) 0 else s.byte a
  context : NoRegisters s t n

/-- The shape lies within the planes: 32 rows of 64 columns (R117, R119). -/
def SoundShape (s : State) : Prop := s.cx.rows ≤ 32 ∧ s.cx.cols ≤ 64

/-- The core has no suspended node and its cluster no copy and no task: a store waits for nothing (R155, R223). -/
def Quiet (s : State) : Prop :=
  s.cx.demandAge = none ∧ (s.core s.cx.coreKey).siding = [] ∧ (s.cluster (s.cx.coreKey / 4)).copies = [] ∧
    (s.cluster (s.cx.coreKey / 4)).tasks = []

/-- The frame of an instruction of n bytes whose one result lies in plane d, within the shape. -/
structure PlaneFrame (s t : State) (d : PReg) (n : Nat) : Prop where
  pc : t.cx.pc = s.cx.pc + BitVec.ofNat 48 n
  regs : ∀ r : SReg, t.rS r = s.rS r
  masks : t.cx.masks = s.cx.masks
  shape : t.cx.rows = s.cx.rows ∧ t.cx.cols = s.cx.cols ∧ t.cx.planes = s.cx.planes
  mem : t.mem = s.mem
  planes : ∀ p r c, p < 16 → r < 32 → c < 64 → p ≠ d.toNat ∨ s.cx.rows ≤ r ∨ s.cx.cols ≤ c →
    planeAt t s.cx.coreKey p r c = planeAt s s.cx.coreKey p r c
  others : ∀ k, k ≠ s.cur → t.ctx k = s.ctx k

/-- Nothing of the core is under way, no record of it stands in its cluster's ring, and it has no helper: its control context's part
of the slice can end (R288, R417). -/
def IdleCore (s : State) (core : Nat) : Prop :=
  (∀ n, n < 11 → (s.ctx (core * 16 + n)).loads = 0 ∧ filling s (core * 16 + n) = false) ∧ ringHolds s core = false ∧ (∀ n, 1 ≤ n → n < 11 → (s.ctx (core * 16 + n)).run = .free) ∧
    (s.core core).journal = [] ∧ (s.core core).siding = [] ∧ (s.cluster (core / 4)).copies = [] ∧
    (s.cluster (core / 4)).tasks = []

/-- A world's completion ring on a die is owed one completion more (R280): TAG, STATUS, CAUSE, OFFSET and two further words. -/
def Owes (s t : State) (world die tag status cause : Nat) (offset x y : Word) : Prop :=
  (t.wd world die).heldDone = (s.wd world die).heldDone ++
    [[BitVec.ofNat 64 tag ||| (BitVec.ofNat 64 status <<< 32) ||| (BitVec.ofNat 64 cause <<< 48), offset, x, y]]

/-- One cause more is pending for a context, and memory is as it was. -/
def Pends (s t : State) (k : Nat) (cause : Cause) (taddr tinfo : Word) : Prop :=
  (t.ctx k).pending = (s.ctx k).pending ++ [{ cause := cause, taddr := taddr, tinfo := tinfo }] ∧ t.mem = s.mem

/-- A unit that goes back to a checkpoint revokes what it sent after it (R332): of the effects in `sent`, beside those in `revoked`. -/
def Revokes (sent revoked : List Effect) (t : State) (unit checkpoint : Nat) : Prop :=
  t.effects = sent.filter (fun e => ¬ (e.src = unit ∧ checkpoint < e.sent)) ∧
    t.revoked = revoked ++ sent.filter (fun e => e.src = unit ∧ checkpoint < e.sent)

/-- An asynchronous cause can be held pending for a context (R170). -/
def Takes (s : State) (k : Nat) : Prop := (s.ctx k).run = .live ∧ (s.ctx k).kind = .control ∧ (s.ctx k).pending.length < 8

/-! ## Numbers, as spec 03 gives them -/

/-- What an element reads as: a number, with the sign that a zero has, an infinity, a NaN or poison. -/
inductive Reading where
  | num (neg : Bool) (v : ℚ)
  | inf (neg : Bool)
  | nan
  | poison
  deriving DecidableEq

/-- The whole number that an element of an integer format reads as. -/
def Reading.int : Reading → ℤ
  | .num _ v => ⌊v⌋
  | _ => 0

def Reading.neg : Reading → Reading
  | .num s v => .num (!s) (-v)
  | .inf s => .inf (!s)
  | x => x

def Reading.abs : Reading → Reading
  | .num _ v => .num false |v|
  | .inf _ => .inf false
  | x => x

def Reading.scale (e : ℤ) : Reading → Reading
  | .num s v => .num s (v * 2 ^ e)
  | x => x

/-- The exact sum: an exact zero of operands of opposite sign is −0 under RDN alone; ∞ − ∞ is invalid (R52, R59). -/
def Reading.add (mode : Rnd) : Reading → Reading → Reading × FlagSet
  | .poison, _ => (.poison, 0)
  | _, .poison => (.poison, 0)
  | .nan, _ => (.nan, 0)
  | _, .nan => (.nan, 0)
  | .inf s, .inf t => if s = t then (.inf s, 0) else (.nan, fINV)
  | .inf s, .num _ _ => (.inf s, 0)
  | .num _ _, .inf t => (.inf t, 0)
  | .num s v, .num t w => (.num (if v + w = 0 then (if s = t then s else decide (mode = .rdn)) else decide (v + w < 0)) (v + w), 0)

/-- The exact product: 0 × ∞ is invalid (R59). -/
def Reading.mul : Reading → Reading → Reading × FlagSet
  | .poison, _ => (.poison, 0)
  | _, .poison => (.poison, 0)
  | .nan, _ => (.nan, 0)
  | _, .nan => (.nan, 0)
  | .inf s, .inf t => (.inf (s != t), 0)
  | .inf s, .num t w => if w = 0 then (.nan, fINV) else (.inf (s != t), 0)
  | .num s v, .inf t => if v = 0 then (.nan, fINV) else (.inf (s != t), 0)
  | .num s v, .num t w => (.num (s != t) (v * w), 0)

/-- The exact quotient: 0 ÷ 0 and ∞ ÷ ∞ are invalid, a nonzero number by zero is a division by zero (R59). -/
def Reading.div : Reading → Reading → Reading × FlagSet
  | .poison, _ => (.poison, 0)
  | _, .poison => (.poison, 0)
  | .nan, _ => (.nan, 0)
  | _, .nan => (.nan, 0)
  | .inf _, .inf _ => (.nan, fINV)
  | .inf s, .num t _ => (.inf (s != t), 0)
  | .num s _, .inf t => (.num (s != t) 0, 0)
  | .num s v, .num t w =>
    if w = 0 then (if v = 0 then (.nan, fINV) else (.inf (s != t), fDVZ)) else (.num (s != t) (v / w), 0)

/-- a < b as numbers: the zeros are equal. -/
def Reading.less : Reading → Reading → Bool
  | .inf s, .inf t => s && !t
  | .inf s, .num _ _ => s
  | .num _ _, .inf t => !t
  | .num _ v, .num _ w => decide (v < w)
  | _, _ => false

/-- a is below b where −0 is below +0 (R126). -/
def Reading.below : Reading → Reading → Bool
  | .num s v, .num t w => decide (v < w) || (decide (v = w) && s && !t)
  | a, b => a.less b

/-- The smaller and the larger (R126): a NaN gives way to the other operand. -/
def Reading.min : Reading → Reading → Reading
  | .poison, _ => .poison
  | _, .poison => .poison
  | .nan, b => b
  | a, .nan => a
  | a, b => if b.below a then b else a
def Reading.max : Reading → Reading → Reading
  | .poison, _ => .poison
  | _, .poison => .poison
  | .nan, b => b
  | a, .nan => a
  | a, b => if a.below b then b else a

/-- The floating-point formats by code: exponent and fraction bits (R49, R51). -/
def codeFloat : Nat → Option FloatFmt
  | 0 => some { ebits := 11, fbits := 52 }
  | 1 => some { ebits := 8, fbits := 23 }
  | 2 => some { ebits := 8, fbits := 15 }
  | 3 => some { ebits := 5, fbits := 10 }
  | 4 => some { ebits := 8, fbits := 7 }
  | _ => none

/-- Their canonical NaN (R52). -/
def codeNaN : Nat → Nat
  | 0 => 0x7FF8000000000000
  | 1 => 0x7FC00000
  | 2 => 0x7FC000
  | 3 => 0x7E00
  | _ => 0x7FC0

/-- The integer formats by code: width, least and greatest value (R49); 32 is I32 (R69), and 33 stands for the plane type N32. -/
def codeRange : Nat → Option (Nat × ℤ × ℤ)
  | 5 => some (16, -32768, 32767)
  | 6 => some (16, 0, 65535)
  | 7 => some (12, -2048, 2047)
  | 8 => some (8, -128, 127)
  | 9 => some (8, 0, 255)
  | 10 => some (6, -32, 31)
  | 11 => some (6, 0, 63)
  | 12 => some (5, -16, 15)
  | 14 => some (4, -8, 7)
  | 15 => some (4, 0, 15)
  | 16 => some (3, -4, 3)
  | 17 => some (2, -2, 1)
  | 32 => some (32, -2147483648, 2147483647)
  | 33 => some (32, 0, 4294967295)
  | _ => none

/-- The codes: the twenty operand formats, I32, N32. -/
def formatCodes : List Nat := List.range 20 ++ [32, 33]

/-- R51: the value of the bits of a floating-point element. -/
def FloatFmt.reading (f : FloatFmt) (b : Nat) : Reading :=
  let neg := b.testBit (f.ebits + f.fbits)
  let e := b / 2 ^ f.fbits % 2 ^ f.ebits
  let frac := b % 2 ^ f.fbits
  let significand : Nat := if e = 0 then frac else 2 ^ f.fbits + frac
  if e = 2 ^ f.ebits - 1 then (if frac = 0 then .inf neg else .nan)
  else .num neg ((if neg then -1 else 1) * significand * 2 ^ ((max e 1 : Nat) - (f.bias : ℤ) - f.fbits))

/-- R54, R56: the value of three digits. -/
def m8Value (b : Nat) : ℤ :=
  let u := (b % 256 * 8421376 + b / 256 % 256 * 16711425 + b / 65536 % 512 * 8421120) % 16776960
  if 8388480 ≤ u then (u : ℤ) - 16776960 else u

/-- R54: the element of an integer. -/
def m8Bits (x : ℤ) : Nat := (x % 255 + 256 * (x % 256) + 65536 * (x % 257)).toNat

/-- A whole number as a reading. -/
def whole (n : ℤ) : Reading := .num (decide (n < 0)) n

/-- R49, R51, R53 to R56: what the bits of an element of a format read as. -/
def reading (c b : Nat) : Reading :=
  match codeFloat c, codeRange c with
  | some f, _ => f.reading b
  | none, some (w, lo, _) => whole (if lo < 0 ∧ b.testBit (w - 1) = true then (b % 2 ^ w : Nat) - 2 ^ w else (b % 2 ^ w : Nat))
  | none, none =>
    if c = 13 then (if b % 256 = 255 ∨ 257 ≤ b / 65536 % 512 then .poison else whole (m8Value b))
    else if c = 18 then (match b % 4 with | 0 => whole 0 | 1 => whole 1 | 3 => whole (-1) | _ => .poison)
    else whole (if b % 2 = 0 then -1 else 1)

/-- The numbers that a significand of f's precision and any exponent give, or, bounded, one not below f's least (R59). -/
def FloatFmt.Grid (f : FloatFmt) (bounded : Bool) (x : ℝ) : Prop :=
  ∃ z k : ℤ, x = z * 2 ^ k ∧ |z| < 2 ^ (f.fbits + 1) ∧ (bounded = true → 1 - (f.bias : ℤ) - f.fbits ≤ k)

def Whole (x : ℝ) : Prop := ∃ z : ℤ, x = z

/-- x is v rounded to the numbers of G: toward −∞, +∞ or zero, or to the nearest, where of two equally near the one is taken that is
an even multiple of their distance (R59). -/
def Nearest (G : ℝ → Prop) (mode : Rnd) (v x : ℝ) : Prop :=
  G x ∧ match mode with
  | .rdn => x ≤ v ∧ ∀ y, G y → y ≤ v → y ≤ x
  | .rup => v ≤ x ∧ ∀ y, G y → v ≤ y → x ≤ y
  | .rtz => |x| ≤ |v| ∧ 0 ≤ x * v ∧ ∀ y, G y → |y| ≤ |v| → 0 ≤ y * v → |y| ≤ |x|
  | .rne => ∀ y, G y → |v - x| ≤ |v - y| ∧ (y ≠ x → |v - y| = |v - x| → ∃ z : ℤ, x = 2 * z * |y - x|)

/-- R59: r is ROUND.mode of the exact value v to f, with its flags; a v of 0 has the sign `neg`. -/
def FloatFmt.Rounds (f : FloatFmt) (mode : Rnd) (neg : Bool) (v : ℝ) (r : Nat × FlagSet) : Prop :=
  ∃ y x : ℝ, Nearest (f.Grid false) mode v y ∧ Nearest (f.Grid true) mode v x ∧ r.1 < 2 ^ (1 + f.ebits + f.fbits) ∧
    (2 ^ (f.bias + 1) ≤ |y| → r.2 = fOFL ||| fINX ∧ ∃ s : Bool, (s = true ↔ v < 0) ∧
      (mode = .rne ∨ mode = .rdn ∧ v < 0 ∨ mode = .rup ∧ 0 < v → f.reading r.1 = .inf s) ∧
      (mode = .rtz ∨ mode = .rdn ∧ 0 < v ∨ mode = .rup ∧ v < 0 → ∃ q : ℚ, f.reading r.1 = .num s q ∧
        (|q| : ℝ) = (2 - 2 ^ (-(f.fbits : ℤ))) * 2 ^ f.bias)) ∧
    (|y| < 2 ^ (f.bias + 1) → (∃ (s : Bool) (q : ℚ), f.reading r.1 = .num s q ∧ (q : ℝ) = x ∧ (v < 0 → s = true) ∧
        (0 < v → s = false) ∧ (v = 0 → s = neg)) ∧
      (x = v → r.2 = 0) ∧ (x ≠ v → 2 ^ (1 - (f.bias : ℤ)) ≤ |y| → r.2 = fINX) ∧
      (x ≠ v → |y| < 2 ^ (1 - (f.bias : ℤ)) → r.2 = fINX ||| fUFL))

/-- The float → integer row of R70: z is the value rounded to an integer and clamped to lo up to hi, and g are the flags. -/
def Clamps (mode : Rnd) (lo hi : ℤ) (x : Reading) (z : ℤ) (g : FlagSet) : Prop :=
  match x with
  | .num _ v => ∃ n : ℤ, Nearest Whole mode v n ∧ (hi < n → z = hi ∧ g = fSAT) ∧ (n < lo → z = lo ∧ g = fSAT) ∧
      (lo ≤ n → n ≤ hi → z = n ∧ g = if (n : ℚ) = v then 0 else fINX)
  | .inf neg => z = (if neg then lo else hi) ∧ g = fSAT
  | .nan => z = 0 ∧ g = fINV
  | .poison => False

/-- R70: r is a value in the format c, with the flags. A NaN in B1 sets INV alone (log 104). -/
def ConvertsTo (mode : Rnd) (c : Nat) (x : Reading) (r : Nat × FlagSet) : Prop :=
  (∀ f, codeFloat c = some f → match x with
    | .num neg v => f.Rounds mode neg v r
    | .inf neg => f.reading r.1 = .inf neg ∧ r.1 < 2 ^ (1 + f.ebits + f.fbits) ∧ r.2 = 0
    | .nan => r = (codeNaN c, 0)
    | .poison => r = (codeNaN c, fPSN)) ∧
  (∀ w lo hi, codeRange c = some (w, lo, hi) → (x = .poison → r = ((lo % 2 ^ w).toNat, fPSN)) ∧
    (x ≠ .poison → ∃ z g, Clamps mode lo hi x z g ∧ r = ((z % 2 ^ w).toNat, g))) ∧
  (c = 13 → (x = .poison → r = (0x01FFFFFF, fPSN)) ∧
    (x ≠ .poison → ∃ z g, Clamps mode (-8388480) 8388479 x z g ∧ r = (m8Bits z, g))) ∧
  (c = 18 → (x = .poison → r = (2, fPSN)) ∧ (x ≠ .poison → ∃ z g, Clamps mode (-1) 1 x z g ∧ r = ((z % 4).toNat, g))) ∧
  (c = 19 → match x with
    | .num _ v => ∃ n : ℤ, Nearest Whole mode v n ∧ r = (if 0 ≤ n then 1 else 0, if v = 1 ∨ v = -1 then 0 else fINX)
    | .inf neg => r = (if neg then 0 else 1, fINX)
    | .nan => r = (1, fINV)
    | .poison => r = (0, fPSN))

/-- r is the exact result of an operation in the format c, with the flags of both. -/
def Gives (mode : Rnd) (c : Nat) (x : Reading × FlagSet) (r : Nat × FlagSet) : Prop :=
  ∃ g, ConvertsTo mode c x.1 (r.1, g) ∧ r.2 = x.2 ||| g

/-- Steps over a list from a start, in its order, with the flags of all of them. -/
def Runs {A B : Type} (step : A → B → A × FlagSet → Prop) : A → List B → A × FlagSet → Prop
  | a, [], r => r = (a, 0)
  | a, x :: l, r => ∃ b g h, step a x (b, g) ∧ Runs step b l (r.1, h) ∧ r.2 = g ||| h

/-- COMBINE of a chunk's exact sum x under the scale exponent e (R64, R65, R66). -/
def Combines (mode : Rnd) (a : Acc) (x e : ℤ) (r : Acc × FlagSet) : Prop :=
  match a with
  | .float f b => ∃ b' g, r = (.float f b', g) ∧ Gives mode 1 ((reading 1 b).add mode (.num (decide (x < 0)) (x * 2 ^ e))) (b', g)
  | .i32 n => ∃ t : ℤ, Nearest Whole mode (x * 2 ^ e) t ∧
      r = (.i32 (max (-2 ^ 31) (min (2 ^ 31 - 1) (n + t))), (if (t : ℚ) = x * 2 ^ e then 0 else fINX) |||
        (if n + t < -2 ^ 31 ∨ 2 ^ 31 - 1 < n + t then fSAT else 0))
  | .m8 d => r = (.m8 { d0 := ((d.d0 + x) % 255).toNat, d1 := ((d.d1 + x) % 256).toNat, d2 := ((d.d2 + x) % 257).toNat }, 0)

/-- FINISH (R68). -/
def Finishes (mode : Rnd) (c : Nat) (a : Acc) (r : Nat × FlagSet) : Prop :=
  match a with
  | .float f b => if codeFloat c = some f then r = (b, 0) else ConvertsTo mode c (f.reading b) r
  | .i32 n => r = ((n % 2 ^ 32).toNat, 0)
  | .m8 d => r = (d.d0 + 256 * d.d1 + 65536 * d.d2, 0)

/-- What an engine reads of an element (R57, R217, R228): the scale of an M8 element is ignored but for −128. -/
def engineReading (s : State) (c : Cmd) (t : Tid) (r col : Nat) : Reading :=
  match scaleAt s c t r col with
  | none => whole 0
  | some e => if t.fmt = 13 then reading 13 (elemAt s c t r col) else (reading t.fmt (elemAt s c t r col)).scale e

/-- The rows and flags of a sub-tile: an element for each of the rows and columns. -/
def TileOf (o : SubOut) (rows cols : List Nat) (c0 : Nat) (elem : Nat → Nat → Nat × FlagSet) : Prop :=
  o.rows = rows.map (fun r => (r, c0, cols.map (fun k => (elem r k).1))) ∧
    ∀ n, o.flags.getLsbD n = true ↔ ∃ r ∈ rows, ∃ k ∈ cols, (elem r k).2.getLsbD n = true

/-! ## The invariant of memory -/

/-- Memory is in its canonical form: equal memories are equal data. -/
def MemoryInv (s : State) : Prop := Memory.wf s.mem = true

/-! ## Safe runs -/

/-- A step that neither faults nor refuses. -/
def Proceeds (s : State) : Prop := ∃ t, step s = .next t

/-- A state reached from reset by steps. -/
inductive Reached : State → Prop where
  | reset : Reached State.reset
  | step {s t : State} : Reached s → step s = .next t → Reached t

/-- A safe run from a state: n steps, none of which faults or refuses. -/
def SafeFor : Nat → State → Prop
  | 0, _ => True
  | n + 1, s => ∃ t, step s = .next t ∧ SafeFor n t

end Sys2Proof.Machine
end

