-- ==== Sys2Proof/Certificates/Slice0/Obligations.lean ====
section
/-!
DEFINITION. The statements for the provers.
-/
open Sys2Proof Sys2Proof.Machine


/-! ## Scalar results -/

/-- R85: each register instruction completes with its value in gd, wrapping modulo 2^64, and changes nothing else but the PC.
R85 and R86: signed quotients truncate toward zero, a signed remainder has the sign of the dividend, and division by zero gives
all ones or the dividend; the signed overflow gives −2^63 and 0. R87 and R88: the immediate forms; imm17 is extended by its
sign, `liu` shifts its imm21 by 17. -/
def Obligations.ScalarResults : Prop :=
  (∀ (s : State) (d a b : GReg), Fresh s →
      (Ready s (.add d a b) → Writes s (.add d a b) (gS d) (s.rG a + s.rG b) 4) ∧
      (Ready s (.sub d a b) → Writes s (.sub d a b) (gS d) (s.rG a - s.rG b) 4) ∧
      (Ready s (.and d a b) → Writes s (.and d a b) (gS d) (s.rG a &&& s.rG b) 4) ∧
      (Ready s (.or d a b) → Writes s (.or d a b) (gS d) (s.rG a ||| s.rG b) 4) ∧
      (Ready s (.xor d a b) → Writes s (.xor d a b) (gS d) (s.rG a ^^^ s.rG b) 4) ∧
      (Ready s (.shl d a b) → Writes s (.shl d a b) (gS d) (s.rG a <<< ((s.rG b).toNat % 64)) 4) ∧
      (Ready s (.shr d a b) → Writes s (.shr d a b) (gS d) (s.rG a >>> ((s.rG b).toNat % 64)) 4) ∧
      (Ready s (.sar d a b) → Writes s (.sar d a b) (gS d) ((s.rG a).sshiftRight ((s.rG b).toNat % 64)) 4) ∧
      (Ready s (.mul d a b) → Writes s (.mul d a b) (gS d) (BitVec.ofNat 64 ((s.rG a).toNat * (s.rG b).toNat)) 4) ∧
      (Ready s (.mulh d a b) →
        Writes s (.mulh d a b) (gS d) (BitVec.extractLsb' 64 64 ((s.rG a).signExtend 128 * (s.rG b).signExtend 128)) 4) ∧
      (Ready s (.mulhz d a b) →
        Writes s (.mulhz d a b) (gS d) (BitVec.extractLsb' 64 64 ((s.rG a).zeroExtend 128 * (s.rG b).zeroExtend 128)) 4) ∧
      (Ready s (.slt d a b) → Writes s (.slt d a b) (gS d) (if (s.rG a).toInt < (s.rG b).toInt then 1 else 0) 4) ∧
      (Ready s (.sltz d a b) → Writes s (.sltz d a b) (gS d) (if (s.rG a).toNat < (s.rG b).toNat then 1 else 0) 4)) ∧
  (∀ (s : State) (d a b : GReg), Fresh s →
      (Ready s (.div d a b) → Writes s (.div d a b) (gS d)
        (if s.rG b = 0 then BitVec.allOnes 64 else BitVec.ofInt 64 ((s.rG a).toInt.tdiv (s.rG b).toInt)) 4) ∧
      (Ready s (.divz d a b) → Writes s (.divz d a b) (gS d)
        (if s.rG b = 0 then BitVec.allOnes 64 else BitVec.ofNat 64 ((s.rG a).toNat / (s.rG b).toNat)) 4) ∧
      (Ready s (.rem d a b) → Writes s (.rem d a b) (gS d)
        (if s.rG b = 0 then s.rG a else BitVec.ofInt 64 ((s.rG a).toInt.tmod (s.rG b).toInt)) 4) ∧
      (Ready s (.remz d a b) → Writes s (.remz d a b) (gS d)
        (if s.rG b = 0 then s.rG a else BitVec.ofNat 64 ((s.rG a).toNat % (s.rG b).toNat)) 4)) ∧
  (∀ (s : State) (d a : GReg) (imm : BitVec 17) (n : BitVec 6) (j : BitVec 21), Fresh s →
      (Ready s (.addi d a imm) → Writes s (.addi d a imm) (gS d) (s.rG a + BitVec.ofInt 64 imm.toInt) 4) ∧
      (Ready s (.andi d a imm) → Writes s (.andi d a imm) (gS d) (s.rG a &&& BitVec.ofInt 64 imm.toInt) 4) ∧
      (Ready s (.ori d a imm) → Writes s (.ori d a imm) (gS d) (s.rG a ||| BitVec.ofInt 64 imm.toInt) 4) ∧
      (Ready s (.xori d a imm) → Writes s (.xori d a imm) (gS d) (s.rG a ^^^ BitVec.ofInt 64 imm.toInt) 4) ∧
      (Ready s (.shli d a n) → Writes s (.shli d a n) (gS d) (s.rG a <<< n.toNat) 4) ∧
      (Ready s (.shri d a n) → Writes s (.shri d a n) (gS d) (s.rG a >>> n.toNat) 4) ∧
      (Ready s (.sari d a n) → Writes s (.sari d a n) (gS d) ((s.rG a).sshiftRight n.toNat) 4) ∧
      (Ready s (.slti d a imm) → Writes s (.slti d a imm) (gS d) (if (s.rG a).toInt < imm.toInt then 1 else 0) 4) ∧
      (Ready s (.sltzi d a imm) →
        Writes s (.sltzi d a imm) (gS d) (if (s.rG a).toNat < (BitVec.ofInt 64 imm.toInt).toNat then 1 else 0) 4) ∧
      (Ready s (.liu d j) → Writes s (.liu d j) (gS d) (BitVec.ofInt 64 (j.toInt * 2 ^ 17)) 4))

/-- R103: counts of zero and set bits, reversals, selection and the fields of an address. The offset field that `addva` advances
has 48, 20, 22 or 26 bits. R104 and R105: bits p to p + l of the source, bits above 63 read as 0 or dropped; the three
placements of a constant. -/
def Obligations.BitAndFieldResults : Prop :=
  (∀ (s : State) (d a b : SReg), Fresh s →
      (Ready s (.clz d a) → ∃ n, n ≤ 64 ∧ (∀ k, 64 - n ≤ k → k < 64 → (s.rS a).getLsbD k = false) ∧
        (n < 64 → (s.rS a).getLsbD (63 - n) = true) ∧ Writes s (.clz d a) d (BitVec.ofNat 64 n) 4) ∧
      (Ready s (.ctz d a) → ∃ n, n ≤ 64 ∧ (∀ k, k < n → (s.rS a).getLsbD k = false) ∧
        (n < 64 → (s.rS a).getLsbD n = true) ∧ Writes s (.ctz d a) d (BitVec.ofNat 64 n) 4) ∧
      (Ready s (.popc d a) →
        Writes s (.popc d a) d (BitVec.ofNat 64 ((List.range 64).countP (fun k => (s.rS a).getLsbD k))) 4) ∧
      (Ready s (.bitrev d a) → ∃ v : Word, (∀ k, k < 64 → v.getLsbD (63 - k) = (s.rS a).getLsbD k) ∧ Writes s (.bitrev d a) d v 4) ∧
      (Ready s (.bswap d a) → ∃ v : Word, (∀ k, k < 8 → v.extractLsb' (8 * (7 - k)) 8 = (s.rS a).extractLsb' (8 * k) 8) ∧
        Writes s (.bswap d a) d v 4) ∧
      (Ready s (.sel d a b) → Writes s (.sel d a b) d (if s.rS d ≠ 0 then s.rS a else s.rS b) 4) ∧
      (Ready s (.mkva d a b) → Writes s (.mkva d a b) d ((s.rS b).extractLsb' 0 15 ++ (s.rS a).extractLsb' 0 49) 4) ∧
      (Ready s (.dieof d a) → Writes s (.dieof d a) d (((s.rS a).extractLsb' 49 15).zeroExtend 64) 4) ∧
      (Ready s (.addva d a b) → ∃ v : Word, Writes s (.addva d a b) d v 4 ∧
        let w := if (s.rS a).getLsbD 48 = false ∨ (s.rS a).extractLsb' 49 15 = 0x7FFF#15 then 48
                 else if (s.rS a).extractLsb' 46 2 = 0#2 then 20 else if (s.rS a).extractLsb' 46 2 = 1#2 then 22 else 26
        v.toNat % 2 ^ w = ((s.rS a).toNat + (s.rS b).toNat) % 2 ^ w ∧ v.toNat / 2 ^ w = (s.rS a).toNat / 2 ^ w)) ∧
  (∀ (s : State) (d a : SReg) (p l : BitVec 6) (m : BitVec 32), Fresh s →
      (Ready s (.bfx d a p l) → ∃ v : Word, Writes s (.bfx d a p l) d v 4 ∧
        ∀ k, v.getLsbD k = (decide (k ≤ l.toNat) && (s.rS a).getLsbD (p.toNat + k))) ∧
      (Ready s (.bfi d a p l) → ∃ v : Word, Writes s (.bfi d a p l) d v 4 ∧
        ∀ k, k < 64 → v.getLsbD k = if p.toNat ≤ k ∧ k ≤ p.toNat + l.toNat then (s.rS a).getLsbD (k - p.toNat)
          else (s.rS d).getLsbD k) ∧
      (Ready s (.ldk d m) → Writes s (.ldk d m) d (BitVec.ofInt 64 m.toInt) 8) ∧
      (Ready s (.ldkZ d m) → Writes s (.ldkZ d m) d (BitVec.ofNat 64 m.toNat) 8) ∧
      (Ready s (.ldkHi d m) → Writes s (.ldkHi d m) d (m ++ (s.rS d).extractLsb' 0 32) 8))

/-! ## Control transfers -/

/-- R96: each branch goes to PC + 4 × offset when its condition holds, and to PC + 4 when it does not. A target always lies on a
word where the PC does; a translator's lies in its section. R97: `jal` and `jalr` link PC + 4; `jalr` reads its register before
the link is written, and takes bits 47:0. Model choices: log 98 (the link in 48 bits). R95: a target off a word boundary raises
0x026 at the transferring instruction, exactly, with TADDR the target (its low 48 bits, the model's choice: log 68); the link
register keeps its value. -/
def Obligations.TransferResults : Prop :=
  (∀ (s : State) (a b : GReg) (o : BitVec 14), Fresh s → s.cx.pc.toNat % 4 = 0 →
      (s.cx.kind = .translator → insideX s.cx (relative s o.toInt) = true) →
      let goes (i : Instr) (taken : Bool) : Prop :=
        Ready s i → if taken then Transfers s i 0 0 (relative s o.toInt) else Writes s i 0 0 4
      goes (.beq a b o) (s.rG a = s.rG b) ∧ goes (.bne a b o) (s.rG a ≠ s.rG b) ∧
      goes (.blt a b o) ((s.rG a).toInt < (s.rG b).toInt) ∧ goes (.bge a b o) ((s.rG b).toInt ≤ (s.rG a).toInt) ∧
      goes (.bbl a b o) ((s.rG a).toNat < (s.rG b).toNat) ∧ goes (.bae a b o) ((s.rG b).toNat ≤ (s.rG a).toNat)) ∧
  (∀ (s : State) (d a : GReg) (o : BitVec 21) (imm : BitVec 17), Fresh s →
      let link : Word := (s.cx.pc + 4).zeroExtend 64
      let t2 : BitVec 48 := (s.rG a + BitVec.ofInt 64 imm.toInt).truncate 48
      (Ready s (.jal d o) → s.cx.pc.toNat % 4 = 0 →
        (s.cx.kind = .translator → insideX s.cx (relative s o.toInt) = true) →
        Transfers s (.jal d o) (gS d) link (relative s o.toInt)) ∧
      (Ready s (.jalr d a imm) → t2.toNat % 4 = 0 → (s.cx.kind = .translator → insideX s.cx t2 = true) →
        Transfers s (.jalr d a imm) (gS d) link t2)) ∧
  (∀ (s : State) (d a : GReg) (imm : BitVec 17), Ready s (.jalr d a imm) →
      let t : BitVec 48 := (s.rG a + BitVec.ofInt 64 imm.toInt).truncate 48
      t.toNat % 4 ≠ 0 →
      exec (.jalr d a imm) s = .next (raiseExact s s.cur 0x026#9 (t.zeroExtend 64) (tinfo1 (.jalr d a imm) 0 false) s.cx.pc))

/-! ## Calls and returns -/

/-- R77, R78, R106: a call whose window stays resident slides it by n, writes its link (n << 59) | return PC into the new s31
and goes to its target; it touches no memory. Model choices: log 88. R75, R76, R106: a call that needs spills which are
permitted completes too: the lowest positions of the window go to their slots, eight to a granule and as many granules as the
new window needs, no other byte of memory changes, and the window slides as it does without a spill. R76, R106: a call that
needs a spill which is not permitted raises 0x028 exactly, and nothing has been spilled. TADDR is the lowest slot of the whole
slide that is not permitted and the size in TINFO is 8, the model's choice: log 106. -/
def Obligations.CallResults : Prop :=
  (∀ (s : State) (n : BitVec 5) (o : BitVec 20) (m : BitVec 32) (a : SReg), Fresh s → s.cx.fb.toNat + 62 < 2 ^ 64 →
      s.cx.fb.toNat + n.toNat + 31 ≤ s.cx.wlow.toNat + 63 →
      let calls (i : Instr) (len : Nat) (target : BitVec 48) : Prop :=
        Ready s i → target.toNat % 4 = 0 → s.cx.isCompute = true →
          ∃ t, exec i s = .next t ∧ t.cx.pc = target ∧ t.cx.fb.toNat = s.cx.fb.toNat + n.toNat ∧ t.cx.wlow = s.cx.wlow ∧
            Slid s t n.toNat ((n.zeroExtend 64 <<< 59) ||| (s.cx.pc + BitVec.ofNat 48 len).zeroExtend 64) ∧ OnlyContext s t
      calls (.call n o) 4 (relative s o.toInt) ∧ calls (.callFar n m) 8 (relative s m.toInt) ∧
      calls (.callr n a) 4 ((s.rS a).truncate 48)) ∧
  (∀ (s : State) (n : BitVec 5) (o : BitVec 20) (m : BitVec 32) (a : SReg) (g : Nat), Fresh s → SoundMemory s →
      NoSuperstep s s.cx.coreKey → s.cx.isCompute = true → s.cx.fb.toNat + 62 < 2 ^ 64 → 0 < g →
      s.cx.fb.toNat + n.toNat + 31 ≤ s.cx.wlow.toNat + 63 + 8 * g → s.cx.wlow.toNat + 63 + 8 * g < s.cx.fb.toNat + n.toNat + 39 →
      badSlot s s.cx s.cx.wlow.toNat (8 * g) = none →
      let low := s.cx.wlow.toNat
      let loc := ownKey s s.cx s.cx.bsp + 8 * low
      let calls (i : Instr) (len : Nat) (target : BitVec 48) : Prop :=
        Ready s i → target.toNat % 4 = 0 →
          ∃ t, exec i s = .next t ∧ t.cx.pc = target ∧ t.cx.fb.toNat = s.cx.fb.toNat + n.toNat ∧ t.cx.wlow.toNat = low + 8 * g ∧
            Slid s t n.toNat ((n.zeroExtend 64 <<< 59) ||| (s.cx.pc + BitVec.ofNat 48 len).zeroExtend 64) ∧
            (∀ x, t.byte x = if loc ≤ x ∧ x < loc + 64 * g then (s.cx.readPos (low + (x - loc) / 8)).extractLsb' (8 * ((x - loc) % 8)) 8
              else s.byte x) ∧
            ∀ k, k ≠ s.cur → t.ctx k = s.ctx k
      calls (.call n o) 4 (relative s o.toInt) ∧ calls (.callFar n m) 8 (relative s m.toInt) ∧
      calls (.callr n a) 4 ((s.rS a).truncate 48)) ∧
  (∀ (s : State) (n : BitVec 5) (o : BitVec 20) (m : BitVec 32) (a : SReg) (q : Nat), s.cx.isCompute = true →
      badSlot s s.cx s.cx.wlow.toNat (8 * spillsNeeded s.cx n.toNat) = some q →
      let traps (i : Instr) (target : BitVec 48) : Prop :=
        Ready s i → target.toNat % 4 = 0 →
          exec i s = .next (raiseExact s s.cur 0x028#9 (s.cx.bsp + BitVec.ofNat 64 (8 * q)) (tinfo1 i 8 true) s.cx.pc)
      traps (.call n o) (relative s o.toInt) ∧ traps (.callFar n m) (relative s m.toInt) ∧
      traps (.callr n a) ((s.rS a).truncate 48))

/-- R107, R75: a `ret` COMPLETES. Through a link of slide n whose window is resident it slides back by n and goes to the return
PC, and every register below shows what it showed before the call; where positions were spilled it fills as many granules as the
window needs, each from its slots; in a helper the link 0 ends the helper with s1 as its exit value, or begins its end while a
counter is not zero. Model choices: log 43, 65, 88. R77, R78, R107: a `ret` directly after a `callr` whose window stays resident
comes back to the instruction after the call with every register of the caller as it was. -/
def Obligations.ReturnResults : Prop :=
  (∀ s : State, Fresh s → Ready s .ret → s.cx.isCompute = true →
      let link := s.rS 31
      let n := bits link 63 59
      let low := s.cx.wlow.toNat
      let back := s.cx.fb.toNat - n
      (link.toNat % 4 = 0 → (s.cx.kind = .helper → link ≠ 0) → n ≤ s.cx.fb.toNat →
        (low ≤ back → ∃ t, exec .ret s = .next t ∧ t.cx.pc = link.truncate 48 ∧ t.cx.fb.toNat = back ∧ t.cx.wlow = s.cx.wlow ∧
          t.cx.regs = s.cx.regs ∧ OnlyContext s t) ∧
        (∀ fills, back < low → low ≤ s.cx.fb.toNat → low % 8 = 0 → low ≤ back + 8 * fills → back + 8 * fills < low + 8 →
          SoundMemory s → badSlot s s.cx (low - 8 * fills) (8 * fills) = none →
          ∃ t, exec .ret s = .next t ∧ t.cx.pc = link.truncate 48 ∧ t.cx.fb.toNat = back ∧ t.cx.wlow.toNat = low - 8 * fills ∧
            t.mem = s.mem ∧ (∀ k, k ≠ s.cur → t.ctx k = s.ctx k) ∧
            (∀ q, low - 8 * fills ≤ q → q < low →
              t.cx.readPos q = BitVec.ofNat 64 (s.readMem (ownKey s s.cx s.cx.bsp + 8 * q) 8)) ∧
            ∀ q, low ≤ q → q < low + 64 - 8 * fills → t.cx.readPos q = s.cx.readPos q)) ∧
      (s.cx.kind = .helper → link = 0 → s.cur % 16 ≠ 0 →
        (s.cx.loads = 0 → s.cx.stores = 0 → ∃ t, exec .ret s = .next t ∧ t.cx.run = .ended ∧ t.cx.exitValue = s.rS 1 ∧
          t.cx.exitReason = 1) ∧
        (s.cx.loads ≠ 0 ∨ s.cx.stores ≠ 0 → ∃ t, exec .ret s = .next t ∧ t.cx.run = .ending ∧ t.cx.exitValue = s.rS 1 ∧
          t.cx.exitReason = 1))) ∧
  (∀ (s t : State) (n : BitVec 5) (a : SReg), Fresh s → Ready s (.callr n a) → s.cx.kind = .control →
      s.cx.pc.toNat % 4 = 0 → ((s.rS a).truncate 48 : BitVec 48).toNat % 4 = 0 → s.cx.fb.toNat + 62 < 2 ^ 64 →
      s.cx.wlow.toNat ≤ s.cx.fb.toNat → s.cx.fb.toNat + n.toNat + 31 ≤ s.cx.wlow.toNat + 63 →
      exec (.callr n a) s = .next t → Ready t .ret →
        ∃ u, exec .ret t = .next u ∧ u.cx.pc = s.cx.pc + 4 ∧ u.cx.fb = s.cx.fb ∧
          ∀ r : SReg, u.rS r = s.rS r)

/-! ## Loads and stores -/

/-- R90, R92: a load of the core's own unit memory completes at once with the bytes there, little-endian, extended by sign or by
zeros. R92, R111: a load of any other memory issues while fewer than 63 are outstanding: the loads counter rises by one, one
request for the bytes goes out, the destination is locked, and no register, no memory and no other context changes. Model
choices: log 85. R89: the checks of an address come in their order, and a load that fails one raises its cause exactly with
TADDR the address, and nothing is issued; an address that passes them all is accepted. -/
def Obligations.LoadResults : Prop :=
  (∀ (s : State) (d b : GReg) (imm : BitVec 14), Fresh s → SoundMemory s → s.cx.isCompute = true →
      let va := s.rG b + BitVec.ofInt 64 imm.toInt
      let loads (i : Instr) (n : Nat) (ext : Nat → Word) : Prop :=
        Ready s i → checkVa va n = none → ownUM s s.cx va = true → Writes s i (gS d) (ext (s.readMem (ownKey s s.cx va) n)) 4
      loads (.ld8s d b imm) 1 (fun v => (BitVec.ofNat 8 v).signExtend 64) ∧
      loads (.ld8z d b imm) 1 (fun v => (BitVec.ofNat 8 v).zeroExtend 64) ∧
      loads (.ld16s d b imm) 2 (fun v => (BitVec.ofNat 16 v).signExtend 64) ∧
      loads (.ld16z d b imm) 2 (fun v => (BitVec.ofNat 16 v).zeroExtend 64) ∧
      loads (.ld32s d b imm) 4 (fun v => (BitVec.ofNat 32 v).signExtend 64) ∧
      loads (.ld32z d b imm) 4 (fun v => (BitVec.ofNat 32 v).zeroExtend 64) ∧
      loads (.ld64 d b imm) 8 (fun v => BitVec.ofNat 64 v)) ∧
  (∀ (s : State) (d b : GReg) (imm : BitVec 14), Fresh s → s.cx.isCompute = true → s.cx.loads < 63 →
      let va := s.rG b + BitVec.ofInt 64 imm.toInt
      let issues (i : Instr) (n : Nat) : Prop :=
        Ready s i → checkVa va n = none → ownUM s s.cx va = false →
          ∃ t r, exec i s = .next t ∧ t.cx.pc = s.cx.pc + 4 ∧ t.cx.loads = s.cx.loads + 1 ∧ t.reqs = s.reqs ++ [r] ∧
            r.kind = .load ∧ r.va = va ∧ r.size = n ∧ r.ctx = s.cur ∧ r.st = .sent ∧
            (gS d ≠ 0 → posLocked t s.cur (s.cx.posOf (gS d)) = true) ∧ (∀ q : SReg, t.rS q = s.rS q) ∧ t.mem = s.mem ∧
            ∀ k, k ≠ s.cur → t.ctx k = s.ctx k
      issues (.ld8s d b imm) 1 ∧ issues (.ld8z d b imm) 1 ∧ issues (.ld16s d b imm) 2 ∧ issues (.ld16z d b imm) 2 ∧
      issues (.ld32s d b imm) 4 ∧ issues (.ld32z d b imm) 4 ∧ issues (.ld64 d b imm) 8) ∧
  (∀ (s : State) (d b : GReg) (imm : BitVec 14), s.cx.isCompute = true →
      let va := s.rG b + BitVec.ofInt 64 imm.toInt
      let die := va.toNat / 2 ^ 49
      let level := va.extractLsb' 46 2
      let checks (i : Instr) (n : Nat) : Prop :=
        let traps (k : Cause) : Prop := Ready s i → exec i s = .next (raiseExact s s.cur k va (tinfo1 i n false) s.cx.pc)
        if va.toNat % n ≠ 0 then traps 0x021#9
        else if 0x6000 ≤ die ∧ die ≤ 0x7FFD then traps 0x022#9
        else if die = 0x7FFF ∨ va.getLsbD 48 = false then checkVa va n = none
        else if level = 3#2 then traps 0x023#9
        else if (level = 0#2 ∧ va.extractLsb' 20 18 ≠ 0) ∨ (level = 1#2 ∧ va.extractLsb' 22 18 ≠ 0) ∨
            (level = 2#2 ∧ va.extractLsb' 26 20 ≠ 0) then traps 0x024#9
        else if level ≠ 2#2 ∧ 48 ≤ (va.extractLsb' 40 6).toNat then traps 0x025#9
        else checkVa va n = none
      checks (.ld8s d b imm) 1 ∧ checks (.ld8z d b imm) 1 ∧ checks (.ld16s d b imm) 2 ∧ checks (.ld16z d b imm) 2 ∧
      checks (.ld32s d b imm) 4 ∧ checks (.ld32z d b imm) 4 ∧ checks (.ld64 d b imm) 8)

/-- R90, R93: a store to the core's own unit memory writes its bytes at once, and no other byte. R92, R93, R146: a store
elsewhere is posted in the core's journal: no byte of memory changes, and a load of any context of the core finds the posted
bytes there. Model choices: log 39. -/
def Obligations.StoreResults : Prop :=
  (∀ (s : State) (v b : GReg) (imm : BitVec 14), Fresh s → SoundMemory s → NoSuperstep s s.cx.coreKey → s.cx.isCompute = true →
      let va := s.rG b + BitVec.ofInt 64 imm.toInt
      let stores (i : Instr) (n : Nat) : Prop :=
        Ready s i → checkVa va n = none → ownUM s s.cx va = true → StoreClear s va n →
          ∃ t, exec i s = .next t ∧ StoreFrame s t (ownKey s s.cx va) (leBytes (s.rG v).toNat n) 4
      stores (.st8 v b imm) 1 ∧ stores (.st16 v b imm) 2 ∧ stores (.st32 v b imm) 4 ∧ stores (.st64 v b imm) 8) ∧
  (∀ (s : State) (v b : GReg) (imm : BitVec 14), Fresh s → s.cx.isCompute = true →
      let va := s.rG b + BitVec.ofInt 64 imm.toInt
      let posts (i : Instr) (n : Nat) : Prop :=
        Ready s i → checkVa va n = none → ownUM s s.cx va = false → StoreClear s va n → s.cur / 16 = s.cx.coreKey →
        (freeSlot (s.core s.cx.coreKey).journal 512).isSome = true →
          ∃ t, exec i s = .next t ∧ t.mem = s.mem ∧ NoRegisters s t 4 ∧ (∀ k, k ≠ s.cur → t.ctx k = s.ctx k) ∧
            forwarded t s.cx.coreKey va n = (List.range n).map (fun j => (j, BitVec.ofNat 8 ((s.rG v).toNat / 256 ^ j)))
      posts (.st8 v b imm) 1 ∧ posts (.st16 v b imm) 2 ∧ posts (.st32 v b imm) 4 ∧ posts (.st64 v b imm) 8)

/-! ## System functions and registers -/

/-- R13, R98: CTRD reads a chip-table word; ENTROPY gives a translator 0 and every other context a value that nothing fixes (the
n-th free value of the model, its counter advanced). R98, R311, R312: WFI waits until an enabled interrupt is pending and then
continues at PC + 4; CRET sets PC := CIRET.RPC and ACTIVE := 0 in one step. Model choices: log 50. R100, R310: a controller's
loads and stores of its private memory are performed when they issue. R100: `ordr` completes when the loads counter is zero, and
waits while it is not; after that of a controller no load reads a device register as it was before an earlier store. Model
choices: log 124. R112, R113: `waitc` completes when every counter named is at most its threshold (15: not waited for) and waits
while one is above; `rdctr` reads a counter. -/
def Obligations.SystemAndControllerResults : Prop :=
  (∀ (s : State) (d a : GReg), Fresh s →
      (Ready s (.sysCtrd d a) → Writes s (.sysCtrd d a) (gS d) (chipWord (s.rG a)) 4) ∧
      (Ready s (.sysEntropy d a) → s.cx.kind = .translator → Writes s (.sysEntropy d a) (gS d) 0 4) ∧
      (Ready s (.sysEntropy d a) → s.cx.kind ≠ .translator →
        ∃ t, exec (.sysEntropy d a) s = .next t ∧ t.rS (gS d) = written (gS d) (Config.freeWord s.free) ∧
          t.free = s.free + 1 ∧ t.cx.pc = s.cx.pc + 4 ∧ t.mem = s.mem ∧ ∀ r, r ≠ gS d → t.rS r = s.rS r)) ∧
  (∀ (s : State) (d a : GReg), Fresh s → s.cx.kind = .controller →
      (Ready s (.sysWfi d a) → (cipendOf s s.cx &&& s.cx.cien) ≠ 0 → ∃ t, exec (.sysWfi d a) s = .next t ∧ OnlyContext s t ∧
        NoRegisters s t 4) ∧
      (Ready s (.sysWfi d a) → (cipendOf s s.cx &&& s.cx.cien) = 0 → ∃ t, exec (.sysWfi d a) s = .next t ∧ OnlyContext s t ∧
        NoRegisters s t 0) ∧
      (Ready s .sysCret → ∃ t, exec .sysCret s = .next t ∧ t.cx.pc = ((s.cx.ciret &&& ~~~3#64).truncate 48 : BitVec 48) ∧
        t.cx.ciret = s.cx.ciret &&& ~~~1#64 ∧ OnlyContext s t ∧ ∀ r, t.rS r = s.rS r)) ∧
  (∀ (s : State) (d b : GReg) (imm : BitVec 14), Fresh s → s.cx.kind = .controller →
      let va := s.rG b + BitVec.ofInt 64 imm.toInt
      va.toNat % 8 = 0 → va.toNat < 0x40000 →
      (Ready s (.ld64 d b imm) →
        Writes s (.ld64 d b imm) (gS d) (BitVec.ofNat 64 (s.readMem (ctlSpace s.cx.core va.toNat) 8)) 4) ∧
      (Ready s (.st64 d b imm) →
        ∃ t, exec (.st64 d b imm) s = .next t ∧ StoreFrame s t (ctlSpace s.cx.core va.toNat) (leBytes (s.rG d).toNat 8) 4)) ∧
  (∀ s : State, Fresh s → Ready s .ordr →
      (s.cx.loads = 0 → s.cx.kind ≠ .controller → Writes s .ordr 0 0 4) ∧
      (s.cx.loads = 0 → s.cx.kind = .controller → ∃ t, exec .ordr s = .next t ∧ NoRegisters s t 4 ∧ t.mem = s.mem ∧
        t.dev = { s.dev with early := [] } ∧ ∀ k, k ≠ s.cur → t.ctx k = s.ctx k) ∧
      (s.cx.loads ≠ 0 → exec .ordr s = .next s)) ∧
  (∀ (s : State) (l sc c t : BitVec 4) (d : SReg) (n : BitVec 2), Fresh s →
      let met := (l = 15 ∨ s.cx.loads ≤ l.toNat) ∧ (sc = 15 ∨ s.cx.stores ≤ sc.toNat) ∧ (c = 15 ∨ s.cx.copies ≤ c.toNat) ∧
        (t = 15 ∨ s.cx.tiles ≤ t.toNat)
      (Ready s (.waitc l sc c t) → met → Writes s (.waitc l sc c t) 0 0 4) ∧
      (Ready s (.waitc l sc c t) → ¬ met → exec (.waitc l sc c t) s = .next s) ∧
      (Ready s (.rdctr d n) → Writes s (.rdctr d n) d (BitVec.ofNat 64
        (if n = 0 then s.cx.loads else if n = 1 then s.cx.stores else if n = 2 then s.cx.copies else s.cx.tiles)) 4))

/-! ## Loads and stores -/

/-- R108 to R110: `setba` sets BA; `ldbits` and `stbits` of the core's own unit memory read and write w bits at BA, which
advances by w; a byte outside the bits stored keeps its value. -/
def Obligations.BitAccessResults : Prop :=
  ∀ (s : State) (d : SReg) (sc : BitVec 1) (w : BitVec 5), Fresh s → SoundMemory s → NoSuperstep s s.cx.coreKey →
    let n := w.toNat + 1
    let va := baVa s.cx.ba
    let sh := baBit s.cx.ba
    let loc := ownKey s s.cx va
    (Ready s (.setba d) → ∃ t, exec (.setba d) s = .next t ∧ t.cx.ba = s.rS d ∧ t.cx.pc = s.cx.pc + 4 ∧ OnlyContext s t ∧
      ∀ r, t.rS r = s.rS r) ∧
    (Ready s (.ldbits d sc w) → bitCause s s.cx n false = none → ownUM s s.cx va = true →
      ∃ t v, exec (.ldbits d sc w) s = .next t ∧ t.rS d = written d v ∧ t.cx.ba = baAdvance s.cx.ba n ∧ t.cx.pc = s.cx.pc + 4 ∧
        t.mem = s.mem ∧ v.toNat % 2 ^ n = s.readMem loc ((sh + n + 7) / 8) / 2 ^ sh % 2 ^ n ∧
        v.toNat / 2 ^ n = (if sc = 1#1 ∧ v.getLsbD (n - 1) = true then 2 ^ (64 - n) - 1 else 0)) ∧
    (Ready s (.stbits d w) → bitCause s s.cx n true = none → StoreClear s va ((sh + n + 7) / 8) →
      ∃ t, exec (.stbits d w) s = .next t ∧ t.cx.ba = baAdvance s.cx.ba n ∧ t.cx.pc = s.cx.pc + 4 ∧
        (∀ r, t.rS r = s.rS r) ∧
        (∀ a, a < loc ∨ loc + (sh + n + 7) / 8 ≤ a → t.byte a = s.byte a) ∧
        ∀ k, k < 8 * ((sh + n + 7) / 8) → (t.byte (loc + k / 8)).getLsbD (k % 8) =
          if sh ≤ k ∧ k < sh + n then (s.rS d).getLsbD (k - sh) else (s.byte (loc + k / 8)).getLsbD (k % 8))

/-! ## System functions and registers -/

/-- R42, R74, R99, R119, R167, R169, R286: what `getx` of a register without a side effect reads in a compute context. Model
choices: log 14, 50. R5, R42, R60, R74, R99, R167, R168, R179: a `putx` to a register of a context writes its RW fields, a read
then sees them, and the reserved bits read zero; the window and everything outside the context are as they were. R5, R42: a
write to a register that is read only changes nothing but the PC. R169: a field of TROUTE written as 3 is stored as 1, every
other value as it is written. -/
def Obligations.RegisterResults : Prop :=
  (∀ (s : State) (d : GReg), Fresh s → s.cx.isCompute = true →
      let c := s.cx
      let h := if c.kind = .helper then s.ctx (c.coreKey * 16) else c
      let co := s.core c.coreKey
      ∀ p ∈ [((0x001 : BitVec 12), s.cycle), (0x002, c.bsp), (0x003, c.bsl), (0x004, c.ba),
             (0x006, BitVec.ofNat 64 (c.planes.toNat * 2 ^ 32) ||| BitVec.ofNat 64 (c.rows * 2 ^ 16) ||| BitVec.ofNat 64 c.cols),
             (0x007, c.trap.upvec.zeroExtend 64), (0x00A, c.pnote.zeroExtend 64), (0x00B, h.gidx), (0x00F, h.ginfo),
             (0x010, c.ast), (0x011, h.arg), (0x012, h.grank), (0x080, c.fb), (0x081, c.wlow),
             (0x082, c.trap.tpc.zeroExtend 64), (0x084, c.trap.taddr), (0x085, c.trap.tinfo), (0x086, c.trap.tvec.zeroExtend 64),
             (0x100, co.route.zeroExtend 64), (0x101, BitVec.ofNat 64 co.world), (0x102, co.wdwin.zeroExtend 64)],
        Ready s (.getx d p.1) → Writes s (.getx d p.1) (gS d) p.2 4) ∧
  (∀ (s : State) (a : GReg), Fresh s → s.cx.isCompute = true →
      ∀ p ∈ [((0x002 : BitVec 12), (0xFFFFFFFFFFFFFFFF : Word)), (0x003, 0xFFFFFFFFFFFFFFFF), (0x004, 0xFFFFFFFFFFFFFFFF),
             (0x007, 0x0000FFFFFFFFFFFC), (0x00A, 0x00000000FFFFFFFF), (0x010, 0x7F7F), (0x082, 0x0000FFFFFFFFFFFF),
             (0x083, 0x000000FF000701FF), (0x084, 0xFFFFFFFFFFFFFFFF), (0x085, 0xFFFFFFFFFFFFFFFF),
             (0x086, 0x0000FFFFFFFFFFFC)],
        Ready s (.putx a p.1) → ∀ i ∈ [Instr.putx a p.1, .genericRegisterWrite (.reg a p.1)],
          ∃ t, exec i s = .next t ∧ (readReg t p.1.toNat).1 = s.rG a &&& p.2 ∧ t.cx.pc = s.cx.pc + 4 ∧
            (∀ r, t.rS r = s.rS r) ∧ OnlyContext s t) ∧
  (∀ (s : State) (a : GReg), Fresh s → s.cx.isCompute = true →
      ∀ r ∈ [(0x000 : BitVec 12), 0x001, 0x006, 0x00B, 0x00C, 0x00D, 0x00E, 0x00F, 0x011, 0x012, 0x013, 0x080, 0x081, 0x087,
             0x088, 0x089],
        Ready s (.putx a r) → ∃ t, exec (.putx a r) s = .next t ∧ NoRegisters s t 4 ∧ OnlyContext s t) ∧
  (∀ (s : State) (a : GReg), Fresh s → Ready s (.putx a 0x100#12) → s.cx.isCompute = true →
      ∃ t, exec (.putx a 0x100#12) s = .next t ∧
        ∀ n, n < 16 → ((t.core s.cx.coreKey).route.extractLsb' (2 * n) 2).toNat =
          if ((s.rG a).extractLsb' (2 * n) 2).toNat = 3 then 1 else ((s.rG a).extractLsb' (2 * n) 2).toNat)

/-- R43, R45, R47: naming a register that is absent raises 0x00C, and naming one without the privilege raises 0x1A1 or 0x1A2;
TADDR is the register number, and absence comes first: in a compute context, in a translator and in a controller, where the
memory pages are those of controllers 2 to 9, the vault's of 1, and the link's of 10 to 13. An instruction of a controller
raises 0x1A2 in a compute context, `xlat` 0x1A3 in U, with TADDR 0. R44, R46, R47: a word that is no instruction raises its
first cause in its context, exactly: major 0x00, a reserved major, a native word in a controller or translator. Model choices:
log 89. -/
def Obligations.ChecksBeforeExecutionTrap : Prop :=
  (∀ (s : State) (a : GReg) (b : SReg) (r : BitVec 12), s.power = true → s.cx.run = .live →
      let n := r.toNat
      let within (lo hi : Nat) : Prop := lo ≤ n ∧ n ≤ hi
      let traps (i : Instr) (k : Cause) (taddr : Word) : Prop := exec i s = .next (raise46 s i (k, taddr))
      let writes (k : Cause) : Prop := traps (.putx a r) k (r.zeroExtend 64)
      let both (k : Cause) : Prop := traps (.getx a r) k (r.zeroExtend 64) ∧ writes k
      (s.cx.isCompute = true →
        (within 0x014 0x07F ∨ within 0x08A 0x0FF ∨ within 0x104 0x1FF ∨ within 0x209 0x20F ∨ within 0x215 0x2FF ∨
          within 0x359 0x3FF ∨ within 0x400 0x7FF → both 0x00C#9) ∧
        (0x800 ≤ n → both 0x1A2#9) ∧
        (s.cx.priv = false →
          (within 0x100 0x103 ∨ within 0x200 0x208 ∨ within 0x210 0x214 ∨ within 0x300 0x358 → both 0x1A1#9) ∧
          (within 0x080 0x089 → writes 0x1A1#9) ∧ ((s.core s.cx.coreKey).masked = 0 → traps (.xlat b b) 0x1A3#9 0)) ∧
        traps (.sysWfi a a) 0x1A2#9 0 ∧ traps .sysCret 0x1A2#9 0) ∧
      (s.cx.kind = .translator → s.cx.meter.meter ≠ s.cx.meter.lim →
        (within 0x002 0x089 ∨ within 0x092 0x0FF ∨ within 0x400 0x7FF → both 0x00C#9) ∧
        (within 0x08A 0x091 → writes 0x1A1#9) ∧ (within 0x100 0x3FF → both 0x1A1#9) ∧ (0x800 ≤ n → both 0x1A2#9)) ∧
      (s.cx.kind = .controller →
        (within 0x002 0x7FF ∨ within 0x808 0x81F ∨ within 0x82A 0x83F ∨ within 0x84B 0x84F ∨ within 0x85B 0x8FF ∨ 0xC00 ≤ n →
          both 0x00C#9) ∧
        (within 0x820 0x829 → s.cx.core ≠ 1 → both 0x00C#9) ∧
        (within 0x840 0x84A ∨ within 0x850 0x85A → s.cx.core < 10 ∨ 13 < s.cx.core → both 0x00C#9) ∧
        (within 0x900 0xBFF → s.cx.core < 2 ∨ 9 < s.cx.core → both 0x00C#9))) ∧
  (∀ (s : State) (w : BitVec 32), s.power = true → s.cx.run = .live →
      (s.cx.kind = .translator → s.cx.meter.meter ≠ s.cx.meter.lim) →
      let major := (w.extractLsb' 25 6).toNat
      let traps (k : Cause) : Prop := exec (.illegalWord w 0) s = .next (raise46 s (.illegalWord w 0) (k, 0))
      (major = 0 → traps 0x001#9) ∧
      (0x1D ≤ major ∧ major ≤ 0x1F ∨ 0x27 ≤ major ∧ major ≤ 0x2F ∨ 0x31 ≤ major → traps 0x002#9) ∧
      (0x10 ≤ major ∧ major ≤ 0x1C ∨ 0x20 ≤ major ∧ major ≤ 0x26 ∨ major = 0x30 → s.cx.plirenOnly = true → traps 0x007#9))

/-! ## Causes and returns -/

/-- R102, R171, R176: `trap` and `brk`, routed to the S trap with none active, complete by taking it: TPC is the address of the
next instruction for `trap` and its own for `brk`, TINFO the register or the code, TADDR 0, the old privilege is kept in PPRIV,
ACTIVE is set, and the context goes on in S at TVEC; the other trap fields, the window and everything else stay. R177: `eret`
restores the PC and the privilege, and clears ACTIVE. Model choices: log 13. R171, R176, R177: an `eret` directly after the S
trap of a `trap` continues at the instruction after it, with the privilege and the window of before. -/
def Obligations.TrapAndEretResults : Prop :=
  (∀ (s : State) (a : SReg) (code : BitVec 12), s.cx.isCompute = true → s.cx.trap.active = false →
      let enters (i : Instr) (k : Cause) (tinfo : Word) (resume : BitVec 48) : Prop :=
        Ready s i → routeOf (s.core s.cx.coreKey).route k = .strap →
          ∃ t, exec i s = .next t ∧ t.cx.trap.tpc = resume ∧ t.cx.trap.cause = k ∧ t.cx.trap.async = false ∧
            t.cx.trap.ppriv = s.cx.priv ∧ t.cx.trap.active = true ∧ t.cx.trap.taddr = 0 ∧ t.cx.trap.tinfo = tinfo ∧
            t.cx.trap.lost = s.cx.trap.lost ∧ t.cx.trap.tvec = s.cx.trap.tvec ∧ t.cx.trap.upvec = s.cx.trap.upvec ∧
            t.cx.trap.busy = s.cx.trap.busy ∧ t.cx.priv = true ∧ t.cx.pc = s.cx.trap.tvec ∧ (∀ r, t.rS r = s.rS r) ∧
            OnlyContext s t
      enters (.trap a) 0x1A4#9 (s.rS a) (s.cx.pc + 4) ∧ enters (.brk code) 0x1C1#9 (code.zeroExtend 64) s.cx.pc) ∧
  (∀ s : State, Fresh s → Ready s .eret → s.cx.isCompute = true → s.cx.trap.tpc.toNat % 4 = 0 →
      ∃ t, exec .eret s = .next t ∧ t.cx.pc = s.cx.trap.tpc ∧ t.cx.priv = s.cx.trap.ppriv ∧
        t.cx.trap = { s.cx.trap with active := false } ∧ (∀ r, t.rS r = s.rS r) ∧ OnlyContext s t) ∧
  (∀ (s t : State) (a : SReg), Fresh s → Ready s (.trap a) → s.cx.isCompute = true → s.cx.trap.active = false →
      s.cx.pc.toNat % 4 = 0 → routeOf (s.core s.cx.coreKey).route 0x1A4#9 = .strap → exec (.trap a) s = .next t → Ready t .eret →
      ∃ u, exec .eret t = .next u ∧ u.cx.pc = s.cx.pc + 4 ∧ u.cx.priv = s.cx.priv ∧ u.cx.trap.active = false ∧
        ∀ r, u.rS r = s.rS r)

/-- R172: an exact cause routed as an upcall, in U with UPVEC set and no handler running: the window slides by 31, the handler
finds the cause, TADDR and TINFO in s1 to s3, BUSY is set, and the trap registers keep their values. R173: a write of UPFRAME
sets BUSY; one that clears it holds every upcall back until the next instruction has retired. -/
def Obligations.UpcallResults : Prop :=
  (∀ (s : State) (code : BitVec 12), Ready s (.brk code) → s.cx.isCompute = true → s.cx.priv = false →
      s.cx.trap.upvec ≠ 0 → s.cx.trap.busy = false → routeOf (s.core s.cx.coreKey).route 0x1C1#9 = .upcall →
      s.cx.fb.toNat + 62 ≤ s.cx.wlow.toNat + 63 → s.cx.fb.toNat + 62 < 2 ^ 64 → slideLocked s s.cur 31 = false →
      ∃ t, exec (.brk code) s = .next t ∧ t.cx.pc = s.cx.trap.upvec ∧ t.cx.trap = { s.cx.trap with busy := true } ∧
        t.rS 1 = 0x1C1 ∧ t.rS 2 = 0 ∧ t.rS 3 = code.zeroExtend 64 ∧ t.cx.priv = false ∧
        t.rS 31 = (31#64 <<< 59) ||| s.cx.pc.zeroExtend 64 ∧ t.cx.fb.toNat = s.cx.fb.toNat + 31 ∧ OnlyContext s t) ∧
  (∀ (s : State) (a : GReg), Fresh s → s.cx.isCompute = true →
      ∀ i ∈ [Instr.upframeWrite a, .putx a 0x008#12], Ready s i →
        ∃ t, exec i s = .next t ∧ t.cx.trap = { s.cx.trap with busy := (s.rG a).getLsbD 63 } ∧ t.cx.pc = s.cx.pc + 4 ∧
          OnlyContext s t ∧ (∀ r, t.rS r = s.rS r) ∧
          ((s.rG a).getLsbD 63 = false → ∀ (q : PCause) (l : List PCause) (route : BitVec 32), t.cx.pending = q :: l →
            routeOf route q.cause = .upcall → t.cx.takeable route = none))

/-- R174, R175: a cause routed to the host stops its context; TPC, TCAUSE with ASYNC and PPRIV, TADDR and TINFO are set, ACTIVE
and the privilege stay, and a record goes to the world's host interrupt vector. A trap during an active S trap becomes 0x1E1
there, with the original cause in TINFO. Model choices: log 66 (the record). R170, R171: the oldest pending cause of a context,
routed to the S trap, is taken at the boundary with the next PC as its resume PC; while ACTIVE is 1 it waits. Model choices: log
74. -/
def Obligations.HostStopsAndPendingCauses : Prop :=
  (∀ (s : State) (a : SReg), Ready s (.trap a) → s.cx.isCompute = true →
      let stops (k : Cause) (tinfo : Word) : Prop :=
        ∃ t, exec (.trap a) s = .next t ∧ t.cx.run = .stopped ∧ t.cx.trap.tpc = s.cx.pc + 4 ∧ t.cx.trap.cause = k ∧
          t.cx.trap.async = false ∧ t.cx.trap.ppriv = s.cx.priv ∧ t.cx.trap.taddr = 0 ∧ t.cx.trap.tinfo = tinfo ∧
          t.cx.trap.active = s.cx.trap.active ∧ t.cx.priv = s.cx.priv ∧ t.cx.pc = s.cx.pc ∧
          t.hostIrqs = s.hostIrqs ++ [(s.cx.world, k, ctxWord s s.cx)] ∧ ∀ j, j ≠ s.cur → t.ctx j = s.ctx j
      (routeOf (s.core s.cx.coreKey).route 0x1A4#9 = .host → stops 0x1A4#9 (s.rS a)) ∧
      (routeOf (s.core s.cx.coreKey).route 0x1A4#9 = .strap → s.cx.trap.active = true → stops 0x1E1#9 0x1A4)) ∧
  (∀ (s : State) (k : Nat) (p : PCause) (rest : List PCause), s.power = true → (s.ctx k).isCompute = true →
      (s.ctx k).run = .live → (s.ctx k).pending = p :: rest → filling s k = false → (s.ctx k).phase = 0 →
      routeOf (s.core (s.ctx k).coreKey).route p.cause = .strap →
      ((s.ctx k).trap.active = false →
        ∃ t, exec (.pendingCauseTake k) s = .next t ∧ (t.ctx k).trap.cause = p.cause ∧ (t.ctx k).trap.async = true ∧
          (t.ctx k).trap.tpc = (s.ctx k).pc ∧ (t.ctx k).trap.taddr = p.taddr ∧ (t.ctx k).trap.tinfo = p.tinfo ∧
          (t.ctx k).pending = rest ∧ (t.ctx k).pc = (s.ctx k).trap.tvec ∧ (t.ctx k).priv = true ∧ t.mem = s.mem) ∧
      ((s.ctx k).trap.active = true → exec (.pendingCauseTake k) s = .next s))

/-! ## Helpers, counters, queries and notices -/

/-- R79, R80, R84: `hstart` takes the lowest free slot and sets up the helper there, or gives all ones when none is free. R79,
R82, R84: a `hquit` with both counters zero ends the helper with its value and reason 0; `hstat` then reads ended, and `hjoin`
gives the value and frees the slot; a `hjoin` of a live helper waits. Model choices: log 65. R82: a helper that waits with its
end ends once its loads and stores counters are zero: its sticky status goes to the control context, and its resting journal
entries become the control context's. -/
def Obligations.HelperResults : Prop :=
  (∀ (s : State) (d a b : SReg), Fresh s → Ready s (.hstart d a b) → (s.rS a).toNat % 4 = 0 → s.cur = s.cx.coreKey * 16 →
      (∀ h, freeHelper s s.cx.coreKey = some h → ∃ t, exec (.hstart d a b) s = .next t ∧ t.rS d = written d (BitVec.ofNat 64 h) ∧
        t.cx.pc = s.cx.pc + 4 ∧
        let x := t.ctx (s.cx.coreKey * 16 + h + 1)
        x.kind = .helper ∧ x.run = .live ∧ x.pc = (s.rS a).truncate 48 ∧ x.fb = 0 ∧ x.wlow = 0 ∧ x.bsp = 0 ∧ x.bsl = 0 ∧
          x.ba = 0 ∧ x.readS 1 = s.rS b ∧ (∀ r : SReg, r ≠ 1 → x.readS r = 0) ∧ (∀ n, x.mask n = BitVec.allOnes 4096) ∧
          x.planes = s.cx.hgrant ∧ x.rows = s.cx.rows ∧ x.cols = s.cx.cols ∧ x.ast = s.cx.ast &&& 0x7F00#64 ∧ x.loads = 0 ∧
          x.stores = 0 ∧ x.copies = 0 ∧ x.tiles = 0 ∧ x.priv = s.cx.priv ∧ x.trap.tvec = s.cx.trap.tvec ∧
          x.trap.upvec = s.cx.trap.upvec) ∧
      (freeHelper s s.cx.coreKey = none → Writes s (.hstart d a b) d (BitVec.allOnes 64) 4)) ∧
  (∀ (s : State) (d a : SReg), Fresh s →
      (Ready s (.hquit a) → s.cx.loads = 0 → s.cx.stores = 0 → s.cur % 16 ≠ 0 → s.cur / 16 * 16 ≠ s.cur →
        ∃ t, exec (.hquit a) s = .next t ∧ t.cx.run = .ended ∧ t.cx.exitValue = s.rS a ∧ t.cx.exitReason = 0) ∧
      (∀ h, h ≤ 9 → s.rS a = BitVec.ofNat 64 h →
        let x := s.ctx (s.cx.coreKey * 16 + h + 1)
        (Ready s (.hjoin d a) → x.run = .free → Writes s (.hjoin d a) d 0 4) ∧
        (Ready s (.hjoin d a) → x.run = .live → exec (.hjoin d a) s = .next s) ∧
        (Ready s (.hjoin d a) → x.run = .ended → s.cur = s.cx.coreKey * 16 → ∃ t, exec (.hjoin d a) s = .next t ∧
          t.rS d = written d x.exitValue ∧ (t.ctx (s.cx.coreKey * 16 + h + 1)).run = .free ∧ t.cx.pc = s.cx.pc + 4) ∧
        (Ready s (.hstat d a) → Writes s (.hstat d a) d
          (match x.run with
           | .free => 0
           | .ended => BitVec.ofNat 64 (2 + x.exitReason * 256)
           | _ => 1) 4)) ∧
      (Ready s (.hstat d a) → 9 < (s.rS a).toNat → Writes s (.hstat d a) d 3 4)) ∧
  (∀ (s : State) (k : Nat), s.power = true → (s.ctx k).run = .ending → (s.ctx k).loads = 0 → (s.ctx k).stores = 0 → k % 16 ≠ 0 →
      (s.ctx k).slot = k % 16 → (s.ctx k).pending = [] →
      ∃ t, exec (.helperEnd k) s = .next t ∧ (t.ctx k).run = .ended ∧ (t.ctx k).exitValue = (s.ctx k).exitValue ∧
        (t.ctx (k / 16 * 16)).ast = (s.ctx (k / 16 * 16)).ast ||| ((s.ctx k).ast &&& 0x7F#64) ∧
        (∀ e ∈ (t.core (k / 16)).journal, e.ctxSlot ≠ k % 16) ∧ t.mem = s.mem)

/-- R178, R179, R181: `query` reads whether a leaf is usable or masked, `pend` removes the oldest notice or gives 0, and a
`yield` without a request gives the restored flag and clears it. -/
def Obligations.QueryPendYieldResults : Prop :=
  ∀ (s : State) (d a : SReg), Fresh s →
    (Ready s (.query d a) →
      let l := (s.rS a).toNat
      Writes s (.query d a) d (if l = 0 then 1 else if 23 < l then 0
        else if (s.core s.cx.coreKey).masked.getLsbD l = true then 2 else 1) 4) ∧
    (Ready s (.pend d) → ∃ t, exec (.pend d) s = .next t ∧ t.rS d = written d (s.cx.notices.headD 0) ∧
      t.cx.notices = s.cx.notices.tail ∧ t.cx.pc = s.cx.pc + 4 ∧ OnlyContext s t ∧ ∀ r, r ≠ d → t.rS r = s.rS r) ∧
    (Ready s (.yield d) → s.cx.preq = false → ∃ t, exec (.yield d) s = .next t ∧
      t.rS d = written d (if s.cx.restored then 1 else 0) ∧ t.cx.restored = false ∧ t.cx.pc = s.cx.pc + 4 ∧ OnlyContext s t)

/-! ## Atomics and SC operations -/

/-- R35, R90, R268, R269: an atomic of the core's own unit memory is performed when it issues: the destination gets the old
value extended by its sign, and the bytes become what the operator leaves. `.rel` waits until the loads have returned, and every
atomic while the loads counter stands at 63 (R111). R111, R268 to R271: an atomic of other memory and an SC operation issue
while fewer than 63 loads are outstanding: one request with the operator and operand goes out, the loads counter rises, and no
register and no memory changes. After `.acq` every later memory instruction waits. An SC operation aimed elsewhere than at
scratchpad of this package raises 0x062. Model choices: log 86, 108. -/
def Obligations.AtomicResults : Prop :=
  (∀ (s : State) (d a b : SReg) (w : BitVec 1) (r : BitVec 3), Fresh s → SoundMemory s → NoSuperstep s s.cx.coreKey →
      s.cx.isCompute = true →
      let n := if w = 1#1 then 4 else 8
      let va := s.rS a
      let loc := ownKey s s.cx va
      let old := s.readMem loc n
      let acts (i : Instr) (o : Nat) : Prop :=
        Ready s i → checkVa va n = none → ownUM s s.cx va = true → AtomicFree s va n →
          (s.cx.loads < 63 → (r.toNat ≤ 1 ∨ s.cx.loads = 0) → ∃ t, exec i s = .next t ∧ t.cx.pc = s.cx.pc + 4 ∧
            t.rS d = written d (BitVec.ofInt 64 (BitVec.ofNat (8 * n) old).toInt) ∧ (∀ q, q ≠ d → t.rS q = s.rS q) ∧
            (∀ k, k ≠ s.cur → t.ctx k = s.ctx k) ∧
            ∀ x, t.byte x = if loc ≤ x ∧ x < loc + n
              then (leBytes (atomicLeaves o n old (s.rS b).toNat (s.rS d).toNat) n).getD (x - loc) 0 else s.byte x) ∧
          (s.cx.loads < 63 → 2 ≤ r.toNat → s.cx.loads ≠ 0 → ∃ t, exec i s = .next t ∧ t.cx.pc = s.cx.pc ∧ t.mem = s.mem ∧
            ∀ q, t.rS q = s.rS q) ∧
          (63 ≤ s.cx.loads → exec i s = .next s)
      (∀ o : BitVec 3, o ≠ 7 → acts (.amo d a b o w r) o.toNat) ∧ acts (.cas d a b w r) 7) ∧
  (∀ (s : State) (d a b : SReg) (w : BitVec 1) (r o : BitVec 3), Fresh s → s.cx.isCompute = true → s.cx.loads < 63 → o ≠ 7 →
      let n := if w = 1#1 then 4 else 8
      let va := s.rS a
      let sends (i : Instr) (kind : ReqKind) (dst : SReg) : Prop :=
        ∃ t q, exec i s = .next t ∧ t.cx.pc = s.cx.pc + 4 ∧ t.cx.loads = s.cx.loads + 1 ∧ t.reqs = s.reqs ++ [q] ∧
          q.kind = kind ∧ q.va = va ∧ q.size = n ∧ q.ctx = s.cur ∧ q.st = .sent ∧
          (dst ≠ 0 → posLocked t s.cur (s.cx.posOf dst) = true) ∧ (∀ x, t.rS x = s.rS x) ∧ t.mem = s.mem ∧
          ∀ k, k ≠ s.cur → t.ctx k = s.ctx k
      let remote (i : Instr) (kind : ReqKind) : Prop :=
        Ready s i → checkVa va n = none → ownUM s s.cx va = false → AtomicFree s va n → (r.toNat ≤ 1 ∨ s.cx.loads = 0) →
          sends i kind d ∧
          (r = 1 → ∃ t, exec i s = .next t ∧ ∀ j, memAccess j = true → held t j = true)
      let sc (i : Instr) (kind : ReqKind) (dst : SReg) : Prop :=
        Ready s i → checkVa va n = none → StoreClear s va n →
          if scTarget s s.cx va = true then sends i kind dst
          else exec i s = .next (raiseExact s s.cur 0x062#9 va (tinfo1 i n (i == .stsc a b w)) s.cx.pc)
      remote (.amo d a b o w r) (.atomic o.toNat (s.rS b) 0 false) ∧
      remote (.cas d a b w r) (.atomic 7 (s.rS b) (s.rS d) false) ∧
      sc (.ldsc d a w) (.sc false true 0 0 s.clk) d ∧
      sc (.stsc a b w) (.sc true false 6 (s.rS b) s.clk) 0 ∧
      sc (.amosc d a b o w) (.sc true true o.toNat (s.rS b) s.clk) d)

/-- R142, R265, R269, R271: at its home an atomic reads and writes its bytes in one step; the SC operations of a window are
performed in clk 4W + 24 and in no other, and their results come in clk t + 28. A lease that was recalled leaves with its
write-back, and the predictor refuses its line (R266). Model choices: log 86, 87. -/
def Obligations.AtomicEvents : Prop :=
  (∀ (s : State) (id o loc : Nat) (operand expect : Word) (ext : Ext) (r : Req), s.power = true → s.req id = some r →
    r.kind = .atomic o operand expect false → o ≤ 7 → r.st = .sent → linkBehind s r = false →
    atomicBehind s r = false → fateAt s r = .perform loc →
    SoundMemory s → NoSuperstep s r.coreKey → twinOn s r.coreKey = none →
    let old := s.readMem loc r.size
    ∃ t q, exec (.atomicAtHome id ext) s = .next t ∧ t.req id = some q ∧ q.st = .replied old 0 false ∧
      ∀ x, t.byte x = if loc ≤ x ∧ x < loc + r.size
        then (leBytes (atomicLeaves o r.size old operand.toNat expect.toNat) r.size).getD (x - loc) 0 else s.byte x) ∧
  (∀ (s : State) (w loc o : Nat) (wr rd : Bool) (operand : Word) (tm : Nat) (r : Req), s.power = true → s.reqs = [r] →
    r.kind = .sc wr rd o operand tm → o ≤ 6 → r.st = .sent → tm / 4 = w → s.scWindow ≤ w → r.fwd = [] →
    fateAt s r = .perform loc → SoundMemory s → NoSuperstep s r.coreKey → twinOn s r.coreKey = none →
    let old := s.readMem loc r.size
    (s.clk ≠ 4 * w + 24 → exec (.scWindowPerform w) s = .next s) ∧
    (s.clk = 4 * w + 24 → ∃ t q, exec (.scWindowPerform w) s = .next t ∧ t.scWindow = w + 1 ∧ t.req r.id = some q ∧
      q.st = .replied old 0 false ∧
      ∀ x, t.byte x = if wr = true ∧ loc ≤ x ∧ x < loc + r.size
        then (leBytes (atomicLeaves o r.size old operand.toNat 0) r.size).getD (x - loc) 0 else s.byte x)) ∧
  (∀ (s : State) (id v o tm pos : Nat) (wr rd : Bool) (operand : Word) (fl : FlagSet) (r : Req) (p : Op), s.power = true →
    s.req id = some r → r.kind = .sc wr rd o operand tm → r.st = .replied v fl false → s.op r.op = some p →
    p.dest = .reg pos → (s.ctx p.ctx).wlow.toNat ≤ pos → pos ≤ (s.ctx p.ctx).wlow.toNat + 63 → p.left = 1 → p.firstRef = none →
    (s.clk ≠ tm + 28 → exec (.scResult id) s = .next s) ∧
    (s.clk = tm + 28 → ∃ t, exec (.scResult id) s = .next t ∧ (t.ctx p.ctx).readPos pos = extend r.signed r.size v ∧
      (t.ctx p.ctx).loads = (s.ctx p.ctx).loads - 1 ∧ t.req id = none ∧ t.op r.op = none ∧ t.mem = s.mem)) ∧
  (∀ (s : State) (ck line : Nat), s.power = true → ({ line := line, recalled := true } : Lease) ∈ (s.cluster ck).leases →
    ∃ t, exec (.leaseWriteback ck line) s = .next t ∧ (∀ l ∈ (t.cluster ck).leases, l.line ≠ line) ∧
      line ∈ (t.cluster ck).leaseRefused ∧ t.mem = s.mem)

/-! ## Requests at their owners -/

/-- R92, R136, R254, R256, R259, R404: a load at its owner is performed with the bytes there, refused with the value 0, or
starts a walk; a walk that finds no page parks its request and asks for the page; a replayed request is performed; a reply
writes the destination, a refused one 0 with cause 0x042 pending. Model choices: log 33, 35, 87. -/
def Obligations.RequestEvents : Prop :=
  (∀ (s : State) (id : Nat) (ext : Ext) (r : Req), s.power = true → s.req id = some r → r.kind = .load → r.st = .sent →
    linkBehind s r = false → r.fwd = [] → 0 < r.size → SoundMemory s →
    (∀ loc, fateAt s r = .perform loc → ∃ t q, exec (.accessAtOwner id ext) s = .next t ∧ t.req id = some q ∧
      q.st = .replied (s.readMem loc r.size) 0 false ∧ t.mem = s.mem) ∧
    (∀ d c i, fateAt s r = .refuse d c i → ∃ t q, exec (.accessAtOwner id ext) s = .next t ∧ t.req id = some q ∧
      q.st = .replied 0 0 true ∧ t.mem = s.mem) ∧
    (∀ d, fateAt s r = .walk d → walkedAtDie s r.world d < 8 → walkersUsed s d < 64 → ∃ t q, exec (.accessAtOwner id ext) s = .next t ∧
      t.req id = some q ∧ q.st = .walking s.clk ∧ t.mem = s.mem)) ∧
  (∀ (s : State) (id d tm p : Nat) (r : Req), s.power = true → s.req id = some r → r.kind = .load → r.fwd = [] →
    r.route = some (p, d) → SoundMemory s → inService s d 432 = true → 0 < r.size →
    (r.st = .walking tm → ∀ st page ga, walk s r.world d (bits r.va 47 0) = .absent st page ga → parkFull s r.world d = false →
      ∃ t q, exec (.walkEnd id) s = .next t ∧ t.req id = some q ∧ q.st = .parked ∧ q.page = some (st, page) ∧
        (t.wd r.world d).requests.any (fun x => x.stage = st && x.page = page) = true ∧ t.mem = s.mem) ∧
    (∀ pa perm size ga loc, walk s r.world d (bits r.va 47 0) = .ok pa perm size ga → permits perm permR = true →
      afterPa s r d pa = .perform loc →
      (r.st = .walking tm → ∃ t q, exec (.walkEnd id) s = .next t ∧ t.req id = some q ∧
        q.st = .replied (s.readMem loc r.size) 0 false ∧ t.mem = s.mem) ∧
      (r.st = .parked → r.page = none → ∃ t q, exec (.parkReplay id) s = .next t ∧ t.req id = some q ∧
        q.st = .replied (s.readMem loc r.size) 0 false ∧ t.mem = s.mem))) ∧
  (∀ (s : State) (w d : Nat) (x : PageReq), s.power = true → (s.wd w d).requests = [x] → x.posted = false →
    ∃ t y, exec (.pageRequestDeferredPost w d) s = .next t ∧ (t.wd w d).requests = [y] ∧ y.posted = true ∧
      y.stage = x.stage ∧ y.page = x.page ∧ (t.wd w d).nextReq = BitVec.ofNat 16 y.id + 1) ∧
  (∀ (s : State) (id tm : Nat) (r : Req) (o : Op), s.power = true → s.req id = some r → r.kind = .load → r.st = .parked →
    s.op r.op = some o → o.noticed = false → o.parkedAt = some tm → tm + (s.ctx o.ctx).pnote.toNat ≤ s.clk →
    parkedOf s r.op = [r] → (s.ctx o.ctx).trap.upvec ≠ 0 → (s.ctx o.ctx).run = .live → (s.ctx o.ctx).kind = .control →
    (s.ctx o.ctx).pending.length < 8 →
    ∃ t, exec (.parkNoticeTimeout id) s = .next t ∧ (t.ctx o.ctx).pending = (s.ctx o.ctx).pending ++
      [{ cause := 0x061#9, taddr := o.parkVa, tinfo := BitVec.ofNat 64 (o.pc.toNat / 4 + 2 ^ 46) }] ∧ t.mem = s.mem) ∧
  (∀ (s : State) (id v pos : Nat) (fl : FlagSet) (refused : Bool) (r : Req) (o : Op), s.power = true → s.req id = some r →
    r.kind = .load → r.st = .replied v fl refused → s.op r.op = some o → o.dest = .reg pos →
    (s.ctx o.ctx).wlow.toNat ≤ pos → pos ≤ (s.ctx o.ctx).wlow.toNat + 63 → o.left = 1 → o.firstRef = none →
    o.refused = 0 → (s.ctx o.ctx).run = .live → (s.ctx o.ctx).kind = .control → (s.ctx o.ctx).pending.length < 8 →
    o.cause = 0x042#9 →
    ∃ t, exec (.loadReturn id) s = .next t ∧ t.req id = none ∧ t.op r.op = none ∧ t.mem = s.mem ∧
      (t.ctx o.ctx).readPos pos = (if refused then 0 else extend r.signed r.size v) ∧
      (t.ctx o.ctx).loads = (s.ctx o.ctx).loads - 1 ∧
      (t.ctx o.ctx).pending = (s.ctx o.ctx).pending ++ (if refused then
        [{ cause := 0x042#9, taddr := r.va, tinfo := BitVec.ofNat 64 (o.pc.toNat / 4 + 2 ^ 55) }] else []))

/-- R148, R204, R238, R404, R405: a drained entry whose granule is whole is performed when it reaches its owner; one that is not
whole locks a sealed granule with its merge read and writes its bytes with the write-back; the acknowledgement frees it and the
stores counter falls. `publish` completes when the entries it drained have been acknowledged. Model choices: log 31. -/
def Obligations.DrainResults : Prop :=
  (∀ (s : State) (core entry loc id : Nat) (ext : Ext) (e : JEntry) (r : Req), s.power = true → s.entry core entry = some e →
    e.req = some id → s.req id = some r → r.kind = .drain entry → r.coreKey = core → r.st = .sent →
    linkBehind s r = false → olderPending s core e = false → fateAt s r = .perform loc → SoundMemory s → NoSuperstep s core → twinOn s core = none →
    (e.mask = BitVec.allOnes 64 → ∃ t f, exec (.drainPerform core entry ext) s = .next t ∧ t.entry core entry = some f ∧
      f.st = .performed ∧ t.req id = none ∧
      ∀ x, t.byte x = if loc ≤ x ∧ x < loc + 64 then e.data.extractLsb' (8 * (x - loc)) 8 else s.byte x) ∧
    (e.mask ≠ BitVec.allOnes 64 → isMerge s r e = true → sealedLoc loc = true → ∃ t q, exec (.mergeRead core entry) s = .next t ∧
      t.req id = some q ∧ q.st = .merging ∧ (loc / 64 * 64, r.id) ∈ t.merges ∧ t.mem = s.mem)) ∧
  (∀ (s : State) (core entry loc id : Nat) (e : JEntry) (r : Req), s.power = true → s.entry core entry = some e →
    e.req = some id → s.req id = some r → r.kind = .drain entry → r.coreKey = core → r.st = .merging →
    s.merges = [(loc, r.id)] → loc + 64 ≤ 2 ^ 56 → SoundMemory s → NoSuperstep s core → twinOn s core = none →
    ∃ t f, exec (.mergeWriteback core entry) s = .next t ∧ t.entry core entry = some f ∧ f.st = .performed ∧ t.merges = [] ∧
      ∀ x, t.byte x = if loc ≤ x ∧ x < loc + 64 ∧ e.mask.getLsbD (x - loc) = true then e.data.extractLsb' (8 * (x - loc)) 8
        else s.byte x) ∧
  (∀ (s : State) (core entry : Nat) (e : JEntry), s.power = true → (s.core core).journal = [e] → e.id = entry →
    e.st = .performed → (s.core core).reports = [] → (s.ctx (core * 16)).arrivals = [] →
    ∃ t, exec (.drainAck core entry) s = .next t ∧ (t.core core).journal = [] ∧
      (t.ctx (core * 16 + e.ctxSlot)).stores = (s.ctx (core * 16 + e.ctxSlot)).stores - 1 ∧ t.mem = s.mem) ∧
  (∀ (s : State) (sc : BitVec 3), Fresh s → Ready s (.publish sc) →
    (s.cx.phase = 0 → (s.core s.cx.coreKey).journal = [] →
      ∃ t, exec (.publish sc) s = .next t ∧ NoRegisters s t 4 ∧ t.mem = s.mem) ∧
    (s.cx.phase = 1 → acked s s.cx.coreKey s.cx.waitEntries = true → Writes s (.publish sc) 0 0 4) ∧
    (s.cx.phase = 1 → acked s s.cx.coreKey s.cx.waitEntries = false → exec (.publish sc) s = .next s))

/-! ## Barriers and futures -/

/-- R197 to R201, R339, R340: an accepted `arrive` closes the phase and puts the core into the arrived set, and one of a core
that is no member or has arrived returns 0, or raises 0x0A2 where the destination is s0; an accepted `arrive.ss` at group 0
opens a superstep, which is unrecoverable where its log area cannot be written, and raises 0x162 with the lowest reason that
applies; `wait` returns GEN once the barrier has completed and its stagger has passed, and waits until then; `bmask` and `bstep`
set the mask and the stagger of a group at rest, as a write of its register does, `bstep` from the register as it is after the
old stagger is written. Model choices: log 23, 25 (the reason, and TADDR a free value). -/
def Obligations.BarrierInstructions : Prop :=
  ∀ (s : State) (d a : SReg) (sc : BitVec 3) (g : BitVec 4) (b : GReg) (reg : BitVec 12), Fresh s →
    let core := s.cx.coreKey
    let key := groupAt sc.toNat core g.toNat
    let place : Word := BitVec.ofNat 64 (sc.toNat * 16 + g.toNat)
    let member := (maskCores sc.toNat core (s.group key).mask).contains core = true
    let v := s.rS a
    let traps (i : Instr) (k : Cause) (taddr : Word) : Prop :=
      exec i s = .next (raiseExact s s.cur k taddr (firstWord i) s.cx.pc)
    let waits : Prop := ∃ t, exec (.wait d sc g) s = .next t ∧ OnlyContext s t ∧ t.cx = { s.cx with phase := 1 }
    (Ready s (.arrive d sc g 0) → member → findArrival s.cx sc.toNat g.toNat = none →
      ∃ t x, exec (.arrive d sc g 0) s = .next t ∧ t.rS d = written d 1 ∧ t.cx.pc = s.cx.pc + 4 ∧
        (∀ q, q ≠ d → t.rS q = s.rS q) ∧ (t.core core).phase = (s.core core).phase + 1 ∧
        (t.group key).arrived = (s.group key).arrived ++ [core] ∧ (t.group key).state = 1 ∧ t.mem = s.mem ∧
        findArrival t.cx sc.toNat g.toNat = some x ∧ x.closed = (s.core core).phase ∧ x.released = none) ∧
    (∀ x : BitVec 1, Ready s (.arrive d sc g x) → ¬ member ∨ (findArrival s.cx sc.toNat g.toNat).isSome = true →
      if d = 0 then traps (.arrive d sc g x) 0x0A2#9 place else Writes s (.arrive d sc g x) d 0 4) ∧
    (Ready s (.arrive d sc g 1) → member → findArrival s.cx sc.toNat g.toNat = none → g ≠ 0 →
      traps (.arrive d sc g 1) 0x0A6#9 place) ∧
    (Ready s (.arrive d sc g 1) → member → findArrival s.cx sc.toNat g.toNat = none → g = 0 →
      (∀ r, snapReason s core sc.toNat = some r → exec (.arrive d sc g 1) s = .next (raiseExact { s with free := s.free + 1 } s.cur
        0x162#9 (Config.freeWord s.free) (tinfoReason (.arrive d sc g 1) r) s.cx.pc)) ∧
      (∀ m, snapReason s core sc.toNat = none → snapWaits s core = none → (jobOn s core).bind (·.snap) = some m →
        let open' := (s.core core).snap
        let area := logArea m (rankIn (gangOf s core) core) (open'.number + 1)
        ∃ t x, exec (.arrive d sc g 1) s = .next t ∧ t.rS d = written d 1 ∧ t.cx.pc = s.cx.pc + 4 ∧
          (∀ q, q ≠ d → t.rS q = s.rS q) ∧ (t.core core).phase = (s.core core).phase + 1 ∧
          (t.group key).arrived = (s.group key).arrived ++ [core] ∧ findArrival t.cx sc.toNat 0 = some x ∧
          x.closed = (s.core core).phase ∧ x.released = none ∧
          (t.core core).snap.isOpen = true ∧ (t.core core).snap.number = open'.number + 1 ∧
          (t.core core).snap.closed = (s.core core).phase ∧ (t.core core).snap.scope = sc.toNat ∧
          (t.core core).snap.group = 0 ∧ (t.core core).snap.recorded = [] ∧ (t.core core).snap.rbcnt = open'.rbcnt ∧
          (t.core core).snap.rolled = 0 ∧
          (open'.isOpen = true → ((t.core core).older.map (·.closing)) = some (some (s.core core).phase) ∧
            ((t.core core).older.map (·.number)) = some open'.number) ∧
          (vaLoc s (s.core core).world (core / 192) permW area = none → (t.core core).snap.unrec = true ∧ t.mem = s.mem))) ∧
    (Ready s (.wait d sc g) → findArrival s.cx sc.toNat g.toNat = none → traps (.wait d sc g) 0x0A3#9 place) ∧
    (∀ x, Ready s (.wait d sc g) → findArrival s.cx sc.toNat g.toNat = some x →
      (x.released = none → waits) ∧
      (∀ gen due, x.released = some (gen, due) → (s.clk < due → waits) ∧
        (due ≤ s.clk → ∃ t, exec (.wait d sc g) s = .next t ∧ t.cx.pc = s.cx.pc + 4 ∧
          t.rS d = written d (BitVec.ofNat 64 (gen.toNat + if x.refused then 2 ^ 16 else 0)) ∧
          (∀ q, q ≠ d → t.rS q = s.rS q) ∧ findArrival t.cx sc.toNat g.toNat = none ∧ t.mem = s.mem))) ∧
    (Ready s (.bmask d a sc g) →
      if maskOk s sc.toNat core v = false then traps (.bmask d a sc g) 0x0A4#9 v
      else if (s.group key).idle = true then
        ∃ t, exec (.bmask d a sc g) s = .next t ∧ t.rS d = written d 1 ∧ t.cx.pc = s.cx.pc + 4 ∧
          (∀ q, q ≠ d → t.rS q = s.rS q) ∧ t.group key = { s.group key with mask := v } ∧ t.mem = s.mem
      else Writes s (.bmask d a sc g) d 0 4) ∧
    (Ready s (.bstep d a sc g) →
      if 15 < v.toNat ∨ spansNode s sc.toNat core = false then traps (.bstep d a sc g) 0x0A4#9 v
      else
        let old : Word := written d (BitVec.ofNat 64 (s.group key).step)
        ∃ t, exec (.bstep d a sc g) s = .next t ∧ t.rS d = old ∧ t.cx.pc = s.cx.pc + 4 ∧ (∀ q, q ≠ d → t.rS q = s.rS q) ∧
          t.group key = { s.group key with step := if a = d then old.toNat else v.toNat } ∧ t.mem = s.mem) ∧
    (Ready s (.groupRegisterWrite b reg) →
      ∃ t, exec (.groupRegisterWrite b reg) s = .next t ∧ NoRegisters s t 4 ∧ t.mem = s.mem ∧
        ∀ scope n state, groupReg reg.toNat = some (scope, n, state) →
          let k := groupAt scope core n
          t.group k = if state = true then
              (if spansNode s scope core = true then { s.group k with step := ((s.rG b).extractLsb' 44 4).toNat } else s.group k)
            else if maskOk s scope core (s.rG b) = true ∧ (s.group k).idle = true then { s.group k with mask := s.rG b }
            else s.group k)

/-- R198, R199: when every member has arrived, and the latency of the node has passed, the group drains; when every member has
signalled, it completes: GEN rises by one, both sets are empty, and the member of rank q may return q × STEP later. A `wait`
under way then returns. A barrier stands still while a member is saved, or while a rollback undoes what it would end. Model
choices: log 23, 117. -/
def Obligations.BarrierEvents : Prop :=
  (∀ (s : State) (node g : Nat), s.power = true →
    let key := groupKey node g
    let ms := membersOf s node g
    membersHere s node g ms = true →
    ((s.group key).state = 1 → (∀ c ∈ ms, c ∈ (s.group key).arrived) → (s.group key).lastArrive + latA node ≤ s.clk →
      ∃ t, exec (.barrierDrainStart node g) s = .next t ∧ (t.group key).state = 2 ∧ t.mem = s.mem) ∧
    ((s.group key).state = 2 → (∀ c ∈ ms, c ∈ (s.group key).drained) → ms.any (endsRolled s node g) = false → (s.group key).lastSignal + latC node ≤ s.clk →
      ∃ t, exec (.barrierComplete node g) s = .next t ∧ (t.group key).state = 0 ∧ (t.group key).arrived = [] ∧
        (t.group key).drained = [] ∧ (t.group key).gen = (s.group key).gen + 1 ∧ t.mem = s.mem ∧
        ∀ q c x, ms[q]? = some c → (s.ctx (c * 16)).arrivals = [x] → x.scope = scopeOfNode node → x.group = g →
          (t.ctx (c * 16)).arrivals = [{ x with released := some ((s.group key).gen + 1,
            (s.group key).lastSignal + latC node + q * (s.group key).stepNow) }])) ∧
  (∀ (s : State) (k due : Nat) (w : Word32) (l : List Word32) (d : SReg) (sc : BitVec 3) (g : BitVec 4) (x : Arrival)
      (gen : BitVec 16), (s.ctx k).fetched = w :: l → decode w 0 = .ok (.wait d sc g) →
    Ready { s with cur := k } (.wait d sc g) → findArrival (s.ctx k) sc.toNat g.toNat = some x →
    x.released = some (gen, due) → due ≤ s.clk →
    ∃ t u, exec (.barrierWaitRelease k) s = .next t ∧ exec (.wait d sc g) { s with cur := k } = .next u ∧
      t = { u with cur := s.cur })

/-- R206 to R209: a fill of an empty cell writes its word and its full mark and makes the cell's waiters due, one a clk in the
order in which they were taken, from 2 clk after the fill and after every waiter of an earlier fill, and a fill of a full one
changes nothing; `ffill` gets 0 or 1. `fpoll` gives 0 for a full cell and 3 for an empty one; `fwait` gives 0 for a full cell,
waits for an empty one, or gives 1 where the wait table is full. Model choices: log 28. -/
def Obligations.FutureResults : Prop :=
  (∀ (s : State) (d a : SReg) (pa : Nat), Fresh s → SoundMemory s →
    let va := s.rS a
    let full := s.readMem (pa + 8) 8 ≠ 0
    let cl := s.cluster s.cx.clusterKey
    (Ready s (.ffill d a) → fillOf s s.cur s.cx.pc = none → futureCause s s.cx va false = none →
      ∃ t q, exec (.ffill d a) s = .next t ∧ t.reqs = s.reqs ++ [q] ∧ q.kind = .fill (s.rS d) ∧ q.va = va ∧ q.st = .sent ∧
        t.ctxs = s.ctxs ∧ t.mem = s.mem) ∧
    (Ready s (.ffill d a) → ∀ q v fl, fillOf s s.cur s.cx.pc = some q → q.st = .replied v fl false →
      ∃ t, exec (.ffill d a) s = .next t ∧ t.rS d = written d (BitVec.ofNat 64 v) ∧ t.cx.pc = s.cx.pc + 4 ∧ t.mem = s.mem ∧
        ∀ x, x ≠ d → t.rS x = s.rS x) ∧
    (Ready s (.fpoll d a) → futureCause s s.cx va true = none → sampleCell s va = some pa →
      Writes s (.fpoll d a) d (if full then 0 else 3) 4) ∧
    (Ready s (.fwait d a) → futureCause s s.cx va true = none → sampleCell s va = some pa → s.cx.phase = 0 →
      (full → Writes s (.fwait d a) d 0 4) ∧
      (¬ full → cl.waiters.length < 32 → (∀ w ∈ cl.waiters, w.ctx ≠ s.cur) →
        ∃ t, exec (.fwait d a) s = .next t ∧ t.cx.phase = 1 ∧ t.cx.pc = s.cx.pc ∧
          (t.cluster s.cx.clusterKey).waiters = cl.waiters ++ [{ ctx := s.cur, off := bits va 21 0, due := none }] ∧
          t.mem = s.mem) ∧
      (¬ full → cl.waiters.length = 32 → (∀ w ∈ cl.waiters, w.ctx ≠ s.cur) →
        ∃ t, exec (.fwait d a) s = .next t ∧ t.rS d = written d 1 ∧ t.cx.pc = s.cx.pc + 4 ∧ t.mem = s.mem)) ∧
    (Ready s (.fwait d a) → s.cx.phase = 1 → exec (.fwait d a) s = .next s) ∧
    (Ready s (.fwait d a) → s.cx.phase = 2 → Writes s (.fwait d a) d 0 4)) ∧
  (∀ (s : State) (id loc : Nat) (v : Word) (r : Req), s.power = true → s.req id = some r → r.kind = .fill v → r.st = .sent →
    linkBehind s r = false → fateAt s r = .perform loc → SoundMemory s → NoSuperstep s r.coreKey → twinOn s r.coreKey = none →
    let full := s.readMem (loc + 8) 8 ≠ 0
    ∃ t q, exec (.futureFillAtBank id) s = .next t ∧ t.req id = some q ∧ q.st = .replied (if full then 1 else 0) 0 false ∧
      (∀ x, t.byte x = if ¬ full ∧ loc ≤ x ∧ x < loc + 16 then (leBytes v.toNat 8 ++ leBytes 1 8).getD (x - loc) 0
        else s.byte x) ∧
      ∀ ck, clusterOfLoc loc = some ck →
        let ws := (s.cluster ck).waiters
        let hit (w : Waiter) : Bool := w.off = loc % 0x400000 && w.due.isNone
        if full then (t.cluster ck).waiters = ws
        else ∃ first, s.clk + 2 ≤ first ∧ (∀ w ∈ ws, ∀ tm, w.due = some tm → tm < first) ∧
          ((∀ w ∈ ws, w.due = none) → first = s.clk + 2) ∧ (t.cluster ck).waiters.length = ws.length ∧
          ∀ (i : Nat) (w : Waiter), ws[i]? = some w → (t.cluster ck).waiters[i]? = some
            (if hit w then { w with due := some (first + (ws.take i).countP hit) } else w)) ∧
  (∀ (s : State) (ck tm : Nat) (w : Waiter), s.power = true → (s.cluster ck).waiters = [w] → w.due = some tm → tm ≤ s.clk →
    (s.ctx w.ctx).phase = 1 → (s.ctx w.ctx).waitSubs = cellMark w.off →
    ∃ t, exec (.futureWake ck) s = .next t ∧ (t.cluster ck).waiters = [] ∧ (t.ctx w.ctx).phase = 2 ∧ t.mem = s.mem)

/-! ## Planes -/

/-- R121, R124, R126, R127: the 32-bit integer forms, element by element, for a plane and for an immediate as second operand; an
element whose mask bit is 0 keeps its value, and no flag is raised. -/
def Obligations.PlaneIntegerResults : Prop :=
  ∀ (s : State) (d a b : PReg) (k : KReg) (r : BitVec 2) (t : BitVec 4) (m : BitVec 32), Fresh s → SoundShape s →
    NoSuperstep s s.cx.coreKey → t = 1#4 ∨ t = 2#4 →
    let at_ (u : State) (p : PReg) (i j : Nat) : Word32 := planeAt u s.cx.coreKey p.toNat i j
    let gives (ins : Instr) (src : Nat → Nat → Word32) (f : Word32 → Word32 → Word32) (n : Nat) : Prop :=
      Ready s ins → ∃ u, exec ins s = .next u ∧ PlaneFrame s u d n ∧ u.cx.ast = s.cx.ast ∧
        ∀ i j, i < s.cx.rows → j < s.cx.cols → at_ u d i j =
          if maskBit (s.cx.mask k.toNat) i j 0 = true then f (at_ s a i j) (src i j) else at_ s d i j
    let both (plane imm : Instr) (f : Word32 → Word32 → Word32) : Prop :=
      gives plane (at_ s b) f 4 ∧ gives imm (fun _ _ => m) f 8
    let less (x y : Word32) : Bool := if t = 1#4 then decide (x.toInt < y.toInt) else decide (x.toNat < y.toNat)
    both (.vadd d a b k r t) (.vaddImm d a k r t m) (fun x y => x + y) ∧
    both (.vsub d a b k r t) (.vsubImm d a k r t m) (fun x y => x - y) ∧
    both (.vmul d a b k r t) (.vmulImm d a k r t m) (fun x y => x * y) ∧
    both (.vmulh d a b k r t) (.vmulhImm d a k r t m) (fun x y => if t = 1#4
      then (x.signExtend 64 * y.signExtend 64).extractLsb' 32 32 else (x.zeroExtend 64 * y.zeroExtend 64).extractLsb' 32 32) ∧
    both (.vmin d a b k r t) (.vminImm d a k r t m) (fun x y => if less y x then y else x) ∧
    both (.vmax d a b k r t) (.vmaxImm d a k r t m) (fun x y => if less x y then y else x) ∧
    both (.vand d a b k t) (.vandImm d a k t m) (fun x y => x &&& y) ∧
    both (.vor d a b k t) (.vorImm d a k t m) (fun x y => x ||| y) ∧
    both (.vxor d a b k t) (.vxorImm d a k t m) (fun x y => x ^^^ y) ∧
    both (.vshl d a b k t) (.vshlImm d a k t m) (fun x y => x <<< (y.toNat % 32)) ∧
    both (.vshr d a b k t) (.vshrImm d a k t m) (fun x y => x >>> (y.toNat % 32)) ∧
    both (.vsar d a b k t) (.vsarImm d a k t m) (fun x y => x.sshiftRight (y.toNat % 32)) ∧
    gives (.vpopc d a k t) (fun _ _ => 0) (fun x _ => BitVec.ofNat 32 ((List.range 32).countP (fun n => x.getLsbD n))) 4

/-- R60, R61, R121 to R127, R132: every element-by-element form in every type: each enabled element or half gets the value of
its operation on what stood in the planes before, the others keep theirs; the flags raised are those of the enabled elements,
they become sticky, and the lowest enabled one traps after the instruction has completed. -/
def Obligations.PlaneElementResults : Prop :=
  ∀ (s : State) (d a b : PReg) (k : KReg) (r : BitVec 2) (t : BitVec 4) (m : BitVec 32) (f : BitVec 4) (g : BitVec 1), Fresh s →
    SoundShape s → NoSuperstep s s.cx.coreKey →
    let at_ (u : State) (p : PReg) (i j : Nat) : Word32 := planeAt u s.cx.coreKey p.toNat i j
    let rnd := Rnd.ofCode r
    let fmt := (g ++ f : BitVec 5).toNat
    let forms : List (Instr × SrcB × ElemOp × Nat) :=
      [(.vadd d a b k r t, .plane b, opAdd t rnd, 4), (.vsub d a b k r t, .plane b, opSub t rnd, 4),
       (.vmul d a b k r t, .plane b, opMul t rnd, 4), (.vmulh d a b k r t, .plane b, opMulh t, 4),
       (.vfma d a b k r t, .plane b, opFma t rnd, 4), (.vmin d a b k r t, .plane b, opMin t, 4),
       (.vmax d a b k r t, .plane b, opMax t, 4), (.vdiv d a b k r t, .plane b, opDiv t rnd, 4),
       (.vabs d a k r t, .imm 0, opAbs t, 4), (.vneg d a k r t, .imm 0, opNeg t, 4),
       (.vsqrt d a k r t, .imm 0, opSqrt t rnd, 4), (.vaddImm d a k r t m, .imm m, opAdd t rnd, 8),
       (.vsubImm d a k r t m, .imm m, opSub t rnd, 8), (.vmulImm d a k r t m, .imm m, opMul t rnd, 8),
       (.vmulhImm d a k r t m, .imm m, opMulh t, 8), (.vminImm d a k r t m, .imm m, opMin t, 8),
       (.vmaxImm d a k r t m, .imm m, opMax t, 8), (.vdivImm d a k r t m, .imm m, opDiv t rnd, 8),
       (.vand d a b k t, .plane b, opAnd, 4), (.vor d a b k t, .plane b, opOr, 4), (.vxor d a b k t, .plane b, opXor, 4),
       (.vshl d a b k t, .plane b, opShl t, 4), (.vshr d a b k t, .plane b, opShr t, 4),
       (.vsar d a b k t, .plane b, opSar t, 4), (.vpopc d a k t, .imm 0, opPopc t, 4), (.vclz d a k t, .imm 0, opClz t, 4),
       (.vandImm d a k t m, .imm m, opAnd, 8), (.vorImm d a k t m, .imm m, opOr, 8), (.vxorImm d a k t m, .imm m, opXor, 8),
       (.vshlImm d a k t m, .imm m, opShl t, 8), (.vshrImm d a k t m, .imm m, opShr t, 8),
       (.vsarImm d a k t m, .imm m, opSar t, 8)] ++
      (if fmt = 0 then [] else [(.vcvtTo d a f k r t g, .imm 0, opCvt rnd fmt (typeFmt t), 4),
                                (.vcvtFrom d a f k r t g, .imm 0, opCvt rnd (typeFmt t) fmt, 4)])
    ∀ x ∈ forms, Ready s x.1 →
      let on (i j : Nat) : Bool × Bool := enables (s.cx.mask k.toNat) t i j
      let new (i j : Nat) : Word32 × FlagSet :=
        applyOp t x.2.2.1 (on i j) (at_ s a i j) (x.2.1.at s s.cx.coreKey i j) (at_ s d i j)
      ∃ (u : State) (fl : FlagSet), PlaneFrame s u d x.2.2.2 ∧ u.cx.ast = s.cx.ast ||| fl.zeroExtend 64 ∧
        (∀ i j, i < s.cx.rows → j < s.cx.cols →
          at_ u d i j = if anyHalf (on i j) = true then (new i j).1 else at_ s d i j) ∧
        (∀ n, fl.getLsbD n = true ↔ ∃ i j, i < s.cx.rows ∧ j < s.cx.cols ∧ anyHalf (on i j) = true ∧
          (new i j).2.getLsbD n = true) ∧
        exec x.1 s = .next (match lowestFlag (fl &&& s.cx.ast.extractLsb' 8 7) with
          | none => u
          | some n => raiseExact u s.cur (BitVec.ofNat 9 (0x0E1 + n)) (s.cx.pc.zeroExtend 64) (fl.zeroExtend 64) u.cx.pc)

/-- R119, R120, R128, R133: comparisons write a mask, which outside the shape and where the mask operand is 0 gets 0, and
`kedge` one that is 0 outside the shape; k0 keeps all its bits; `shape` clamps and returns SHAPEG. -/
def Obligations.MaskAndShapeResults : Prop :=
  ∀ (s : State) (d a b : SReg) (q x y k : KReg) (p e : PReg) (h : BitVec 1) (c : BitVec 2) (t : BitVec 4) (m : BitVec 32),
    Fresh s → SoundShape s →
    let masks (ins : Instr) (n : Nat) (bits : Nat → Nat → Nat → Bool) : Prop :=
      Ready s ins → ∃ u, exec ins s = .next u ∧ OnlyContext s u ∧ u.cx.pc = s.cx.pc + BitVec.ofNat 48 n ∧
        (∀ z, u.rS z = s.rS z) ∧ (∀ z, z ≠ q.toNat → u.cx.mask z = s.cx.mask z) ∧
        (q = 0 → u.cx.mask 0 = BitVec.allOnes 4096) ∧
        (q ≠ 0 → ∀ i j z, i < 32 → j < 64 → z < 2 → maskBit (u.cx.mask q.toNat) i j z = bits i j z)
    let at_ (r : PReg) (i j : Nat) : Word32 := planeAt s s.cx.coreKey r.toNat i j
    let half (v : Word32) (z : Nat) : Nat := if isPair t then v.toNat / 65536 ^ z % 65536 else v.toNat
    let cmp (src : Nat → Nat → Word32) (i j z : Nat) : Bool :=
      decide (i < s.cx.rows) && decide (j < s.cx.cols) && maskBit (s.cx.mask k.toNat) i j (if isPair t then z else 0) &&
        compares t (condOf h c) (half (at_ p i j) z) (half (src i j) z)
    masks (.vcmp h q p e k c t) 4 (cmp (at_ e)) ∧ masks (.vcmpImm h q p k c t m) 8 (cmp (fun _ _ => m)) ∧
    masks (.kand q x y) 4 (fun i j z => maskBit (s.rK x) i j z && maskBit (s.rK y) i j z) ∧
    masks (.kor q x y) 4 (fun i j z => maskBit (s.rK x) i j z || maskBit (s.rK y) i j z) ∧
    masks (.kxor q x y) 4 (fun i j z => maskBit (s.rK x) i j z ^^ maskBit (s.rK y) i j z) ∧
    masks (.knot q x) 4 (fun i j z => !maskBit (s.rK x) i j z) ∧
    masks (.kedge q x) 4 (fun i j z => decide (i < s.cx.rows) && decide (j < s.cx.cols) && maskBit (s.rK x) i j z &&
      !(decide (1 ≤ j) && maskBit (s.rK x) i (j - 1) z)) ∧
    (Ready s (.kpop d x) →
      let count (z : Nat) : Nat := (shapeElems s.cx).countP (fun v => maskBit (s.rK x) v.1 v.2 z)
      Writes s (.kpop d x) d (BitVec.ofNat 64 (count 1 * 2 ^ 32 + count 0)) 4) ∧
    (Ready s (.shapeq d) → Writes s (.shapeq d) d
      (BitVec.ofNat 64 (s.cx.planes.toNat * 2 ^ 32 + s.cx.rows * 2 ^ 16 + s.cx.cols)) 4) ∧
    (Ready s (.shape d a b) →
      let rows := min (max (s.rS a).toNat 1) 32
      let cols := min (max (s.rS b).toNat 1) 64
      let planes : BitVec 16 := if s.cx.kind = .control then 0xFFFF else s.cx.planes
      ∃ u, exec (.shape d a b) s = .next u ∧ OnlyContext s u ∧ u.cx.pc = s.cx.pc + 4 ∧ u.cx.rows = rows ∧ u.cx.cols = cols ∧
        u.cx.planes = planes ∧ u.cx.masks = s.cx.masks ∧
        u.rS d = written d (BitVec.ofNat 64 (planes.toNat * 2 ^ 32 + rows * 2 ^ 16 + cols)) ∧ ∀ z, z ≠ d → u.rS z = s.rS z)

/-- R52, R54, R129 to R132: selection and fills, reductions and scans along rows and columns from the first enabled element,
transposition, permutation within a row, and the F64 conversions over pairs of columns. -/
def Obligations.PlaneMovementResults : Prop :=
  ∀ (s : State) (d a b : PReg) (g : SReg) (k : KReg) (x : BitVec 1) (o : BitVec 3) (r : BitVec 2) (t : BitVec 4)
    (m : BitVec 32), Fresh s → SoundShape s → NoSuperstep s s.cx.coreKey →
    let at_ (u : State) (p : PReg) (i j : Nat) : Word32 := planeAt u s.cx.coreKey p.toNat i j
    let on (i j : Nat) : Bool × Bool := enables (s.cx.mask k.toNat) t i j
    let inside (i j : Nat) : Prop := i < s.cx.rows ∧ j < s.cx.cols
    let moves (ins : Instr) (n : Nat) (new : Nat → Nat → Word32) : Prop :=
      Ready s ins → ∃ u, exec ins s = .next u ∧ PlaneFrame s u d n ∧ u.cx.ast = s.cx.ast ∧
        ∀ i j, inside i j → at_ u d i j = new i j
    let put (i j : Nat) (v : Word32) : Word32 := mergeHalves (at_ s d i j) v (on i j)
    let v25 (v : Word32) : Word32 := if t = 6#4 then v &&& 0x01FFFFFF#32 else v
    let quiet : Prop := s.cx.ast.extractLsb' 8 7 = 0
    let line (i j n : Nat) : List Nat := (List.range n).filterMap (fun z =>
      let p := if x = 0 then (i, z) else (z, j)
      if maskBit (s.cx.mask k.toNat) p.1 p.2 0 then some (redStart t (at_ s a p.1 p.2).toNat) else none)
    let total (l : List Nat) : Nat :=
      match l with
      | [] => redIdentity o t
      | v :: w => w.foldl (fun acc y => (redOp o t (Rnd.ofCode r) acc y).1) v
    moves (.vsel d a b k t) 4 (fun i j => v25 (mergeHalves (at_ s b i j) (at_ s a i j) (on i j))) ∧
    moves (.vbcast d g k t) 4 (fun i j => put i j (v25 ((s.rS g).extractLsb' 0 32))) ∧
    moves (.vbcastImm d k t m) 8 (fun i j => put i j (v25 m)) ∧
    moves (.vidx d k t) 4 (fun i j => if maskBit (s.cx.mask k.toNat) i j 0 = true then BitVec.ofNat 32 (i * s.cx.cols + j)
      else at_ s d i j) ∧
    moves (.vperm d a b k t) 4 (fun i j =>
      let z := (at_ s b i j).toNat % 64
      put i j (if s.cx.cols ≤ z then 0 else at_ s a i z)) ∧
    (Ready s (.vtrans d a k t) → ∃ u, exec (.vtrans d a k t) s = .next u ∧ u.cx.pc = s.cx.pc + 4 ∧ u.mem = s.mem ∧
      (∀ z, u.rS z = s.rS z) ∧ ∀ p i j, p < 16 → i < 32 → j < 64 → planeAt u s.cx.coreKey p i j =
        if p = d.toNat ∧ i < s.cx.cols ∧ j < s.cx.rows then put i j (at_ s a j i) else planeAt s s.cx.coreKey p i j) ∧
    (Ready s (.vred d a x o k r t) → quiet → ∃ u, exec (.vred d a x o k r t) s = .next u ∧ PlaneFrame s u d 4 ∧
      ∀ i j, inside i j → at_ u d i j =
        if x = 0 ∧ j = 0 then BitVec.ofNat 32 (total (line i j s.cx.cols))
        else if x = 1 ∧ i = 0 then BitVec.ofNat 32 (total (line i j s.cx.rows)) else at_ s d i j) ∧
    (Ready s (.vscan d a x o k r t) → quiet → ∃ u, exec (.vscan d a x o k r t) s = .next u ∧ PlaneFrame s u d 4 ∧
      ∀ i j, inside i j → at_ u d i j = if maskBit (s.cx.mask k.toNat) i j 0 = true
        then BitVec.ofNat 32 (total (line i j (if x = 0 then j + 1 else i + 1))) else at_ s d i j) ∧
    (Ready s (.vcvtTo d a 0 k r t 0) → quiet → ∃ u, exec (.vcvtTo d a 0 k r t 0) s = .next u ∧ u.cx.pc = s.cx.pc + 4 ∧
      u.mem = s.mem ∧ (∀ z, u.rS z = s.rS z) ∧ ∀ p i j, p < 16 → i < 32 → j < 64 → planeAt u s.cx.coreKey p i j =
        if p = d.toNat ∧ inside i (j / 2) ∧ maskBit (s.cx.mask k.toNat) i (j / 2) 0 = true then
          BitVec.ofNat 32 ((cvtBits (Rnd.ofCode r) 0 (typeFmt t) (at_ s a i (j / 2)).toNat).1 / 2 ^ (32 * (j % 2)))
        else planeAt s s.cx.coreKey p i j) ∧
    (Ready s (.vcvtFrom d a 0 k r t 0) → quiet → ∃ u, exec (.vcvtFrom d a 0 k r t 0) s = .next u ∧ PlaneFrame s u d 4 ∧
      ∀ i j, inside i j → at_ u d i j = if maskBit (s.cx.mask k.toNat) i j 0 = true then
          BitVec.ofNat 32 (cvtBits (Rnd.ofCode r) (typeFmt t) 0
            ((at_ s a i (2 * j)).toNat + 2 ^ 32 * (at_ s a i (2 * j + 1)).toNat)).1
        else at_ s d i j)

/-- R134 to R142: plane loads and stores of the core's own unit memory move each enabled element at once, packed ones of w bits
from BA, which advances over the whole shape; a vector atomic there returns the old values and leaves the new ones, with the
flags of its F32 additions. Elements elsewhere go out as one request each (a load, an atomic) or are posted (a store). An
element that fails its checks raises its cause for the whole instruction. Model choices: log 39, 109. -/
def Obligations.PlaneMemoryResults : Prop :=
  ∀ (s : State) (p x : PReg) (b st : SReg) (k : KReg) (t : BitVec 4) (o : BitVec 3) (w : BitVec 5), Fresh s → SoundShape s →
    SoundMemory s → NoSuperstep s s.cx.coreKey → Quiet s → s.cx.loads < 63 →
    let core := s.cx.coreKey
    let at_ (u : State) (i j : Nat) : Word32 := planeAt u core p.toNat i j
    let on (i j : Nat) : Bool × Bool := enables (s.cx.mask k.toNat) t i j
    let inside (i j : Nat) : Prop := i < s.cx.rows ∧ j < s.cx.cols
    let strided := memElems s.cx k t (strideVa s.cx b st)
    let indexed := memElems s.cx k t (indexVa s b x)
    let all (l : List MemElem) (own : Bool) : Prop := elemCause l = none ∧ ∀ e ∈ l, ownUM s s.cx e.2.2.1 = own
    let bytesOf (e : MemElem) : Word × List Byte := elemBytes (at_ s e.1 e.2.1) e
    let loads (i : Instr) (l : List MemElem) (va : Nat → Nat → Word) : Prop :=
      (Ready s i → all l true → ∃ u, exec i s = .next u ∧ PlaneFrame s u p 4 ∧ ∀ r c, inside r c →
        at_ u r c = mergeHalves (at_ s r c) (BitVec.ofNat 32 (s.readMem (ownKey s s.cx (va r c)) 4)) (on r c)) ∧
      (Ready s i → all l false → l ≠ [] → ∃ u q, exec i s = .next u ∧ PlaneFrame s u p 4 ∧ u.reqs = s.reqs ++ q ∧
        q.map (fun z => (z.va, z.size, z.ctx)) = l.map (fun e => (e.2.2.1, 4, s.cur)) ∧ u.cx.loads = s.cx.loads + 1 ∧
        planeLocked u core p.toNat = (s.cur / 16 == core || planeLocked s core p.toNat) ∧ ∀ r c, at_ u r c = at_ s r c) ∧
      (Ready s i → ∀ y, elemCause l = some y → exec i s = .next (raiseExact s s.cur y.1 y.2 (tinfo1 i 4 false) s.cx.pc))
    let stores (i : Instr) (l : List MemElem) : Prop :=
      (Ready s i → all l true → ∃ u, exec i s = .next u ∧ NoRegisters s u 4 ∧ u.cores = s.cores ∧
        u.mem = (l.foldl (fun v e => v.setBytes (ownKey s s.cx (bytesOf e).1) (bytesOf e).2) s).mem) ∧
      (Ready s i → all l false → s.cur / 16 = core → (s.core core).journal.length + l.length ≤ 512 →
        ∃ u, exec i s = .next u ∧ NoRegisters s u 4 ∧ u.mem = s.mem ∧ ∀ e, l = [e] →
          forwarded u core (bytesOf e).1 (bytesOf e).2.length = (List.range (bytesOf e).2.length).zip (bytesOf e).2) ∧
      (Ready s i → ∀ y, elemCause l = some y → exec i s = .next (raiseExact s s.cur y.1 y.2 (tinfo1 i 4 true) s.cx.pc))
    let n := w.toNat + 1
    let span := s.cx.rows * s.cx.cols * n
    let base := ownKey s s.cx (baVa s.cx.ba)
    let sh := baBit s.cx.ba
    let atoms := memElems s.cx 0 t (indexVa s b x)
    let atomics (i : Instr) (ret : Bool) : Prop :=
      (Ready s i → all atoms true → (atoms.map (fun e => ownKey s s.cx e.2.2.1)).Nodup →
        let result (e : MemElem) : Nat × FlagSet :=
          atomicByCode (atomicCode o t) 4 (t = 0#4) (s.readMem (ownKey s s.cx e.2.2.1) 4) (at_ s e.1 e.2.1).toNat
        ∃ (u : State) (fl : FlagSet), u.cx.pc = s.cx.pc + 4 ∧ (∀ z, u.rS z = s.rS z) ∧ u.cx.ast = s.cx.ast ||| fl.zeroExtend 64 ∧
          (∀ n, fl.getLsbD n = true ↔ ret = true ∧ ∃ e ∈ atoms, (result e).2.getLsbD n = true) ∧
          (∀ e ∈ atoms, let loc := ownKey s s.cx e.2.2.1
            at_ u e.1 e.2.1 = (if ret then BitVec.ofNat 32 (s.readMem loc 4) else at_ s e.1 e.2.1) ∧
            u.readMem loc 4 = (result e).1 % 2 ^ 32) ∧
          exec i s = .next (match lowestFlag (fl &&& s.cx.ast.extractLsb' 8 7) with
            | none => u
            | some n => raiseExact u s.cur (BitVec.ofNat 9 (0x0E1 + n)) (s.cx.pc.zeroExtend 64) (fl.zeroExtend 64) u.cx.pc)) ∧
      (Ready s i → all atoms false → atoms ≠ [] → ∃ u q, exec i s = .next u ∧ u.cx.pc = s.cx.pc + 4 ∧
        (∀ z, u.rS z = s.rS z) ∧ u.mem = s.mem ∧ u.reqs = s.reqs ++ q ∧
        q.map (fun z => (z.va, z.size, z.ctx, z.isAtomic)) = atoms.map (fun e => (e.2.2.1, 4, s.cur, true)) ∧
        u.cx.loads = s.cx.loads + 1)
    loads (.vld p b st k t) strided (strideVa s.cx b st) ∧ loads (.vldi p b x k t) indexed (indexVa s b x) ∧
    stores (.vst p b st k t) strided ∧ stores (.vsti p b x k t) indexed ∧
    atomics (.vamo p b x t o) true ∧ atomics (.vrst p b x t o) false ∧
    (Ready s (.vldb p w k t) → bitCause s s.cx span false = none → ownUM s s.cx (baVa s.cx.ba) = true →
      ∃ u, exec (.vldb p w k t) s = .next u ∧ u.cx.pc = s.cx.pc + 4 ∧ u.cx.ba = baAdvance s.cx.ba span ∧ u.mem = s.mem ∧
        (∀ z, u.rS z = s.rS z) ∧ ∀ r c, inside r c →
          let v := s.readMem base ((sh + span + 7) / 8) / 2 ^ (sh + (r * s.cx.cols + c) * n) % 2 ^ n
          at_ u r c = mergeHalves (at_ s r c)
            (if t = 1#4 ∧ 2 ^ (n - 1) ≤ v then BitVec.ofNat 32 (2 ^ 32 - 2 ^ n + v) else BitVec.ofNat 32 v) (on r c)) ∧
    (Ready s (.vstb p w k t) → bitCause s s.cx span true = none →
      ∃ u, exec (.vstb p w k t) s = .next u ∧ u.cx.pc = s.cx.pc + 4 ∧ u.cx.ba = baAdvance s.cx.ba span ∧ u.cores = s.cores ∧
        (∀ z, u.rS z = s.rS z) ∧ (∀ a, a < base ∨ base + (sh + span + 7) / 8 ≤ a → u.byte a = s.byte a) ∧
        ∀ z, z < 8 * ((sh + span + 7) / 8) →
          let e := (z - sh) / n
          (u.byte (base + z / 8)).getLsbD (z % 8) =
            if sh ≤ z ∧ z < sh + span ∧ anyHalf (on (e / s.cx.cols) (e % s.cx.cols)) = true
            then (at_ s (e / s.cx.cols) (e % s.cx.cols)).getLsbD ((z - sh) % n) else (s.byte (base + z / 8)).getLsbD (z % 8))

/-- R58, R124, R125, R127, R128, R130: what the operations of the integer plane types give, on 32-bit signed and unsigned
elements and on 16-bit halves: sums, differences and products wrap, the high half of a product, minimum and maximum, absolute
value and negation, division with its corners, logic, shifts and counts, comparisons, the operators of a reduction with their
identities; and of M8, which adds, subtracts and multiplies digit by digit and gives the canonical poison for a poison operand.
-/
def Obligations.IntegerElementArithmetic : Prop :=
  (∀ (w : Nat) (t : BitVec 4) (signed : Bool), (w, t, signed) ∈ [(32, 1#4, true), (32, 2#4, false), (16, 5#4, true)] →
    ∀ (m : Rnd) (x y : BitVec w) (z : Nat),
    let is (r : Nat × FlagSet) (v : BitVec w) : Prop := r = (v.toNat, 0)
    let least : BitVec w := BitVec.ofNat w (2 ^ (w - 1))
    let top : BitVec w := least - 1
    let less (a b : BitVec w) : Bool := if signed then decide (a.toInt < b.toInt) else decide (a.toNat < b.toNat)
    is (opAdd t m x.toNat y.toNat z) (x + y) ∧ is (opSub t m x.toNat y.toNat z) (x - y) ∧
    is (opMul t m x.toNat y.toNat z) (x * y) ∧
    is (opMulh t x.toNat y.toNat z) (if signed then ((x.signExtend (2 * w) * y.signExtend (2 * w)) >>> w).truncate w
      else ((x.zeroExtend (2 * w) * y.zeroExtend (2 * w)) >>> w).truncate w) ∧
    is (opMin t x.toNat y.toNat z) (if less y x then y else x) ∧ is (opMax t x.toNat y.toNat z) (if less x y then y else x) ∧
    (signed = true →
      opAbs t x.toNat y.toNat z = (if x = least then (top.toNat, fSAT) else ((if x.toInt < 0 then -x else x).toNat, 0)) ∧
      opNeg t x.toNat y.toNat z = (if x = least then (top.toNat, fSAT) else ((-x).toNat, 0))) ∧
    (w = 32 → opDiv t m x.toNat y.toNat z =
      if y = 0 then ((BitVec.allOnes w).toNat, fDVZ)
      else if signed then (if x = least ∧ y = BitVec.allOnes w then (top.toNat, fSAT) else ((x.sdiv y).toNat, 0))
      else ((x / y).toNat, 0)) ∧
    is (opAnd x.toNat y.toNat z) (x &&& y) ∧ is (opOr x.toNat y.toNat z) (x ||| y) ∧ is (opXor x.toNat y.toNat z) (x ^^^ y) ∧
    is (opShl t x.toNat y.toNat z) (x <<< (y.toNat % w)) ∧ is (opShr t x.toNat y.toNat z) (x >>> (y.toNat % w)) ∧
    is (opSar t x.toNat y.toNat z) (x.sshiftRight (y.toNat % w)) ∧
    opPopc t x.toNat y.toNat z = ((List.range w).countP (fun n => x.getLsbD n), 0) ∧
    (∀ n, (opClz t x.toNat y.toNat z).1 = n ↔ n ≤ w ∧ (∀ i, i < n → x.getMsbD i = false) ∧ (n < w → x.getMsbD n = true)) ∧
    (opClz t x.toNat y.toNat z).2 = 0 ∧
    compares t 0 x.toNat y.toNat = decide (x = y) ∧ compares t 1 x.toNat y.toNat = decide (x ≠ y) ∧
    compares t 2 x.toNat y.toNat = less x y ∧ compares t 3 x.toNat y.toNat = !less y x ∧
    compares t 4 x.toNat y.toNat = less y x ∧ compares t 5 x.toNat y.toNat = !less x y ∧
    (w = 32 → redStart t x.toNat = x.toNat ∧ redOp 0 t m x.toNat y.toNat = ((x + y).toNat, 0) ∧
      redOp 1 t m x.toNat y.toNat = ((if less y x then y else x).toNat, 0) ∧
      redOp 2 t m x.toNat y.toNat = ((if less x y then y else x).toNat, 0) ∧
      redOp 3 t m x.toNat y.toNat = ((x &&& y).toNat, 0) ∧ redOp 4 t m x.toNat y.toNat = ((x ||| y).toNat, 0) ∧
      redOp 5 t m x.toNat y.toNat = ((x ^^^ y).toNat, 0) ∧
      ∀ o, o < 6#3 → (redOp o t m (redIdentity o t) x.toNat).1 = x.toNat)) ∧
  (∀ (m : Rnd) (a b z : Nat),
    (reading 13 a = .poison ∨ reading 13 b = .poison →
      ∀ r ∈ [opAdd 6#4 m a b z, opSub 6#4 m a b z, opMul 6#4 m a b z], r = (0x01FFFFFF, fPSN)) ∧
    (reading 13 a ≠ .poison → ∃ x : ℤ, reading 13 a = whole x ∧ -8388480 ≤ x ∧ x ≤ 8388479 ∧ m8Bits x = a % 2 ^ 25) ∧
    ∀ x y : ℤ, m8Bits x = a % 2 ^ 25 → m8Bits y = b % 2 ^ 25 → opAdd 6#4 m a b z = (m8Bits (x + y), 0) ∧
      opSub 6#4 m a b z = (m8Bits (x - y), 0) ∧ opMul 6#4 m a b z = (m8Bits (x * y), 0))

/-- R51, R52, R59, R124, R126, R128, R130: what the operations of the floating-point plane types give, on F32 elements and on
F16 and W16 halves: the exact sum, difference, product, product and sum of `vfma`, quotient and square root, rounded once with
the flags of R59; minimum, maximum, absolute value and negation exactly; the comparisons; the operators of a reduction. Model
choices: log 97 (the flag of an invalid product whose sum is a NaN). -/
def Obligations.FloatElementArithmetic : Prop :=
  ∀ (t : BitVec 4) (c : Nat) (f : FloatFmt) (m m1 : Rnd) (x y z : Nat),
    (t, c) ∈ [(0#4, 1), (3#4, 3), (4#4, 4)] → codeFloat c = some f → x < 2 ^ (1 + f.ebits + f.fbits) → y < 2 ^ (1 + f.ebits + f.fbits) →
    z < 2 ^ (1 + f.ebits + f.fbits) →
    let a := reading c x
    let b := reading c y
    let p := a.mul b
    let q := p.1.add m (reading c z)
    let unordered : Bool := decide (a = .nan) || decide (b = .nan)
    Gives m c (a.add m b) (opAdd t m x y z) ∧ Gives m c (a.add m b.neg) (opSub t m x y z) ∧ Gives m c p (opMul t m x y z) ∧
    Gives m c (q.1, p.2 ||| q.2) (opFma t m x y z) ∧
    Gives m1 c (a.min b, 0) (opMin t x y z) ∧ Gives m1 c (a.max b, 0) (opMax t x y z) ∧
    Gives m1 c (a.abs, 0) (opAbs t x y z) ∧ Gives m1 c (a.neg, 0) (opNeg t x y z) ∧
    (t = 0#4 → Gives m c (a.div b) (opDiv t m x y z) ∧
      (match a with
        | .num neg v => (v < 0 → opSqrt t m x y z = (codeNaN c, fINV)) ∧
            (0 ≤ v → f.Rounds m neg (Real.sqrt v) (opSqrt t m x y z))
        | .inf neg => opSqrt t m x y z = if neg then (codeNaN c, fINV) else (x, 0)
        | _ => opSqrt t m x y z = (codeNaN c, 0)) ∧
      Gives m1 c (a, 0) (redStart t x, 0) ∧ redOp 0 t m x y = opAdd t m x y z ∧ redOp 1 t m x y = opMin t x y z ∧
      redOp 2 t m x y = opMax t x y z ∧ reading 1 (redIdentity 0 t) = .num false 0 ∧ reading 1 (redIdentity 1 t) = .inf false ∧
      reading 1 (redIdentity 2 t) = .inf true) ∧
    compares t 0 x y = (!unordered && !a.less b && !b.less a) ∧ compares t 1 x y = (unordered || a.less b || b.less a) ∧
    compares t 2 x y = (!unordered && a.less b) ∧ compares t 3 x y = (!unordered && !b.less a) ∧
    compares t 4 x y = (!unordered && b.less a) ∧ compares t 5 x y = (!unordered && !a.less b) ∧
    compares t 6 x y = unordered

/-- R49, R51 to R56, R59, R69, R70: every conversion between two formats, the plane types among them, gives the value that the
bits of its source read as in its target, rounded or clamped as the table says, with the flags. Model choices: log 104 (a NaN in
B1 sets INV alone). -/
def Obligations.ConversionResults : Prop :=
  ∀ (m : Rnd) (target source bits : Nat), target ∈ formatCodes → source ∈ formatCodes →
    ConvertsTo m target (reading source bits) (cvtBits m target source bits)

/-! ## Tensors, the siding, the engines -/

/-- R241, R277: a write of TQCTL clears EN where it is 1, and otherwise takes LOG2N, within 4 and 12, and enables an empty queue
that fits its cluster's memory; a write of RDOOR has the effect of the doorbell of its world and die. R216, R218, R219, R239,
R240: `tdef` and `ttype` by the function that their operand names: a descriptor of the core's own unit memory defines an
identifier or a type that is not in use and gives 1; one in use gives 0 and stays; a broken rule raises 0x094 with its reason;
the status is read, or read and cleared, or the identifier becomes undefined. Model choices: log 72, 96. -/
def Obligations.TensorTableResults : Prop :=
  (∀ (s : State) (g : GReg), Fresh s →
      let c := s.cx
      let v := s.rG g
      let q := s.cluster c.clusterKey
      let log := min (max (v.extractLsb' 32 4).toNat 4) 12
      (Ready s (.putx g regTQCTL) → ∃ t, exec (.tqctlWrite g) s = .next t ∧ NoRegisters s t 4 ∧ t.mem = s.mem ∧
        t.cluster c.clusterKey =
          if q.tqEn = true then { q with tqEn := v.getLsbD 63 }
          else if v.getLsbD 63 = true ∧ q.tqBase.toNat + 16 * 2 ^ log ≤ 0x400000 ∧ q.tqHead = q.tqTail
          then { q with tqEn := true, tqLog := log, tqHead := 0, tqTail := 0 } else { q with tqLog := log }) ∧
      (Ready s (.putx g regRDOOR) → ∃ t, exec (.rdoorWrite g) s = .next t ∧ NoRegisters s t 4 ∧ t.mem = s.mem ∧
        t.wd c.world c.die = { s.wd c.world c.die with rtail := v.extractLsb' 0 16 })) ∧
  (∀ (s : State) (d a b : SReg), Fresh s → SoundMemory s →
      let ck := s.cx.clusterKey
      let v := s.rS a
      let va := s.rS b
      let word (n : Nat) : Word := BitVec.ofNat 64 (s.readMem (ownKey s s.cx va + 8 * n) 8)
      let n := v.toNat % 256
      let old := tidAt s ck n
      let ready : Prop := checkVa va 32 = none ∧ ownUM s s.cx va = true
      let refused (i : Instr) (taddr : Word) (reason : Nat) : Prop :=
        exec i s = .next (raiseExact s s.cur 0x094#9 taddr (tinfoReason i reason) s.cx.pc)
      let sets (i : Instr) (v : Word) (x : Tid) : Prop :=
        ∃ t, exec i s = .next t ∧ t.rS d = written d v ∧ t.cx.pc = s.cx.pc + 4 ∧ (∀ r, r ≠ d → t.rS r = s.rS r) ∧
          tidAt t ck n = x ∧ (∀ m, m ≠ n → tidAt t ck m = tidAt s ck m) ∧ t.mem = s.mem
      let status : Word := if old.defined = true then
        0x8000000000000000 ||| ((old.w0.extractLsb' 56 7).zeroExtend 64 <<< 8) ||| old.status.zeroExtend 64 else 0
      let m := v.toNat % 64
      let busy := (s.cluster ck).tasks.any (fun r => r.ty = m)
      let typed (i : Instr) (v : Word) (x : TaskType) : Prop :=
        ∃ t, exec i s = .next t ∧ t.rS d = written d v ∧ t.cx.pc = s.cx.pc + 4 ∧ (∀ r, r ≠ d → t.rS r = s.rS r) ∧
          typeAt t ck m = x ∧ (∀ q, q ≠ m → typeAt t ck q = typeAt s ck q) ∧ t.mem = s.mem
      let x : Tid := { defined := true, w0 := word 0, w1 := word 1, w2 := word 2, w3 := word 3, status := 0 }
      let y : TaskType := { defined := true, w0 := word 0, w1 := word 1, w2 := word 2, w3 := word 3 }
      (∀ i ∈ [Instr.tdefDefine d a b, .tdefStatus d a b, .tdefClearStatus d a b, .tdefUndefine d a b], Ready s i →
        (1024 ≤ v.toNat → refused i 0 1) ∧
        (v.toNat / 256 = 0 → ready → (∀ r, descReason x = some r → refused i va r) ∧
          (descReason x = none → if tidInUse s ck n = true then Writes s i d 0 4 else sets i 1 x)) ∧
        (v.toNat / 256 = 0 → checkVa va 32 = none → ownUM s s.cx va = false → refused i va 7) ∧
        (v.toNat / 256 = 1 → Writes s i d status 4) ∧
        (v.toNat / 256 = 2 → sets i status { old with status := 0 }) ∧
        (v.toNat / 256 = 3 → if tidInUse s ck n = true then Writes s i d 0 4 else sets i 1 Tid.empty)) ∧
      (∀ i ∈ [Instr.ttypeDefine d a b, .ttypeUndefine d a b], Ready s i →
        (256 ≤ v.toNat ∨ v.toNat / 64 = 1 ∨ v.toNat / 64 = 2 → refused i 0 1) ∧
        (v.toNat / 64 = 0 → ready → (∀ r, typeReason y = some r → refused i va r) ∧
          (typeReason y = none → if busy = true then Writes s i d 0 4 else typed i 1 y)) ∧
        (v.toNat / 64 = 3 → if busy = true then Writes s i d 0 4 else typed i 1 TaskType.empty)))

/-- R154 to R159, R225, R228 to R233, R242: an accepted command takes the lowest free slot of the siding with all its sub-tiles
suspended, and a refused one raises 0x083 with the lowest rule broken; a copy to memory outside the cluster completes when its
entries can enter the pool, and leaves them in the line for it; `force` sends to the pool the suspended sub-tiles that write its
range and waits for them, and then counts what it released, `tdrop` drops what is suspended, `sidq` reads, `tenq` pushes its
record and returns its number. Model choices: log 46, 111. -/
def Obligations.TensorCommandResults : Prop :=
  ∀ (s : State) (d a b : SReg), Fresh s →
    let core := s.cx.coreKey
    let ck := s.cx.clusterKey
    let siding := (s.core core).siding
    let at0 : Prop := s.cx.phase = 0 ∧ s.cx.demandAge = none ∧ s.cx.waitSubs = [] ∧ s.cx.forcing = [] ∧ (s.core core).journal = []
    let command (i : Instr) (cls func : Nat) (c : Cmd) : Prop :=
      Ready s i → at0 →
        (∀ r, cmdReason s c false = some r →
          exec i s = .next (raiseExact s s.cur 0x083#9 0 (tinfoReason i r) s.cx.pc)) ∧
        (cmdReason s c false = none → ¬ (cls = 3 ∧ (c.dst s).level = 2) →
          (63 ≤ s.cx.tiles → exec i s = .next s) ∧
          (∀ q, s.cx.tiles < 63 → siding.length < 32 →
            (∀ n ∈ siding, nodeMeets s core n ((List.range c.nsub).flatMap (outFoot s c)) = false) →
            q < 32 → (∀ n ∈ siding, n.slot ≠ q) → (∀ p, p < q → ∃ n ∈ siding, n.slot = p) →
            ∃ t n, exec i s = .next t ∧ t.rS d = written d (BitVec.ofNat 64 q) ∧ t.cx.pc = s.cx.pc + 4 ∧
              (∀ r, r ≠ d → t.rS r = s.rS r) ∧ t.mem = s.mem ∧ t.cx.tiles = s.cx.tiles + 1 ∧
              (t.core core).siding = siding ++ [n] ∧ n.slot = q ∧ n.cls = BitVec.ofNat 3 cls ∧ n.func = BitVec.ofNat 7 func ∧
              n.a = s.rS a ∧ n.b = s.rS b ∧ n.nsub = c.nsub ∧ n.done = 0 ∧ n.out = 0 ∧ n.gone = 0 ∧ n.pc = s.cx.pc))
    let cmd (cls func : Nat) : Cmd := cmdOf s cls func (s.rS a) (s.rS b)
    command (.tmul d a b) 1 0 (cmd 1 0) ∧ command (.tew d a b) 2 0 (cmd 2 0) ∧ command (.tred d a b) 2 1 (cmd 2 1) ∧
    command (.tcvt d a b) 2 2 (cmd 2 2) ∧ command (.tmove d a b) 3 0 (cmd 3 0) ∧ command (.tgather d a b) 4 0 (cmd 4 0) ∧
    (Ready s (.tmove d a b) → at0 → cmdReason s (cmd 3 0) false = none → ((cmd 3 0).dst s).level = 2 → siding = [] →
      s.cx.copies < 63 → (s.cluster ck).poolWait = [] → (cmd 3 0).nsub ≤ poolRoom s.clk (s.cluster ck) →
      ∃ t, exec (.tmove d a b) s = .next t ∧ t.rS d = written d (BitVec.allOnes 64) ∧ t.cx.pc = s.cx.pc + 4 ∧
        t.cx.copies = s.cx.copies + 1 ∧ (t.cluster ck).copies.length = (s.cluster ck).copies.length + 1 ∧
        (t.cluster ck).poolWait.length = (cmd 3 0).nsub ∧ (t.cluster ck).pool = (s.cluster ck).pool ∧ t.mem = s.mem) ∧
    (Ready s (.force d a b) → siding = [] → (∀ p ∈ s.cx.waitSubs, queuedSub s core p.1 p.2 = false) →
      (s.cx.demandAge = none → ∀ r, forceReason (cmd 0 2) ((cmd 0 2).dst s) = some r →
        exec (.force d a b) s = .next (raiseExact s s.cur 0x084#9 0 (tinfoReason (.force d a b) r) s.cx.pc)) ∧
      (s.cx.demandAge ≠ none ∨ forceReason (cmd 0 2) ((cmd 0 2).dst s) = none →
        Writes s (.force d a b) d
          ((if s.cx.demandFault = true then 0x8000000000000000 else 0) ||| BitVec.ofNat 64 s.cx.released) 4)) ∧
    (Ready s (.force d a b) → s.cx.demandAge = none → s.cx.waitSubs = [] → forceReason (cmd 0 2) ((cmd 0 2).dst s) = none →
      (s.cluster ck).poolWait = [] →
      ∀ n, siding = [n] → n.age < (s.core core).nextAge → n.out = 0 → n.holds = [] → (nodeCmd core n).idx = false →
        let wanted := n.subs.filter (fun q => !n.done.getLsbD q && !n.gone.getLsbD q &&
          footsMeet (outFoot s (nodeCmd core n) q) ((List.range (cmd 0 2).nsub).flatMap (outFoot s (cmd 0 2))))
        wanted ≠ [] →
        ∃ t, exec (.force d a b) s = .next t ∧ t.cx.pc = s.cx.pc ∧ t.cx.waitSubs = wanted.map (fun q => (n.age, q)) ∧
          t.cx.demandAge.isSome = true ∧ (∀ r, t.rS r = s.rS r) ∧ t.mem = s.mem ∧ (t.core core).siding = [n] ∧
          (t.cluster ck).poolWait.map (fun e => (e.src, e.sub, e.demand)) =
            wanted.map (fun q => (Src.node core n.age, q, some (s.cur, t.cx.demandId)))) ∧
    (Ready s (.tdrop d a) → ∀ n, siding = [n] → n.orphan = false → n.done = 0 → n.out = 0 → n.gone = 0 → 1 ≤ n.nsub → n.nsub ≤ 64 → n.slot < 64 →
      ∃ t, exec (.tdrop d a) s = .next t ∧ t.cx.pc = s.cx.pc + 4 ∧ t.mem = s.mem ∧ (∀ r, r ≠ d → t.rS r = s.rS r) ∧
        if (s.rS a).getLsbD n.slot = true then t.rS d = written d (BitVec.ofNat 64 n.nsub) ∧ (t.core core).siding = [] ∧
          (t.ctx (core * 16 + n.ctxSlot)).tiles = (s.ctx (core * 16 + n.ctxSlot)).tiles - 1
        else t.rS d = written d 0 ∧ (t.core core).siding = [n]) ∧
    (Ready s (.sidq d a) → ∃ w, Writes s (.sidq d a) d w 4 ∧
      (s.rS a = 0x100 → ∀ q, w.getLsbD q = true ↔ q < 64 ∧ ∃ n ∈ siding, n.slot = q) ∧
      (∀ n, siding = [n] → n.slot < 32 → (s.rS a = BitVec.ofNat 64 (64 + n.slot) → w = n.done) ∧
        (s.rS a = BitVec.ofNat 64 (128 + n.slot) → w = n.out) ∧ (s.rS a = BitVec.ofNat 64 (192 + n.slot) → w = n.b)) ∧
      (siding = [] → w = 0)) ∧
    (Ready s (.tenq d a) → at0 → SoundMemory s → NoSuperstep s core →
      let cl := s.cluster ck
      let ty := ((s.rS a).extractLsb' 48 6).toNat
      let reason : Option Nat := if cl.tqEn = false then some 1 else if (typeAt s ck ty).defined = false then some 2
        else if (s.rS a).extractLsb' 54 10 ≠ 0 then some 3 else none
      (∀ r, reason = some r →
        exec (.tenq d a) s = .next (raiseExact s s.cur 0x093#9 0 (tinfoReason (.tenq d a) r) s.cx.pc)) ∧
      (reason = none → (cl.tqTail - cl.tqHead).toNat < 2 ^ cl.tqLog → s.cx.tiles < 63 →
        let loc := taskLoc s ck cl.tqTail
        let who : Word := (BitVec.ofNat 64 (s.cx.pc.toNat / 4) <<< 18) ||| (BitVec.ofNat 64 s.cx.core <<< 4) |||
          BitVec.ofNat 64 s.cx.slot
        ∃ t, exec (.tenq d a) s = .next t ∧ t.rS d = written d (cl.tqTail.zeroExtend 64) ∧ t.cx.pc = s.cx.pc + 4 ∧
          (∀ r, r ≠ d → t.rS r = s.rS r) ∧ t.cx.tiles = s.cx.tiles + 1 ∧ (t.cluster ck).tqTail = cl.tqTail + 1 ∧
          ∀ x, t.byte x = if loc ≤ x ∧ x < loc + 16 then
            (leBytes (s.rS a).toNat 8 ++ leBytes who.toNat 8).getD (x - loc) 0 else s.byte x))

/-- R161, R162, R220 to R222, R234, R243: at the end of a clk the entries that wait take places of the pool in their order while
there is room, of which a place freed in the same clk is none, and sub-tiles of nodes are released with that; a free engine
takes an issuable entry and reads what its sub-tile reads; an entry that completes writes what was computed then, and its node
or copy ends with the last; an entry that meets a refused access ends its node with cause 0x081; the scheduler turns the record
at HEAD into entries for the pool, or refuses it with 0x091. Model choices: log 43, 48, 111. -/
def Obligations.EngineEvents : Prop :=
  (∀ (s : State) (ck : Nat), s.power = true →
    let cl := s.cluster ck
    let room := 128 - cl.pool.length - (if cl.freedAt = s.clk then cl.freedNow else 0)
    ∃ t, exec (.poolInsert ck) s = .next t ∧ (t.cluster ck).poolWait = cl.poolWait.drop room ∧
      (t.cluster ck).pool = cl.pool ++ (cl.poolWait.take room).mapIdx (fun i e => { e with seq := cl.nextSeq + i }) ∧
      (t.cluster ck).nextSeq = cl.nextSeq + min room cl.poolWait.length ∧ t.mem = s.mem ∧
      ∀ e ∈ cl.poolWait.take room, ∀ core age, e.src = .node core age → e.sub < 64 →
        (∀ n ∈ (t.core core).siding, n.age = age → n.out.getLsbD e.sub = true) ∧
        ∀ k q, cl.poolWait = [e] → e.demand = some (k, q) → (t.ctx k).released =
          (s.ctx k).released + if (s.ctx k).waitSubs.contains (age, e.sub) = true then 1 else 0) ∧
  (∀ (s : State) (ck : Nat) (e : PoolEntry), s.power = true → (s.cluster ck).pool = [e] → e.engine = none → e.sent = false →
    e.holds = [] → e.cls ≠ 3 → s.throttled = false → inService s (ck / 48) (240 + 2 * (ck % 48)) = true → SoundMemory s →
    ∃ t, exec (.engineIssue ck) s = .next t ∧ t.mem = s.mem ∧
      (t.cluster ck).pool = [{ e with engine := some 0, out := some (subCompute s (entryCmd ck e) e.sub) }]) ∧
  (∀ (s : State) (ck core age : Nat) (e : PoolEntry) (n : Node) (o : SubOut), s.power = true → (s.cluster ck).pool = [e] →
    e.engine ≠ none → e.out = some o → e.faulted = none → e.cls ≠ 3 → e.src = .node core age → e.sub = 0 → e.core = core → (s.core core).siding = [n] →
    n.age = age → n.nsub = 1 → n.orphan = false → s.reqs = [] → SoundMemory s → NoSuperstep s core →
    ∃ t, exec (.poolEntryComplete ck e.seq) s = .next t ∧ (t.cluster ck).pool = [] ∧ (t.core core).siding = [] ∧
      (t.ctx (core * 16 + n.ctxSlot)).tiles = (s.ctx (core * 16 + n.ctxSlot)).tiles - 1 ∧
      t.mem = (writeRows s (entryCmd ck e) core o).mem) ∧
  (∀ (s : State) (ck id : Nat) (e : PoolEntry) (y : CopyCmd), s.power = true → (s.cluster ck).pool = [e] → e.sent = true →
    e.cls = 3 → e.faulted = none → e.src = .copy id → (s.cluster ck).copies = [y] → y.id = id → y.left = 1 → y.faults = 0 → y.orphan = false → s.reqs = [] →
    ∃ t, exec (.poolEntryComplete ck e.seq) s = .next t ∧ (t.cluster ck).pool = [] ∧ (t.cluster ck).copies = [] ∧
      (t.ctx (y.core * 16 + y.ctxSlot)).copies = (s.ctx (y.core * 16 + y.ctxSlot)).copies - 1 ∧ t.mem = s.mem) ∧
  (∀ (s : State) (ck core age k q v : Nat) (e : PoolEntry) (n : Node) (r : Req), s.power = true →
    (s.cluster ck).pool = [e] → e.engine ≠ none → e.src = .node core age → e.sub = 0 → e.demand = some (k, q) →
    (s.core core).siding = [n] → n.age = age → n.nsub = 1 → s.reqs = [r] → r.kind = .engRead ck e.seq →
    r.st = .replied v 0 true → v < 512 → v ≠ 0x161 → (s.ctx k).run = .live → (s.ctx k).kind = .control →
    (s.ctx k).demandAge = none → (s.ctx k).lates = [] → (s.ctx k).clusterKey = ck → (s.cluster ck).poolWait = [] →
    (s.ctx k).pending.length < 8 →
    ∃ t, exec (.lateFault ck e.seq v) s = .next t ∧ (t.cluster ck).pool = [] ∧ (t.core core).siding = [] ∧
      (t.ctx k).pending = (s.ctx k).pending ++
        [{ cause := 0x081#9, taddr := n.pc.zeroExtend 64, tinfo := faultInfo n.slot 0 (BitVec.ofNat 9 v) 1 }] ∧ t.mem = s.mem) ∧
  (∀ (s : State) (ck : Nat), s.power = true →
    let cl := s.cluster ck
    let loc := taskLoc s ck cl.tqHead
    let record : Word := BitVec.ofNat 64 (s.readMem loc 8)
    let ty := (record.extractLsb' 48 6).toNat
    let who : Word := BitVec.ofNat 64 (s.readMem (loc + 8) 8)
    let k := (ck * 4 + (who.extractLsb' 4 2).toNat) * 16 + (who.extractLsb' 0 4).toNat
    cl.tqHead ≠ cl.tqTail → cl.tqHolds = [] → cl.poolWait = [] → (∀ i, i < 4 → (s.core (ck * 4 + i)).saveDue = false) →
    inService s (ck / 48) (384 + ck % 48) = true →
    (∀ slot, (typeAt s ck ty).defined = true → freeLive s ck ty = some slot →
      cmdReason s (recordCmd s ck record slot) true = none →
      ∃ t r, exec (.taskConvert ck) s = .next t ∧ (t.cluster ck).tqHead = cl.tqHead + 1 ∧
        (t.cluster ck).tasks = cl.tasks ++ [r] ∧ r.ty = ty ∧ r.live = slot ∧ r.core * 16 + r.ctxSlot = k ∧
        (t.cluster ck).poolWait.length = (recordCmd s ck record slot).nsub ∧ (t.cluster ck).pool = cl.pool ∧
        t.mem = s.mem) ∧
    ((typeAt s ck ty).defined = false → cl.tqLeft = [] → (s.ctx k).run = .live → (s.ctx k).kind = .control → (s.ctx k).pending.length < 8 →
      ∃ t p, exec (.taskConvert ck) s = .next t ∧ (t.cluster ck).tqHead = cl.tqHead + 1 ∧
        (t.ctx k).pending = (s.ctx k).pending ++ [p] ∧ p.cause = 0x091#9 ∧ p.taddr = taskVa s ck cl.tqHead ∧
        p.tinfo.toNat / 2 ^ 56 = 8 ∧ (t.ctx k).tiles = (s.ctx k).tiles - 1 ∧ t.mem = s.mem))

/-- R50, R54, R57, R62, R68, R152, R217, R226, R228 to R233: what an engine reads, and the elements of the tiles other than a
product's: the elementwise operations, the lines of a reduction, conversions with and without transposition, moved and gathered
rows; each result is formed exactly and converted once, an M8 operation works on the digits, a float line is rounded at every
step. Model choices: log 44, 104, 141 (the sign of a zero of integers in a float format). -/
def Obligations.TileElementResults : Prop :=
  ∀ (s : State) (c : Cmd) (b : Nat),
    let dst := c.dst s
    let sa := c.sa s
    let sb := c.sb s
    let sx := c.sx s
    let i := c.i0 + b / (bits c.a 37 35 + 1)
    let j := c.j0 + b % (bits c.a 37 35 + 1)
    let rowsOf (t : Tid) : List Nat := List.range' (64 * i) (min 64 (t.rows - 64 * i))
    let colsOf (t : Tid) : List Nat := List.range' (64 * j) (min 64 (t.cols - 64 * j))
    let known (t : Tid) : Prop := t.fmt ∈ List.range 20 ∨ t.fmt = 32
    let width (k : Nat) : Nat := match codeFloat k, codeRange k with
      | some f, _ => 1 + f.ebits + f.fbits
      | none, some (w, _, _) => w
      | none, none => if k = 13 then 25 else if k = 18 then 2 else 1
    let region (t : Tid) : Nat := if t.level = 0 then umKey s c.die c.cluster t.core 0 else cmKey c.die c.cluster 0
    (∀ (t : Tid) (r k : Nat), known t → t.level < 2 →
      let at_ := 8 * region t + t.base + (if t.scratch = true then 8 * c.scr else 0) + r * t.pitch + k * width t.fmt
      elemAt s c t r k < 2 ^ width t.fmt ∧ ∀ n, n < width t.fmt →
        (elemAt s c t r k).testBit n = (s.byte ((at_ + n) / 8)).getLsbD ((at_ + n) % 8)) ∧
    (∀ (t : Tid) (r k : Nat),
      let e := s.byte (region t + t.sbase + if t.saxis = true then k * t.sstride + r / t.blk else r * t.sstride + k / t.blk)
      scaleAt s c t r k = if t.scaled = false then some 0 else if e = 0x80#8 then none else some e.toInt) ∧
    (∀ n, sx.fmt = 6 ∨ sx.fmt = 32 → let v := (reading sx.fmt (elemAt s c sx (n / sx.cols) (n % sx.cols))).int
      selected s c n = if 0 ≤ v ∧ v < sa.rows then some v.toNat else none) ∧
    (known dst → known sa →
      (c.cls = 2 → c.func = 0 → known sb → TileOf (subCompute s c b) (rowsOf dst) (colsOf dst) (64 * j) (ewElem s c)) ∧
      (c.cls = 2 → c.func = 1 →
        (c.op % 2 = 0 → TileOf (subCompute s c b) (rowsOf dst) [0] 0
          (fun r _ => redLine s c ((List.range sa.cols).map (fun k => (r, k))) r 0)) ∧
        (c.op % 2 = 1 → TileOf (subCompute s c b) [0] (colsOf dst) (64 * j)
          (fun _ k => redLine s c ((List.range sa.rows).map (fun r => (r, k))) 0 k))) ∧
      (c.cls = 2 → c.func = 2 → ∃ elem, TileOf (subCompute s c b) (rowsOf dst) (colsOf dst) (64 * j) elem ∧ ∀ r k,
        ConvertsTo c.rnd dst.fmt (if c.op % 2 = 1 then engineReading s c sa k r else engineReading s c sa r k) (elem r k)) ∧
      (c.cls = 3 → TileOf (subCompute s c b) (rowsOf sa) (colsOf sa) (64 * j) (fun r k => (elemAt s c sa r k, 0))) ∧
      (c.cls = 4 → TileOf (subCompute s c b) (rowsOf dst) (colsOf dst) (64 * j)
        (fun r k => (match selected s c r with | some row => elemAt s c sa row k | none => 0, 0)) ∧
        ((subCompute s c b).ior = true ↔ ∃ r ∈ rowsOf dst, selected s c r = none))) ∧
    (∀ r k, known dst → known sa → known sb → sa.fmt ≠ 13 → c.op < 8 →
      let x := engineReading s c sa r k
      let y := engineReading s c sb (if sb.rows = 1 then 0 else r) (if sb.cols = 1 then 0 else k)
      let v : Reading × FlagSet := match c.op with
        | 0 => x.add c.rnd y
        | 1 => x.add c.rnd y.neg
        | 2 => x.mul y
        | 3 => (x.min y, 0)
        | 4 => (x.max y, 0)
        | 5 => (if x = .nan then whole 0 else x.max (whole 0), 0)
        | 6 => (x.abs, 0)
        | _ => (x.neg, 0)
      Gives c.rnd dst.fmt v (ewElem s c r k)) ∧
    (∀ r k, known dst → sa.fmt = 13 → sb.fmt = 13 → c.op < 3 →
      let x := engineReading s c sa r k
      let y := engineReading s c sb (if sb.rows = 1 then 0 else r) (if sb.cols = 1 then 0 else k)
      let n : ℤ := if c.op = 0 then x.int + y.int else if c.op = 1 then x.int - y.int else x.int * y.int
      let poison : Prop := x = .poison ∨ y = .poison
      (dst.fmt = 13 → (poison → ewElem s c r k = (0x01FFFFFF, fPSN)) ∧ (¬ poison → ewElem s c r k = (m8Bits n, 0))) ∧
      (dst.fmt ≠ 13 → (poison → Gives c.rnd dst.fmt (.poison, fPSN) (ewElem s c r k)) ∧
        (¬ poison → Gives c.rnd dst.fmt (whole (m8Value (m8Bits n)), 0) (ewElem s c r k)))) ∧
    (∀ (line : List (Nat × Nat)) (r k : Nat) (first : Reading) (rest : List Reading), known dst → known sa → sa.fmt ≠ 13 →
      c.op < 6 → line ≠ [] → first :: rest = (if c.acc = true then [reading dst.fmt (elemAt s c dst r k)] else []) ++
        line.map (fun p => engineReading s c sa p.1 p.2) →
      let step (a x : Reading) (z : Reading × FlagSet) : Prop := match c.op / 2 with
        | 0 =>
          let sum := a.add c.rnd x
          if sum.1 = .poison ∨ 4 < sa.fmt then z = sum
          else ∃ e g, Gives c.rnd (if sa.fmt = 0 then 0 else 1) sum (e, g) ∧ z = (reading (if sa.fmt = 0 then 0 else 1) e, g)
        | 1 => z = (a.min x, 0)
        | _ => z = (a.max x, 0)
      ∃ v g h, Runs step first rest (v, g) ∧ ConvertsTo c.rnd dst.fmt v ((redLine s c line r k).1, h) ∧
        (redLine s c line r k).2 = g ||| h) ∧
    (∀ (line : List (Nat × Nat)) (r k : Nat) (l : List Reading), sa.fmt = 13 → dst.fmt = 13 → line ≠ [] →
      l = (if c.acc = true then [reading 13 (elemAt s c dst r k)] else []) ++ line.map (fun p => engineReading s c sa p.1 p.2) →
      (.poison ∈ l → redLine s c line r k = (0x01FFFFFF, fPSN)) ∧
      (.poison ∉ l → redLine s c line r k = (m8Bits (l.map Reading.int).sum, 0)))

/-- R57, R61 to R68, R70, R225, R226: the elements of a matrix product. The float path adds the exact scaled products to an
accumulator of F64 or F32 in the order of k, each step rounded once; the integer paths add each chunk's exact sum under its
scale exponent to an F32, a saturating 32-bit or a residue accumulator; a chunk with a scale of −128 is left out; a row that no
index selects adds zeros; START takes the old element where ACC is set, FINISH converts, and a poison input poisons the element.
Model choices: log 99, 103. -/
def Obligations.MatrixElementResults : Prop :=
  ∀ (s : State) (c : Cmd), c.cls = 1 →
    let dst := c.dst s
    let sa := c.sa s
    let sb := c.sb s
    sa.fmt < 20 → sb.fmt < 20 → dst.fmt ∈ [0, 1, 2, 3, 4, 13, 32] →
    let small (f : Nat) : Prop := f ∈ [8, 9, 10, 11, 12, 13, 14, 15, 16, 17, 18, 19]
    let float : Prop := sa.fmt < 5 ∨ sb.fmt < 5
    let wide : Prop := sa.fmt = 0 ∨ sb.fmt = 0
    (dst.fmt = 0 → wide) → (dst.fmt = 13 → small sa.fmt ∧ small sb.fmt) → (sa.fmt = 13 → small sb.fmt) → (sb.fmt = 13 → small sa.fmt) →
    (sa.scaled = true → sa.saxis = false) → (sb.scaled = true → sb.saxis = true) →
    let q := if (sa.scaled = true ∧ sa.blk = 32) ∨ (sb.scaled = true ∧ sb.blk = 32) then 32 else 64
    let lo := 64 * c.k0
    let hi := min (64 * (c.k0 + c.kn)) sa.cols
    (∀ b, let j := c.j0 + b % (bits c.a 37 35 + 1)
      let i := c.i0 + b / (bits c.a 37 35 + 1)
      TileOf (subCompute s c b) (List.range' (64 * i) (min 64 (dst.rows - 64 * i))) (List.range' (64 * j) (min 64 (dst.cols - 64 * j)))
          (64 * j) (fun r k => matElem s c (if c.idx = true then selected s c r else some r) r k) ∧
        ((subCompute s c b).ior = true ↔ c.idx = true ∧
          ∃ n, 64 * i ≤ n ∧ n < min (64 * i + 64) ((c.sx s).rows * (c.sx s).cols) ∧ selected s c n = none)) ∧
    ∀ (row : Option Nat) (r col : Nat),
      let a (k : Nat) : Reading := match row with | some ar => reading sa.fmt (elemAt s c sa ar k) | none => whole 0
      let b (k : Nat) : Reading := match row with | some _ => reading sb.fmt (elemAt s c sb k col) | none => whole 0
      let scale (k : Nat) : Option ℤ :=
        match (match row with | some ar => scaleAt s c sa ar k | none => some 0), scaleAt s c sb k col with
        | some e, some e1 => some (e + e1)
        | _, _ => none
      let old := reading dst.fmt (elemAt s c dst r col)
      let poison : Prop := (∃ k, lo ≤ k ∧ k < hi ∧ scale k ≠ none ∧ (a k = .poison ∨ b k = .poison)) ∨
        (c.acc = true ∧ dst.fmt = 13 ∧ old = .poison)
      let z := matElem s c row r col
      (poison → z.1 = (if dst.fmt = 13 then 0x01FFFFFF else if dst.fmt = 32 then 0x80000000 else codeNaN dst.fmt) ∧
        z.2.getLsbD 6 = true) ∧
      (¬ poison → float →
        let acc := if wide then 0 else 1
        ∃ f start e g h, codeFloat acc = some f ∧
          (if c.acc = true then ∃ x, ConvertsTo c.rnd acc old (start, x) else start = 0) ∧
          Runs (fun (x : Nat) (p : Reading × FlagSet) (y : Nat × FlagSet) =>
              let sum := (reading acc x).add c.rnd p.1
              Gives c.rnd acc (sum.1, p.2 ||| sum.2) y) start
            ((List.range' lo (hi - lo)).filterMap (fun k => (scale k).map (fun e => (((a k).mul (b k)).1.scale e, ((a k).mul (b k)).2))))
            (e, g) ∧
          Finishes c.rnd dst.fmt (.float f e) (z.1, h) ∧ z.2 = g ||| h) ∧
      (¬ poison → ¬ float →
        let sum (n : Nat) : ℤ := ((List.range' (n * q) (min (n * q + q) hi - n * q)).map (fun k => (a k).int * (b k).int)).sum
        let x (n : Nat) : ℤ := if sa.fmt = 13 ∨ sb.fmt = 13 then (sum n + 8388480) % 16776960 - 8388480 else sum n
        ∃ start e g h,
          (if dst.fmt = 32 then start = Acc.i32 (if c.acc = true then old.int else 0)
            else if dst.fmt = 13 then start = Acc.m8 (if c.acc = true then digitsOf (elemAt s c dst r col) else { d0 := 0, d1 := 0, d2 := 0 })
            else ∃ w y, start = Acc.float { ebits := 8, fbits := 23 } w ∧
              (if c.acc = true then ConvertsTo c.rnd 1 old (w, y) else w = 0)) ∧
          Runs (fun u (p : ℤ × ℤ) y => Combines c.rnd u p.1 p.2 y) start
            ((List.range' (lo / q) ((hi + q - 1) / q - lo / q)).filterMap (fun n => (scale (n * q)).map (fun e => (x n, e)))) (e, g) ∧
          Finishes c.rnd dst.fmt e (z.1, h) ∧ z.2 = g ||| h)

/-! ## Messages -/

/-- R376 to R383: `send` gives 0 for a rank without a location, and otherwise puts the message into the NI, held while the rank
is moving, and gives 1, and while the NI has no room it waits with the data it has read; `recv` takes the first message of its
slot, gives 0 where it may not wait, and otherwise waits; `rankset` and `rankmv` write an entry and bind the context that it
names, `rankset` from its register as it is after the old entry is written, and with both entries kept while messages sent to
the rank are outstanding; a write of RTBASE or RTLEN changes it and drops the entries held. Model choices: log 76, 77. -/
def Obligations.MessageInstructions : Prop :=
  ∀ (s : State) (d a b : SReg) (l : BitVec 3) (g : GReg), Fresh s →
    let c := s.cx
    let n := 8 * (l.toNat + 1)
    let va := s.rS b
    let rank := (s.rS a).toNat
    let old := (rankEntry s c.world c.die rank).1
    let mapped (need : BitVec 3) : Prop := rankWaits s c.world c.die rank need = none
    let gives (i : Instr) (v : Word) (p : State → Prop) : Prop :=
      ∃ t, exec i s = .next t ∧ t.rS d = written d v ∧ t.cx.pc = c.pc + 4 ∧ (∀ r, r ≠ d → t.rS r = s.rS r) ∧ p t
    let traps (i : Instr) (k : Cause) (taddr tinfo : Word) : Prop := exec i s = .next (raiseExact s s.cur k taddr tinfo c.pc)
    (Ready s (.send d a b l) → checkVa va 8 = none → ownUM s c va = true → ownUM s c (va + BitVec.ofNat 64 (n - 1)) = true →
      let sent (data : List Byte) : Prop :=
        gives (.send d a b l) 1 (fun t => t.mem = s.mem ∧ ∃ m, t.msgs = s.msgs ++ [m] ∧ m.rank = rank ∧ m.data = data ∧
          m.entry = old ∧ m.core = c.coreKey ∧ m.st = if entryState old = 2 then .held else .queued)
      (2 ^ 32 ≤ rank → c.phase = 0 → traps (.send d a b l) 0x102#9 (s.rS a) (tinfo1 (.send d a b l) n false)) ∧
      (rank < 2 ^ 32 → entryState old = 0 → c.phase = 0 → mapped permR →
        gives (.send d a b l) 0 (fun t => t.mem = s.mem ∧ t.msgs = s.msgs)) ∧
      (rank < 2 ^ 32 → entryState old ≠ 0 → (sendQueue s c.coreKey).length < 16 → (holdQueue s c.die).length < 256 →
        twinOn s c.coreKey = none → (c.phase = 0 → mapped permR → sent (s.bytes (ownKey s c va) n)) ∧
          (c.phase = 1 → sent (c.waitSubs.map (fun p => BitVec.ofNat 8 p.2)))) ∧
      (rank < 2 ^ 32 → entryState old ≠ 0 → 16 ≤ (sendQueue s c.coreKey).length → c.phase = 0 → mapped permR →
        ∃ t, exec (.send d a b l) s = .next t ∧ t.cx.phase = 1 ∧ t.cx.pc = c.pc ∧ t.mem = s.mem ∧ t.msgs = s.msgs ∧
          t.cx.waitSubs.map (fun p => BitVec.ofNat 8 p.2) = s.bytes (ownKey s c va) n ∧ ∀ r, t.rS r = s.rS r)) ∧
    (Ready s (.send d a b l) → checkVa va 8 = none → ownUM s c va = false → c.phase = 0 →
      traps (.send d a b l) 0x102#9 va (tinfo1 (.send d a b l) n false)) ∧
    (Ready s (.recv d a b) → checkVa (s.rS a) 64 = none → ownUM s c (s.rS a) = true → SoundMemory s → NoSuperstep s c.coreKey →
      (∀ m, (s.core c.coreKey).recvQ.find? (fun m => m.slot = c.slot) = some m → (s.core c.coreKey).ringEnd = 0 →
        gives (.recv d a b) (0x8000000000000000 ||| (BitVec.ofNat 64 m.len <<< 48) ||| m.sender.zeroExtend 64)
          (fun t => let loc := ownKey s c (s.rS a)
            (∀ x, t.byte x = if loc ≤ x ∧ x < loc + (padTo 64 m.data).length then (padTo 64 m.data).getD (x - loc) 0
              else s.byte x) ∧ (t.core c.coreKey).recvQ.length + 1 = (s.core c.coreKey).recvQ.length)) ∧
      ((s.core c.coreKey).recvQ.find? (fun m => m.slot = c.slot) = none →
        (s.rS b = 0 → gives (.recv d a b) 0 (fun t => t.mem = s.mem)) ∧
        (s.rS b ≠ 0 → c.phase = 0 → ∃ t, exec (.recv d a b) s = .next t ∧ t.cx.phase = 1 ∧ t.cx.pc = c.pc ∧
          t.cx.limitAt = (if s.rS b = BitVec.allOnes 64 then none else some (s.clk + (s.rS b).toNat)) ∧ t.mem = s.mem))) ∧
    (Ready s (.rankset d a b) → c.phase = 0 →
      let e : Word32 := (if b = d then written d (old.zeroExtend 64) else va).extractLsb' 0 32
      let key := rankKey c.world rank
      (rankValueBad va false = true ∨ (s.wd c.world c.die).rtlen.toNat ≤ rank →
        traps (.rankset d a b) 0x103#9 (s.rS a) (firstWord (.rankset d a b))) ∧
      (rankValueBad va false = false → rank < (s.wd c.world c.die).rtlen.toNat → mapped permR → mapped permW →
        (entryState e ≠ 2 ∨ outstanding s c.world c.die rank = [] →
          gives (.rankset d a b) (old.zeroExtend 64) (fun t => Tbl.get none (t.dieAt c.die).rankCache key = some e ∧
            ∀ k, entryCtxHere s c.world c.die e = some k → (t.ctx k).rank = some rank)) ∧
        (entryState e = 2 → outstanding s c.world c.die rank ≠ [] →
          ∃ t, exec (.rankset d a b) s = .next t ∧ t.rS d = written d (old.zeroExtend 64) ∧ (∀ r, r ≠ d → t.rS r = s.rS r) ∧
            t.cx.phase = 1 ∧ t.cx.pc = c.pc ∧ t.cx.waitSubs = [(rank, 0), (old.toNat, e.toNat)] ∧ t.mem = s.mem))) ∧
    (Ready s (.rankset d a b) → c.phase = 1 → ∀ (q : Nat) (o e : Word32), c.waitSubs = [(q, 0), (o.toNat, e.toNat)] →
      (entryState e = 2 → outstanding s c.world c.die q ≠ [] →
        ∃ t, exec (.rankset d a b) s = .next t ∧ t.cx = c ∧ OnlyContext s t) ∧
      (entryState e ≠ 2 ∨ outstanding s c.world c.die q = [] →
        ∃ t, exec (.rankset d a b) s = .next t ∧ t.cx.pc = c.pc + 4 ∧ (∀ r, t.rS r = s.rS r) ∧
          Tbl.get none (t.dieAt c.die).rankCache (rankKey c.world q) = some e)) ∧
    (Ready s (.rankmv d a b) → rankValueBad va true = false → rank < (s.wd c.world c.die).rtlen.toNat →
      mapped permR → mapped permW →
      (entryState old ≠ 2 → gives (.rankmv d a b) 0 (fun t => t.mem = s.mem)) ∧
      (entryState old = 2 → gives (.rankmv d a b) 1 (fun t => ∃ e, Tbl.get none (t.dieAt c.die).rankCache
          (rankKey c.world rank) = some e ∧ entryState e = 1 ∧ e.extractLsb' 0 30 = va.extractLsb' 0 30))) ∧
    (Ready s (.putx g regRTBASE) → ∃ t, exec (.rtbaseWrite g) s = .next t ∧ NoRegisters s t 4 ∧ t.mem = s.mem ∧
      (t.wd c.world c.die).rtbase = s.rG g &&& ~~~63#64 ∧
      ∀ p ∈ (t.dieAt c.die).rankCache, p.1 / 2 ^ 20 ≠ c.world) ∧
    (Ready s (.putx g regRTLEN) → ∃ t, exec (.rtlenWrite g) s = .next t ∧ NoRegisters s t 4 ∧ t.mem = s.mem ∧
      (t.wd c.world c.die).rtlen.toNat = min ((s.rG g).toNat % 2 ^ 21) 1048576 ∧
      ∀ p ∈ (t.dieAt c.die).rankCache, p.1 / 2 ^ 20 ≠ c.world)

/-- R374, R375, R379 to R382: a message for a rank bound to a placed context is accepted while its queue has room; a declined
one is sent again; an answer that refuses raises 0x101 in the sender; a waiting `recv` returns 0 at its limit. A flit whose tag
fails is dropped and logged, and a link that is down brings none; a time exchange moves CYCLE by one clk. Model choices: log 33,
127. -/
def Obligations.MessageEvents : Prop :=
  (∀ (s : State) (m : Msg) (p d : Nat), s.power = true → s.msgs = [m] → m.st = .queued → s.pkg = p →
    entryRoute s m.die m.entry = some (p, d) → inService s d 437 = true → d2dUp s m.die d = true →
    let ck := coreKeyOf d (entryCluster m.entry) (entryCore m.entry)
    let k := ck * 16 + entrySlot m.entry
    placedCtx s m.world k = true → (s.ctx k).rank = some m.rank → (s.core ck).ringEnd = 0 →
    ((s.core ck).recvQ.length < 32 → ∃ t x y, exec (.messageArrival m.id) s = .next t ∧ t.msgs = [x] ∧ x.st = .accepted ∧
      (t.core ck).recvQ = (s.core ck).recvQ ++ [y] ∧ y.data = m.data ∧ y.sender = m.sender ∧ y.slot = entrySlot m.entry ∧
      y.len = m.data.length ∧ t.mem = s.mem) ∧
    (32 ≤ (s.core ck).recvQ.length → ∃ t x, exec (.messageArrival m.id) s = .next t ∧ t.msgs = [x] ∧ x.st = .declined ∧
      x.retryAt = s.clk + 64 ∧ t.mem = s.mem)) ∧
  (∀ (s : State) (m : Msg), s.power = true → s.msgs = [m] → m.st = .declined → m.retryAt ≤ s.clk →
    ∃ t x, exec (.messageRetry m.id) s = .next t ∧ t.msgs = [x] ∧ x.st = .queued ∧ t.mem = s.mem) ∧
  (∀ (s : State) (m : Msg) (k : Nat), s.power = true → s.msgs = [m] →
    (m.st = .accepted → ∃ t, exec (.messageReply m.id) s = .next t ∧ t.msgs = [] ∧ t.mem = s.mem) ∧
    (m.st = .refused → spotOf s m.who = .placed k → (s.ctx k).run = .live → (s.ctx k).kind = .control →
      (s.ctx k).pending.length < 8 → ∃ t, exec (.messageReply m.id) s = .next t ∧ t.msgs = [] ∧ t.mem = s.mem ∧
        (t.ctx k).pending = (s.ctx k).pending ++
          [{ cause := 0x101#9, taddr := BitVec.ofNat 64 m.rank, tinfo := BitVec.ofNat 64 (m.pc.toNat / 4) }])) ∧
  (∀ (s : State) (k tm : Nat) (w : Word32) (l : List Word32) (d a b : SReg), s.power = true → (s.ctx k).run = .live →
    (s.ctx k).phase = 1 → (s.ctx k).fetched = w :: l → decode w 0 = .ok (.recv d a b) → (s.ctx k).limitAt = some tm →
    tm ≤ s.clk → (s.ctx k).lates = [] → messageFor s (s.ctx k) = none →
    ∃ t, exec (.recvLimitExpiry k) s = .next t ∧ (t.ctx k).readS d = written d 0 ∧ (t.ctx k).pc = (s.ctx k).pc + 4 ∧
      (t.ctx k).phase = 0 ∧ t.mem = s.mem) ∧
  (∀ (s : State) (d link w slot : Nat) (f : Flit) (ok : Bool), s.power = true → link < 8 →
    (4 ≤ d ∨ (linkOf s d link).isUp = false → exec (.flitReceive (8 * d + link) w ok f) s = .next s) ∧
    (d < 4 → (linkOf s d link).isUp = true →
    (∃ t r, exec (.flitReceive (8 * d + link) w false f) s = .next t ∧ t.mem = s.mem ∧ t.ctxs = s.ctxs ∧ t.cores = s.cores ∧
      (linkOf t d link).nonce = (linkOf s d link).nonce + 1 ∧ (Tbl.get [] t.logs (logKey d 14 0)).getLast? = some r) ∧
    ((Tbl.get none (s.world w).keys (s.view (viewKey w d slot)).key).isSome = true → (s.view (viewKey w d slot)).state ≠ 3 →
      ∃ t, exec (.flitReceive (8 * d + link) w true (.heartbeat slot)) s = .next t ∧ (t.view (viewKey w d slot)).heard = s.clk ∧
        t.mem = s.mem))) ∧
  (∀ (s : State) (forward : Bool), s.power = true → s.slewAt = none →
    ∃ t, exec (.timeExchange forward) s = .next t ∧ t.slewAt = some s.clk ∧
      (if forward then t.cycle = s.cycle + 1 ∧ t.slewHold = s.slewHold else t.cycle = s.cycle ∧ t.slewHold = true) ∧
      t.mem = s.mem)

/-! ## Views and collectives -/

/-- R384 to R386, R391 to R396: a `coll` with a right descriptor on a stable view takes the lowest free handle and joins the
view's collectives; `cwait` returns the status and frees the handle, or waits; `view` reads; `vack` acknowledges a join; VCFG
installs a record or clears the slot. Model choices: log 75. -/
def Obligations.ViewInstructions : Prop :=
  ∀ (s : State) (d a : SReg) (g : GReg) (n : BitVec 2), Fresh s →
    let c := s.cx
    let va := s.rS a
    let w : List Word := (List.range 8).map (fun j => BitVec.ofNat 64 (s.readMem (ownKey s c va + 8 * j) 8))
    let key := viewKey c.world c.die (descView w)
    let v := s.view key
    let gives (i : Instr) (x : Word) (p : State → Prop) : Prop :=
      ∃ t, exec i s = .next t ∧ t.rS d = written d x ∧ t.cx.pc = c.pc + 4 ∧ (∀ r, r ≠ d → t.rS r = s.rS r) ∧ t.mem = s.mem ∧ p t
    let traps (i : Instr) (k : Cause) (taddr tinfo : Word) : Prop := exec i s = .next (raiseExact s s.cur k taddr tinfo c.pc)
    let installed : Option Nat := if v.state = 3 then none else some v.members.length
    (Ready s (.coll d a) → c.phase = 0 → checkVa va 64 = none → ownUM s c va = true →
      (∀ b, descByte s c.die w installed = some b →
        traps (.coll d a) 0x122#9 va (tinfoReason (.coll d a) 2 ||| BitVec.ofNat 64 (b * 2 ^ 40))) ∧
      (descByte s c.die w installed = none → v.state = 3 →
        traps (.coll d a) 0x123#9 (BitVec.ofNat 64 (descView w)) (firstWord (.coll d a))) ∧
      (∀ h, descByte s c.die w installed = none → v.state = 0 → v.colls.length < 8 → freeHandle c = some h →
        (s.core c.coreKey).journal = [] → twinOn s c.coreKey = none →
        gives (.coll d a) (BitVec.ofNat 64 h) (fun t => (∃ x, Tbl.get none t.cx.handles h = some x ∧ x.status = 5 ∧ x.desc = w) ∧
          (t.view key).seq = v.seq + 1 ∧
          ∃ x, (t.view key).colls = v.colls ++ [x] ∧ x.n = v.seq ∧ x.handle = h ∧ x.tag = v.tag ∧ x.desc = w))) ∧
    (Ready s (.cwait d a) → 7 < va.toNat ∨ Tbl.get none c.handles va.toNat = none → Writes s (.cwait d a) d 3 4) ∧
    (Ready s (.cwait d a) → ∀ h, va.toNat ≤ 7 → Tbl.get none c.handles va.toNat = some h →
      (h.status ≠ 5 → gives (.cwait d a) (BitVec.ofNat 64 h.status) (fun t => Tbl.get none t.cx.handles va.toNat = none ∧
        t.cx.ast = c.ast ||| (if h.status = 0 then h.flags.zeroExtend 64 else 0))) ∧
      (h.status = 5 → ∃ t, exec (.cwait d a) s = .next t ∧ t.cx.phase = 1 ∧ t.cx.pc = c.pc ∧ t.mem = s.mem)) ∧
    (Ready s (.view d a) →
      let u := s.view (viewKey c.world c.die (va.toNat % 4))
      let count : Word := BitVec.ofNat 64 u.members.length
      (16 ≤ va.toNat → Writes s (.view d a) d 0 4) ∧
      (va.toNat / 4 = 0 → Writes s (.view d a) d ((u.tag.zeroExtend 64 <<< 32) ||| (BitVec.ofNat 64 u.state <<< 30) |||
        (if u.state ≠ 3 ∧ u.outside = [] then 0x20000000 else 0) ||| count) 4) ∧
      (va.toNat / 4 = 1 → Writes s (.view d a) d (if u.state = 3 then 0xFFFFFFFF
        else (BitVec.ofNat 64 (memberIndex s c.die u) <<< 16) ||| count) 4) ∧
      (va.toNat / 4 = 2 → Writes s (.view d a) d (BitVec.ofNat 64 u.outside.length) 4) ∧
      (va.toNat / 4 = 3 → Writes s (.view d a) d
        (if u.state = 2 then (match u.proposed with | some p => p.1.zeroExtend 64 | none => 0) else 0) 4)) ∧
    (Ready s (.vack d a) →
      let k := viewKey c.world c.die (va.toNat % 4)
      let u := s.view k
      (4 ≤ va.toNat → traps (.vack d a) 0x123#9 (BitVec.ofNat 64 (va.toNat % 4)) (firstWord (.vack d a))) ∧
      (va.toNat < 4 → ∀ p, u.state = 2 → u.colls = [] → u.proposed = some p →
        gives (.vack d a) (p.1.zeroExtend 64) (fun t => t.view k = { u with acked := true })) ∧
      (va.toNat < 4 → u.state ≠ 2 ∨ u.colls ≠ [] ∨ u.proposed = none → gives (.vack d a) 0 (fun t => t.view k = u))) ∧
    (Ready s (.putx g (regVCFG n)) → ∀ i ∈ [Instr.vcfgInstall g n, .vcfgClear g n],
      let k := viewKey c.world c.die n.toNat
      let x := s.rG g
      ∃ t, exec i s = .next t ∧ NoRegisters s t 4 ∧ t.mem = s.mem ∧
        ((s.view k).colls ≠ [] → t.view k = s.view k) ∧
        ((s.view k).colls = [] → x.getLsbD 0 = true → t.view k = View.empty) ∧
        ((s.view k).colls = [] → x.getLsbD 0 = false → match viewRecord s c.world c.die (x &&& ~~~63#64) with
          | none => t.view k = s.view k
          | some (tag, kk, join, members) => (t.view k).tag = tag ∧ (t.view k).key = kk ∧ (t.view k).members = members ∧
              (t.view k).state = (if join then 2 else 0) ∧ (t.view k).colls = []))

/-- R387 to R397, R402: heartbeats; the accord and joins; a commit that installs the new list, ends what was pending with status
CHANGED and raises 0x121; a collective whose contributions have all arrived on every member of the package ends DONE at its
handle, and on none before; switches; the join of a gang of several packages. Model choices: log 75, 95. -/
def Obligations.ViewEvents : Prop :=
  (∀ (s : State) (w d slot : Nat), s.power = true →
    let key := viewKey w d slot
    let v := s.view key
    let me := ownLogical s d
    let keyed : Prop := (Tbl.get none (s.world w).keys v.key).isSome = true
    (v.state ≠ 3 → memberIndex s d v < v.members.length → v.sent + 1500 ≤ s.clk →
      ∃ t, exec (.heartbeatSend w d slot) s = .next t ∧ (t.view key).sent = s.clk ∧ t.mem = s.mem ∧
        ∀ m e, v.members[(memberIndex s d v + 1) % v.members.length]? = some m → localDie s m = some e → d2dUp s d e = true →
          (s.view (viewKey w e slot)).state ≠ 3 → (t.view (viewKey w e slot)).heard = s.clk) ∧
    (∀ x, v.state ≠ 3 → v.members = [x, me] → x ≠ me → v.failed = [] → v.joining = none → localDie s me = some d →
      v.heard + 6000 ≤ s.clk → ∃ t, exec (.heartbeatTimeout w d slot) s = .next t ∧ (t.view key).failed = [x] ∧
        (t.view key).state = 1 ∧ (t.view key).proposed = some (v.tag + 1, [me]) ∧ t.mem = s.mem) ∧
    (∀ tag members, v.state ≠ 3 → me ∈ members → v.tag.toNat < tag → tag < 2 ^ 32 → proposalMade s w slot tag members = true →
      v.joining = none → ledOutside s members = false ∨ keyed →
      (∃ t, exec (.propose w d slot tag members false) s = .next t ∧ (t.view key).state = 1 ∧
        (t.view key).proposed = (if members.head? = some me then v.proposed else some (BitVec.ofNat 32 tag, members)) ∧
        t.mem = s.mem) ∧
      (v.state ≠ 1 → ∃ t, exec (.propose w d slot tag members true) s = .next t ∧ (t.view key).state = 2 ∧
        (t.view key).proposed = some (BitVec.ofNat 32 tag, members) ∧ t.mem = s.mem)) ∧
    (∀ tag ms m, v.state = 1 → v.proposed = some (tag, ms) → ms.head? = some me → m ∈ v.asked → m ∉ v.acks → m ≠ me →
      v.askedAt + 6000 ≤ s.clk → ∃ t, exec (.proposeReplyTimeout w d slot m) s = .next t ∧
        (t.view key).proposed = some (tag, ms.filter (· ≠ m)) ∧ (t.view key).failed = v.failed ++ [m] ∧ t.mem = s.mem) ∧
    (∀ tag members, v.state ≠ 3 → v.tag.toNat < tag → tag < 2 ^ 32 → members ≠ [] → commitDue s w slot tag members = true →
      ledOutside s members = false ∨ keyed →
      (v.colls = [] → ∃ t, exec (.commit w d slot tag members) s = .next t ∧ t.mem = s.mem ∧
        if me ∈ members then (t.view key).tag = BitVec.ofNat 32 tag ∧ (t.view key).state = 0 ∧ (t.view key).members = members
        else t.view key = View.empty) ∧
      (∀ c k h, v.colls = [c] → spotOf s c.who = .placed k → (s.ctx k).run = .live → (s.ctx k).kind = .control →
        (s.ctx k).phase = 0 → (s.ctx k).pending.length < 8 → Tbl.get none (s.ctx k).handles c.handle = some h →
        h.isOf c = true → ∃ t p, exec (.commit w d slot tag members) s = .next t ∧ t.mem = s.mem ∧
          Tbl.get none (t.ctx k).handles c.handle = some { h with status := 1, flags := 0 } ∧
          (t.ctx k).pending = (s.ctx k).pending ++ [p] ∧ p.cause = 0x121#9 ∧ p.taddr = BitVec.ofNat 64 tag)) ∧
    (∀ m, v.state = 0 → v.members.head? = some me → m ∉ v.members → v.members.length < 24576 → localView s w slot m = none → keyed →
      ∃ t, exec (.joinReq w d slot m) s = .next t ∧ (t.view key).state = 2 ∧ (t.view key).joining = some m ∧
        (t.view key).proposed = some (v.tag + 1, v.members ++ [m]) ∧ t.mem = s.mem) ∧
    (∀ m tag ms, v.state = 2 → v.proposed = some (tag, ms) → ms.head? = some me → m ∈ ms → localView s w slot m = none → keyed →
      v.colls = [] → ∃ t, exec (.joinAck w d slot m) s = .next t ∧ t.mem = s.mem ∧
        if (∀ x ∈ ms, x = m ∨ x ∈ v.acks) then (t.view key).tag = tag ∧ (t.view key).state = 0 ∧ (t.view key).members = ms
        else m ∈ (t.view key).acks ∧ (t.view key).state = 2) ∧
    (∀ x, (∃ t, exec (.switchAttest w d slot x) s = .next t ∧ (t.view key).outside = v.outside.filter (· ≠ x) ∧ t.mem = s.mem) ∧
      (x ∈ v.switches → x ∉ v.outside → ∃ t, exec (.switchLeavesDomain w d slot x) s = .next t ∧
        (t.view key).outside = v.outside ++ [x] ∧ t.mem = s.mem)) ∧
    (∀ c, v.state = 0 → v.colls = [c] → descKind c.desc = 4 → c.parts = [] → memberIndex s d v < v.members.length → d < 4 →
      v.early = [] →
      ∃ t, exec (.collectivePacket w d slot v.tag.toNat (memberIndex s d v) c.n [] []) s = .next t ∧ t.mem = s.mem ∧
        (t.view key).colls = [{ c with parts := [(memberIndex s d v, c.desc, [])] }]) ∧
    (∀ c k h, v.state = 0 → v.colls = [c] → descKind c.desc = 4 → c.desc ≠ [] → (∀ p ∈ c.parts, p.2.1 = c.desc) →
      (∀ m, m < v.members.length → ∃ p ∈ c.parts, p.1 = m) → gangJoined s c.who = true → inService s d 436 = true →
      spotOf s c.who = .placed k → Tbl.get none (s.ctx k).handles c.handle = some h → h.isOf c = true → memberDies s v = [d] →
      ∃ t, exec (.collectiveEnd w d slot c.n) s = .next t ∧ (t.view key).colls = [] ∧ t.mem = s.mem ∧
        Tbl.get none (t.ctx k).handles c.handle = some { h with status := 0, flags := 0 }) ∧
    (∀ n e, e ∈ memberDies s v → readyColl s w slot n v.tag e = none → exec (.collectiveEnd w d slot n) s = .next s)) ∧
  (∀ (s : State) (x : Slice), s.power = true → s.slice x.id = some x → 1 < gpkgsOf s x → x.joined.length < gpkgsOf s x →
    (∀ p, p ∉ x.joined → p ≠ s.pkg → ∃ t y, exec (.gangJoinReport x.id p) s = .next t ∧ t.slice x.id = some y ∧
      y.joined = x.joined ++ [p] ∧ t.mem = s.mem) ∧
    (x.tstart.toNat + windowClk s x ≤ s.cycle.toNat → x.tries < 2 →
      ∃ t y, exec (.joinWindowExpire x.id) s = .next t ∧ t.slice x.id = some y ∧ y.st = .waiting ∧ y.tries = x.tries + 1 ∧
        y.cores = [] ∧ y.joined = [] ∧ t.mem = s.mem) ∧
    (∀ core, x.tstart.toNat + windowClk s x ≤ s.cycle.toNat → x.tries = 2 → x.cores = [core] →
      (s.ctx (core * 16)).run = .live → (s.ctx (core * 16)).kind = .control → (s.ctx (core * 16)).pending.length < 8 → x.kept = [] →
      ∃ t p, exec (.joinWindowExpire x.id) s = .next t ∧ (t.ctx (core * 16)).pending = (s.ctx (core * 16)).pending ++ [p] ∧
        p.cause = 0x0C4#9 ∧ p.taddr = x.tstart ∧ t.mem = s.mem))

/-! ## The end of a slice, caches, translations -/

/-- R101, R280, R288: `sdone` and `halt` of a control context with nothing of its core under way and no cause pending report its
part of the slice: the member is done, and with the last report the slice completes, DONE or HALTED, or INCOMPLETE where the
supervisor ends a slice after the third abort of its join (R397), and its job posts its completion. A helper's `halt` ends it
with value 0 and reason 2; a controller's stops it, but the SCTL's waits. Model choices: log 64, 65. -/
def Obligations.SliceEndResults : Prop :=
  ∀ (s : State) (a : SReg), Fresh s →
    let core := s.cx.coreKey
    let ends (i : Instr) (reported : Slice → Nat) : Prop :=
      Ready s i → s.cx.kind = .control → s.cur = core * 16 → IdleCore s core → s.cx.pending = [] → ∀ x j,
        sliceOn s core = some x →
        x.runs = [] → s.job x.job = some j → j.stages = [] →
        let status := reported x
        ((∃ k ∈ x.cores, k ≠ core ∧ ∀ r ∈ x.reports, r.1 ≠ k) →
          ∃ t y, exec i s = .next t ∧ t.cx.run = .done ∧ t.slice x.id = some y ∧
            y.reports = x.reports ++ [(core, status, false)] ∧ t.mem = s.mem) ∧
        (x.cores = [core] → x.reports = [] → j.left = 1 →
          ∃ t, exec i s = .next t ∧ t.slice x.id = none ∧ t.job j.id = none ∧ t.cx.run = .free ∧
            Owes s t j.world j.die j.tag (jobStatus (status :: j.statuses)) 0 (BitVec.ofNat 64 (j.notDone + if status = 0 then 0 else 1)) 0 0 ∧
            t.mem = s.mem)
    ends (.sdone a) (fun x => if s.cx.priv = true ∧ 3 ≤ x.tries then 9 else 0) ∧ ends .halt (fun _ => 1) ∧
    (Ready s .halt → s.cx.kind = .helper → s.cx.loads = 0 → s.cx.stores = 0 → s.cur / 16 * 16 ≠ s.cur →
      ∃ t, exec .halt s = .next t ∧ t.cx.run = .ended ∧ t.cx.exitValue = 0 ∧ t.cx.exitReason = 2) ∧
    (Ready s .halt → s.cx.kind = .controller → s.cx.core ≠ 0 →
      ∃ t, exec .halt s = .next t ∧ t.cx.run = .halted ∧ t.cx.pc = s.cx.pc + 4 ∧ OnlyContext s t) ∧
    (Ready s .halt → s.cx.kind = .controller → s.cx.core = 0 → cipendOf s s.cx &&& s.cx.cien = 0 →
      ∃ t, exec .halt s = .next t ∧ t.cx.waiting = true ∧ t.cx.pc = s.cx.pc ∧ t.cx.run = .live ∧ OnlyContext s t)

/-- R293 to R295: `iprf` changes nothing but the PC; `iinv` of an address of the own die drops the world's lines that overlap
its range, in the L2I and every L1I of the die, and what the context holds ahead, and keeps every other line; `xlat` issues as a
load. Model choices: log 38. -/
def Obligations.CacheInstructionResults : Prop :=
  ∀ (s : State) (d a b : SReg), Fresh s →
    let c := s.cx
    let va := s.rS a
    let hit (x : Line) : Bool := x.hit c.world va (s.rS b).toNat
    (Ready s (.iprf a b) → ∃ t, exec (.iprf a b) s = .next t ∧ NoRegisters s t 4 ∧ OnlyContext s t) ∧
    (Ready s (.iinv a b) → va.extractLsb' 48 16 = 0xFFFC#16 →
      ∃ t, exec (.iinv a b) s = .next t ∧ NoRegisters s t 4 ∧ t.cx.fetched = [] ∧ t.mem = s.mem ∧
        (∀ x, x ∈ (t.dieAt c.die).l2i ↔ x ∈ (s.dieAt c.die).l2i ∧ hit x = false) ∧
        ∀ n, n < 48 → ∀ x, x ∈ (t.cluster (c.die * 48 + n)).l1i ↔ x ∈ (s.cluster (c.die * 48 + n)).l1i ∧ hit x = false) ∧
    (Ready s (.xlat d a) → c.isCompute = true → c.loads < 63 →
      ∃ t r, exec (.xlat d a) s = .next t ∧ t.cx.pc = c.pc + 4 ∧ t.cx.loads = c.loads + 1 ∧ t.reqs = s.reqs ++ [r] ∧
        r.kind = .xlat ∧ r.va = va ∧ r.ctx = s.cur ∧ r.st = .sent ∧ (d ≠ 0 → posLocked t s.cur (c.posOf d) = true) ∧
        (∀ q : SReg, t.rS q = s.rS q) ∧ t.mem = s.mem)

/-- R259 to R262: writes of S1ROOT and TINV drop the translations they name when no walk is under way and no request waits with
its translation; a write of a reserved form of TINV does nothing; PRQ1 gives the two words of the oldest unread request in turn,
or 0; a write of PRQREPLY answers its request: what parked is walked again or refused, and a reply that names none counts as a
stray. Model choices: log 36, 38. -/
def Obligations.TranslationRegisterResults : Prop :=
  ∀ (s : State) (g : GReg), Fresh s → s.cx.phase = 0 →
    let c := s.cx
    let v := s.rG g
    let w := s.wd c.world c.die
    let kept (i : Instr) (drops : TlbEntry → Bool) (p : State → Prop) : Prop :=
      translatingAtDie s c.world c.die = [] →
        ∃ t, exec i s = .next t ∧ NoRegisters s t 4 ∧ t.mem = s.mem ∧ p t ∧
          ∀ x, x ∈ (t.dieAt c.die).tlb ↔ x ∈ (s.dieAt c.die).tlb ∧ ¬ (x.world = c.world ∧ drops x = true)
    (Ready s (.s1rootWrite g) → kept (.s1rootWrite g) (fun _ => true)
      (fun t => (t.wd c.world c.die).s1root = v &&& 0x0000FFFFFFFF0001#64)) ∧
    (Ready s (.tinvWrite g) →
      (v.getLsbD 48 = true ∨ v.extractLsb' 4 12 ≠ 0 ∨ v.getLsbD 1 = true ∨ v.extractLsb' 0 4 = 0xC#4 →
        ∃ t, exec (.tinvWrite g) s = .next t ∧ NoRegisters s t 4 ∧ OnlyContext s t) ∧
      (v.getLsbD 48 = false → v.extractLsb' 0 16 = 1#16 → kept (.tinvWrite g) (fun _ => true) (fun _ => True)) ∧
      (∀ z : Nat, z < 3 → v.extractLsb' 48 16 = 0xFFFC#16 → v.extractLsb' 0 16 = BitVec.ofNat 16 (4 * z) →
        kept (.tinvWrite g) (fun x => x.meets (v.extractLsb' 16 32).toNat z) (fun _ => True))) ∧
    (Ready s (.prq1Read g) →
      let next := w.requests.find? (fun q => q.posted && !q.read && q.stage = 1)
      (s.cur ∉ w.halfCtx → next = none → Writes s (.prq1Read g) (gS g) 0 4) ∧
      (∀ q, s.cur ∉ w.halfCtx → next = some q → ∃ t, exec (.prq1Read g) s = .next t ∧
        t.rG g = written (gS g) ((BitVec.ofNat 64 (q.page + (s.dieAt c.die).logical.toNat * 2 ^ 33) <<< 16) ||| 0x40 |||
          BitVec.ofNat 64 c.world) ∧
        (t.wd c.world c.die).halfRead = some (BitVec.ofNat 64 q.id) ∧ s.cur ∈ (t.wd c.world c.die).halfCtx ∧ t.cx.pc = c.pc + 4 ∧ t.mem = s.mem) ∧
      (∀ q : PageReq, s.cur ∈ w.halfCtx → w.halfRead = some (BitVec.ofNat 64 q.id) → q.id < 65536 → w.requests = [q] → q.posted = true →
        q.stage = 1 → (∀ r ∈ s.reqs, r.st ≠ .parked) → ∃ t, exec (.prq1Read g) s = .next t ∧
          t.rG g = written (gS g) ((q.kinds.zeroExtend 64 <<< 16) ||| BitVec.ofNat 64 q.id) ∧
          s.cur ∉ (t.wd c.world c.die).halfCtx ∧ t.cx.pc = c.pc + 4 ∧ t.mem = s.mem)) ∧
    (Ready s (.prqreplyWrite g) →
      let id := (v.extractLsb' 0 16).toNat
      let named := w.requests.find? (fun q => q.posted && q.stage = 1 && q.id = id)
      (named = none → ∃ t, exec (.prqreplyWrite g) s = .next t ∧ NoRegisters s t 4 ∧ t.mem = s.mem ∧ t.reqs = s.reqs ∧
        t.wd c.world c.die = { w with stray := if w.stray + 1 ≤ 65535 then w.stray + 1 else 65535 }) ∧
      (∀ q r, named = some q → parkedAtDie s c.world c.die = [r] → r.page = some (1, q.page) → s.reqs = [r] →
        v.getLsbD 16 = false → ∃ t, exec (.prqreplyWrite g) s = .next t ∧ NoRegisters s t 4 ∧ t.mem = s.mem ∧
          t.reqs = [{ r with page := none }] ∧ ∀ y ∈ (t.wd c.world c.die).requests, y.posted = true → y.id ≠ id) ∧
      (∀ q r, named = some q → parkedAtDie s c.world c.die = [r] → r.page = some (1, q.page) → s.reqs = [r] → r.kind = .load →
        (∀ o, s.op r.op = some o → o.noticed = false) → v.getLsbD 16 = true → ∃ t x, exec (.prqreplyWrite g) s = .next t ∧ NoRegisters s t 4 ∧ t.mem = s.mem ∧
          t.reqs = [x] ∧ x.id = r.id ∧ (∃ n f, x.st = .replied n f true)))

/-! ## The host and the hypervisor -/

/-- R250, R276 to R278, R174, R310: a doorbell sets TAIL after what the host wrote; STOP clears; the registers of the world's
page take their writable fields; a write through a mailbox window writes its eight bytes, but a command that comes to the SCTL
while an earlier one waits has its turn later; CTXCMD 1 lets a stopped context go on at TPC with the privilege it had, CTXCMD 2
ends its slice with ABORTED, and neither acts on a context that is not stopped; the die map takes an entry, and one that names
its own die gives the die its logical number. Model choices: log 34, 112. R259, R260, R263: the hypervisor reads a page
request's first word; its proposal of a free page of the die is installed and becomes the world's, a refusal or a page of
another world is not; a migration to a page of the world first sets MIG and drops the page's translations, then moves the page's
bytes and points its entry at them. Model choices: log 17, 91. -/
def Obligations.HostAndHypervisorEvents : Prop :=
  (∀ (s : State) (w d : Nat), s.power = true →
      let x := s.wd w d
      (∀ tail a b, ∃ t, exec (.rtailWrite w d tail [(a, b)]) s = .next t ∧ t.wd w d = { x with rtail := BitVec.ofNat 16 tail } ∧
        t.byte (hostKey (a % 2 ^ 49)) = b ∧ (∀ k, k ≠ hostKey (a % 2 ^ 49) → t.byte k = s.byte k) ∧ t.ctxs = s.ctxs) ∧
      (∃ t, exec (.rctlStopClear w d) s = .next t ∧ t.wd w d = { x with rstop := false } ∧ t.mem = s.mem ∧ t.ctxs = s.ctxs) ∧
      (∀ v : Word, ∀ p ∈ [(0x000, { x with rbase := v &&& ~~~63#64 }), (0x010, { x with rtail := v.truncate 16 }),
          (0x018, { x with cbase := v &&& ~~~31#64 }), (0x028, { x with icbase := v &&& ~~~0xFFFF#64 }),
          (0x030, { x with icsize := v &&& ~~~0xFFFF#64 })],
        ∃ t, exec (.genericRegisterWrite (.host w d p.1 v)) s = .next t ∧ t.wd w d = p.2 ∧ t.mem = s.mem ∧ t.ctxs = s.ctxs) ∧
      (∀ (n off : Nat) (v : Word), n ≤ 17 → off < 0x10000 → off % 8 = 0 →
        (n = 0 → off = 0 → v.getLsbD 63 = true → mailGo s = true →
          exec (.genericRegisterWrite (.mailbox n off v)) s = .next { s with dev := { s.dev with mailNext := some v } }) ∧
        (¬ (n = 0 ∧ off = 0 ∧ v.getLsbD 63 = true ∧ mailGo s = true) →
        ∃ t, exec (.genericRegisterWrite (.mailbox n off v)) s = .next t ∧ t.ctxs = s.ctxs ∧
          let loc := ctlSpace n (0x100000 + off)
          ∀ a, t.byte a = if loc ≤ a ∧ a < loc + 8 then (leBytes v.toNat 8).getD (a - loc) 0 else s.byte a)) ∧
      (∀ cl co sl, cl < 48 → co < 4 → sl < 16 →
        let k := coreKeyOf d cl co * 16 + sl
        ((s.ctx k).run = .stopped → (s.ctx k).world = w → (s.core (k / 16)).saveDue = false →
          ∃ t, exec (.ctxcmdResume w d cl co sl) s = .next t ∧ (t.ctx k).run = .live ∧ (t.ctx k).pc = (s.ctx k).trap.tpc ∧
            (t.ctx k).priv = (s.ctx k).priv ∧ (t.ctx k).trap = (s.ctx k).trap ∧ t.mem = s.mem ∧
            ∀ n, n ≠ k → t.ctx n = s.ctx n) ∧
        ((s.ctx k).run = .stopped → (s.ctx k).world = w → ∀ y j, sliceOn s (k / 16) = some y → y.tries < 3 →
          s.job y.job = some j → j.left = 1 → ∃ t, exec (.ctxcmdAbort w d cl co sl) s = .next t ∧ t.slice y.id = none ∧
            Owes s t j.world j.die j.tag (jobStatus (7 :: j.statuses)) 0 (BitVec.ofNat 64 (j.notDone + 1)) 0 0 ∧ t.mem = s.mem) ∧
        ((s.ctx k).run ≠ .stopped → ∀ i ∈ [Instr.ctxcmdResume w d cl co sl, .ctxcmdAbort w d cl co sl], exec i s = .next s)) ∧
      (∀ n v, d < 4 → n < 24576 → ∃ t, exec (.dieMapWrite d n v) s = .next t ∧ Tbl.get 0 (t.dieAt d).dieMap n = v ∧
        (∀ m, m ≠ n → Tbl.get 0 (t.dieAt d).dieMap m = Tbl.get 0 (s.dieAt d).dieMap m) ∧ t.mem = s.mem ∧ t.ctxs = s.ctxs ∧
        (t.dieAt d).logical = if mapNames s v d = true then BitVec.ofNat 15 n else (s.dieAt d).logical)) ∧
  (∀ (s : State) (w d : Nat), s.power = true → d < 4 →
      let x := s.wd w d
      (∀ q : PageReq, x.pfHalf = none → x.requests = [q] → q.posted = true → q.read = false → q.stage = 2 →
        ∃ t, exec (.pfPageRequestRead w d) s = .next t ∧ (t.wd w d).pfHalf = some (BitVec.ofNat 64 q.id) ∧
          (t.wd w d).requests = [{ q with read := true }] ∧ t.mem = s.mem ∧ t.ctxs = s.ctxs) ∧
      (∀ (q : PageReq) (page : Nat) (perm : BitVec 3), x.requests = [q] → q.posted = true → q.stage = 2 → s.reqs = [] →
        ownHbm d page = true →
        (Tbl.get 0 s.owner page = 0 ∨ Tbl.get 0 s.owner page = w + 1 →
          ∃ t, exec (.stage2PageReply w d q.id page 0 perm false) s = .next t ∧ (t.wd w d).requests = [] ∧
            Tbl.get 0 t.owner page = w + 1 ∧ t.mem = s.mem ∧
            Tbl.get 0 (t.wd w d).stage2 q.page = (BitVec.ofNat 64 page <<< 16) ||| (perm.zeroExtend 64 <<< 4) ||| 1#64) ∧
        (∀ refuse, refuse = true ∨ Tbl.get 0 s.owner page ≠ 0 ∧ Tbl.get 0 s.owner page ≠ w + 1 →
          ∃ t, exec (.stage2PageReply w d q.id page 0 perm refuse) s = .next t ∧ (t.wd w d).requests = [] ∧
            t.owner = s.owner ∧ (t.wd w d).stage2 = x.stage2 ∧ t.mem = s.mem)) ∧
      (∀ page dest : Nat, let e : Word := Tbl.get 0 x.stage2 page
        let src := (e.extractLsb' 16 32).toNat * 65536
        pteV (Tbl.get 0 x.stage2g (page / 16384)) = false → pteV e = true → pteSize e = 0 → ownHbm d dest = true →
        Tbl.get 0 s.owner dest = w + 1 →
        (pteMig e = false → ∃ t, exec (.migration w d page dest) s = .next t ∧
          Tbl.get 0 (t.wd w d).stage2 page = e ||| 0x80 ∧ t.mem = s.mem ∧
          ∀ y ∈ (t.dieAt d).tlb, y.world = w → y.size = 0 → y.pa ≠ src) ∧
        (pteMig e = true → MemoryInv s → s.merges = [] → (∀ q ∈ s.reqs, q.pa = none) → (∀ n, n < 48 → (s.cluster (d * 48 + n)).leases = []) → ∃ t, exec (.migration w d page dest) s = .next t ∧
          Tbl.get 0 (t.wd w d).stage2 page = (BitVec.ofNat 64 dest <<< 16) ||| (e &&& 0x70) ||| 1#64 ∧
          Tbl.get 0 t.owner dest = w + 1 ∧
          ∀ a, t.byte a = if dest * 65536 ≤ a ∧ a < dest * 65536 + 65536 then s.byte (src + (a - dest * 65536)) else s.byte a)))

/-! ## Rings, admissions, the timetable -/

/-- R278 to R281, R24, R25, R296, R299, R306: the oldest held completion goes into its ring while there is room; a malformed
packet stops its ring with STATUS 3; a LAUNCH posts STATUS 2 with the first failing byte of its block, or becomes a job; an
ADMIT posts STATUS 5 with its cause and offset, or STATUS 4 for a cached image; a load that waited receives the outcome of the
run it waited for; a translator at its limit ends with 0x181, once the stores of its last instructions have been performed.
Model choices: log 73, 80, 81. -/
def Obligations.RingEvents : Prop :=
  ∀ (s : State) (w d : Nat), s.power = true →
    let x := s.wd w d
    (∀ c rest, x.heldDone = c :: rest →
      (complRoom x = false → exec (.heldCompletionPost w d) s = .next s) ∧
      (complRoom x = true →
        let va := x.cbase + BitVec.ofNat 64 (32 * (x.ctail.toNat % 2 ^ clogOf x))
        ∀ s1, unitWaits s w d permW va 32 = none → vaWrite s w d va (wordsBytes c) = some s1 →
        ∃ t, exec (.heldCompletionPost w d) s = .next t ∧ t.wd w d = { x with heldDone := rest, ctail := x.ctail + 1 } ∧
          t.mem = s1.mem ∧ t.hostIrqs.length = s.hostIrqs.length + (if x.cie then 1 else 0))) ∧
    (∀ va tag, peekPacket s w d = .malformed va tag → ringsTurn s w d = true →
      ∃ t, exec (.ringServe w d) s = .next t ∧ Owes s t w d tag 3 0 va 0 0 ∧ (t.wd w d).rstop = true ∧
        (t.wd w d).rhead = x.rhead ∧ t.mem = s.mem) ∧
    (∀ tag block l, peekPacket s w d = .launch tag block → ringsTurn s w d = true → launchWaits s w d block = none →
      vaRead s w d block 128 = some l →
      (∀ off, lpbError s w d l = some off → ∃ t cause, exec (.launch w d) s = .next t ∧
        Owes s t w d tag 2 cause (BitVec.ofNat 64 off) 0 0 ∧ (t.wd w d).rhead = x.rhead + 1 ∧ t.jobs = s.jobs ∧ t.mem = s.mem) ∧
      (lpbError s w d l = none → (lpbOf l).stagep = 0 → (lpbOf l).gpkgs = 1 → ∃ t j, exec (.launch w d) s = .next t ∧
        t.jobs = s.jobs ++ [j] ∧ j.lpb = lpbOf l ∧ j.tag = tag ∧ j.world = w ∧ j.die = d ∧ j.arrival = s.clk ∧ j.next = 0 ∧
        j.left = (lpbOf l).dimx * (lpbOf l).dimy * (lpbOf l).dimz ∧ (t.wd w d).rhead = x.rhead + 1 ∧
        (t.wd w d).heldDone = x.heldDone ∧ t.slices = s.slices ∧ t.mem = s.mem)) ∧
    (∀ tag flacon size cap deadline, peekPacket s w d = .admission tag flacon size cap deadline → ringsTurn s w d = true →
      let l := flaconBytes s w d flacon size.toNat
      flaconWaits s w d flacon l size.toNat = none →
      (∀ k off, step1Fail s w d flacon l size.toNat = some (k, off) → ∃ t, exec (.admitPacket w d) s = .next t ∧
        Owes s t w d tag 5 k.toNat (BitVec.ofNat 64 off) 0 0 ∧ (t.wd w d).rhead = x.rhead + 2 ∧ t.admits = s.admits ∧
        t.mem = s.mem) ∧
      (∀ m, step1Fail s w d flacon l size.toNat = none → findImage s w d (imageKey l) = some m →
        ∃ t, exec (.admitPacket w d) s = .next t ∧ Owes s t w d tag 4 0 0 m.codeVa (BitVec.ofNat 64 m.handle) ∧
          (t.wd w d).rhead = x.rhead + 2 ∧ t.images = s.images ∧ t.mem = s.mem)) ∧
    (∀ (a r : Admit) (e : AdmitEnd), s.admits = [r, a] → a.waits = some r.id → a.die = d → a.id ≠ r.id → r.waits = none →
      r.ended = some e → e.cause ≠ 0 → e.cause ≠ 0x181#9 → e.halted = false → e.meter < a.lim.toNat →
      ∃ t, exec (.cacheWaitResolve d) s = .next t ∧ Owes s t a.world a.die a.tag 5 e.cause.toNat e.offset 0 0 ∧
        t.admits = [] ∧ t.mem = s.mem) ∧
    (s.cx.kind = .translator → s.cx.run = .live → s.cx.meter.meter = s.cx.meter.lim → (∃ o ∈ s.ops, o.ctx = s.cur) →
      exec .meterExhausted s = .next s) ∧
    (∀ a : Admit, s.cx.kind = .translator → s.cx.run = .live → s.cx.meter.meter = s.cx.meter.lim → s.admits = [a] →
      a.ctx = some s.cur → (∀ o ∈ s.ops, o.ctx ≠ s.cur) → ∃ t, exec .meterExhausted s = .next t ∧
        Owes s t a.world a.die a.tag 5 0x181 (s.cx.pc.zeroExtend 64 - (s.cx.meter.xwBase &&& 0xFFFFFFFFFFFF#64)) 0 0 ∧
        t.admits = [] ∧ t.images = s.images ∧ t.mem = s.mem)

/-- R180 to R185, R283 to R287, R289 to R292, R303, R397: PDEAD's end stops the core for its save, but for an `sdone` that
issued in that clk or later; a save empties the core and the last of a gang's frees its cores; the timetable places the job's
slice where it fits; TSTART makes its die rank; an exhausted budget, a missing pulse pend their causes; a check of the signal
box takes each stage's ring and its bounds; a fetched line fills the L1I. Model choices: log 78, 79, 94. -/
def Obligations.TimetableEvents : Prop :=
  (∀ (s : State) (core : Nat), s.power = true →
    let k := core * 16
    let c := s.ctx k
    (∀ tm, c.pdeadAt = some tm → (s.core core).saveDue = false → c.run = .live → sliceOn s core = none →
      let atItsEnd : Prop := c.phase = 10 ∧ ∃ issued, c.limitAt = some issued ∧ tm ≤ issued
      (s.clk < tm ∨ atItsEnd → exec (.pdeadExpire core) s = .next s) ∧
      (tm ≤ s.clk → ¬ atItsEnd → c.phase ≠ committed → filling s k = false → ∃ t, exec (.pdeadExpire core) s = .next t ∧ (t.core core).saveDue = true ∧
        (t.core core).atYield = false ∧ (t.ctx k).run = .held ∧ (t.ctx k).pdeadAt = none ∧ (t.ctx k).pc = c.pc ∧
        t.mem = s.mem)) ∧
    (∀ x, (s.core core).saveDue = true → (s.core core).saved = false → coreQuiet s core = true → sliceOn s core = some x →
      (∀ n, n < 11 → (s.ctx (k + n)).run ≠ .live ∧ (s.ctx (k + n)).run ≠ .ending ∧ (s.ctx (k + n)).lates = []) →
      unitWaits s (s.core core).world (core / 192) permW (savepVa (s.core core)) 0x50000 = none →
      ∃ t, exec (.forcedSave core) s = .next t ∧ (t.core core).saved = true ∧ (t.core core).planes = [] ∧
        (t.core core).journal = [] ∧ ∀ n, n < 11 → (t.ctx (k + n)).run = .free) ∧
    (∀ w, w ≠ 0 → (s.core core).wdwin = w → (s.core core).slice.isSome = true → Takes s k →
      (s.clk < lastPulse s core + w.toNat → exec (.watchdogExpire core) s = .next s) ∧
      (lastPulse s core + w.toNat ≤ s.clk → ∃ t, exec (.watchdogExpire core) s = .next t ∧
        Pends s t k 0x0C3#9 0 (w.zeroExtend 64)))) ∧
  (∀ (s : State) (x : Slice), s.power = true → s.slices = [x] →
    (x.st = .saving → (∀ k ∈ x.cores, (s.core k).saved = true ∨ ∃ r ∈ x.reports, r.1 = k) → tablesWait s x = none → ∃ t y, exec (.gangTableSave x.id) s = .next t ∧
      t.slices = [y] ∧ y.st = .preempted ∧ ∀ k ∈ x.cores, (t.core k).slice = none) ∧
    (∀ k, x.st = .placed → x.exhausted = false → x.cores = [k] → Takes s (k * 16) → (s.ctx (k * 16)).phase ≠ 10 →
      (budgetLeft s x ≠ 0 → exec (.budgetExhausted x.id) s = .next s) ∧
      (budgetLeft s x = 0 → ∃ t, exec (.budgetExhausted x.id) s = .next t ∧ t.slices = [{ x with exhausted := true }] ∧
        Pends s t (k * 16) 0x0C1#9 0 (BitVec.ofNat 64 x.seq))) ∧
    (∀ (j : Job) (cores : List Nat), s.jobs = [j] → x.job = j.id → s.admits = [] → j.lpb.gpkgs = 1 → j.lpb.twin = false →
      x.st = .waiting → x.fresh = true → x.runs = [] → (s.world j.world).running = true → inService s j.die 433 = true → fitSlice s x j [] = some [cores] →
      ∃ t y, exec (.timetableRank j.die) s = .next t ∧ t.slices = [y] ∧ y.st = .placed ∧ y.cores = cores ∧ t.mem = s.mem ∧
        ∀ k ∈ cores, (t.core k).slice = some x.id ∧ (t.ctx (k * 16)).kind = .control ∧ (t.ctx (k * 16)).run = .live ∧
          (t.ctx (k * 16)).priv = false ∧ (t.ctx (k * 16)).pc = entryOf x j ∧ (t.ctx (k * 16)).readS 1 = j.lpb.arg) ∧
    (∀ j : Job, s.job x.job = some j → inService s j.die 433 = true →
      (s.cycle.toNat < x.tstart.toNat → exec (.tstartReached x.id) s = .next s) ∧
      (x.tstart.toNat ≤ s.cycle.toNat → ∃ t, exec (.tstartReached x.id) s = .next t ∧
        exec (.timetableRank j.die) s = .next t))) ∧
  (∀ (s : State) (j : Job), s.power = true → s.jobs = [j] → s.slices = [] → j.stages ≠ [] → inService s j.die 434 = true →
    (s.cycle.toNat % 4096 ≠ 0 ∨ (s.dieAt j.die).checkedAt = some s.cycle → exec (.signalBoxCheck j.die) s = .next s) ∧
    (s.cycle.toNat % 4096 = 0 → (s.dieAt j.die).checkedAt ≠ some s.cycle → ∃ t, exec (.signalBoxCheck j.die) s = .next t ∧ t.mem = s.mem ∧ t.jobs =
      [{ j with checks := j.checks + 1, stages := j.stages.map (fun p =>
        { p with hot := if p.hi ≤ ringLoad s j p then true else if ringLoad s j p ≤ p.lo then false else p.hot }) }])) ∧
  (∀ (s : State) (r : Req) (v n : Nat), s.power = true → s.reqs = [r] → r.kind = .fetch → r.st = .replied v 0 false →
    r.elem = 0 → (s.ctx r.ctx).fetching = some r.id → (s.ctx r.ctx).run = .live → (r.va.extractLsb' 0 6) = 0 → n < 16 →
    ∃ t, exec (.fetchFill r.id) s = .next t ∧ t.reqs = [] ∧ (t.ctx r.ctx).fetching = none ∧ t.mem = s.mem ∧
      lineWord (t.cluster r.clusterKey).l1i r.world (bits r.va 47 0 + 4 * n) = some (BitVec.ofNat 32 (v / 2 ^ (32 * n))) ∧
      (t.ctx r.ctx).pc = (s.ctx r.ctx).pc)

/-! ## The platform -/

/-- R318 to R320, R323, R325, R327, R5: what a write of each control register of a controller does. SCHCTL moves a scheduler as
its MODE asks (log 47: the transitions that R318 and R319 leave out are the model's); TRNCTL starts a training only in STATE 2
or 4; LNCTL takes a lane out while none trains; CGATE gates clusters outside every partition and starts the ungating of others;
CALIVE ends the wait for a sign of life. -/
def Obligations.ControllerRegisterWrites : Prop :=
  ∀ (s : State) (a : GReg) (n : BitVec 8) (l : BitVec 4) (die : BitVec 2), Fresh s → s.cx.kind = .controller →
    let v := s.rG a
    let k := ownSched s n
    let x := s.sched k
    let done (i : Instr) (p : State → Prop) : Prop := ∃ t, exec i s = .next t ∧ NoRegisters s t 4 ∧ t.mem = s.mem ∧ p t
    (Ready s (.putx a (regSCHCTL n)) →
      ∀ i ∈ [Instr.schctlOnline a n, .schctlDrain a n, .schctlOffline a n, .schctlFenced a n, .putx a (regSCHCTL n)],
        let goes (m : BitVec 2) (st : BitVec 3) : Prop := done i (fun t => t.sched k =
          { x with mode := m, state := st, units := if st = 0 ∨ st = 5 then [] else x.units })
        (v.extractLsb' 0 2 = 0#2 → x.state ≠ 3 → goes 0 0) ∧ (v.extractLsb' 0 2 = 0#2 → x.state = 3 → goes x.mode 3) ∧
        (v.extractLsb' 0 2 = 1#2 → x.state ≠ 2 → x.state ≠ 3 → goes 1 1) ∧
        (v.extractLsb' 0 2 = 2#2 → x.state = 0 → goes 1 1) ∧ (v.extractLsb' 0 2 = 2#2 → x.state = 2 → goes 2 2) ∧
        (v.extractLsb' 0 2 = 3#2 → x.held = [] → goes 3 5)) ∧
    (Ready s (.putx a (regTRNCTL n)) → done (.trnctlGo a n) (fun t => t.sched k =
      if v.getLsbD 0 = true ∧ (x.state = 2 ∨ x.state = 4) then { x with state := 3, done := false, steps := v.extractLsb' 4 4 }
      else x)) ∧
    (Ready s (.putx a (regLNCTL l)) →
      let y := linkOf s (s.cx.core - 10) l.toNat
      let lane := (v.extractLsb' 0 3).toNat
      done (.lnctlGo a l) (fun t => linkOf t (s.cx.core - 10) l.toNat =
        if v.getLsbD 3 = true ∧ y.training = none then { y with training := some lane, up := y.up &&& ~~~((1#8) <<< lane) }
        else y)) ∧
    (Ready s (.putx a (regCGATE die)) → done (.cgateWrite a die) (fun t => ∀ c, c < 48 →
      let y := s.cluster (die.toNat * 48 + c)
      t.cluster (die.toNat * 48 + c) =
        if v.getLsbD c = true ∧ inPartition s die.toNat c = false then { y with gated := 1, ungateAt := none }
        else if y.gated = 1 then { y with gated := 2, ungateAt := some (s.clk + 3000) } else y)) ∧
    (Ready s (.putx a regCALIVE) → done (.caliveWrite a) (fun t =>
      ctlImage t s.cx.core = { ctlImage s s.cx.core with aliveBy := none }))

/-- R308, R311 to R314, R318 to R328: an enabled interrupt enters its handler; a stopped controller restarts at the entry of its
image, after a third double fault from the other slot; ten milliseconds without CALIVE bring the other slot back; a flit with
errors is reported and its link retrains; a scheduler drains, trains, fails and refreshes; rails follow their order, and hold
while the PCTL does not run; an ungated cluster comes up empty; the governor compares; a lane's training ends; the boot counts
its steps and stops where one fails; a power failure stops everything. Model choices: log 49, 50, 51, 52, 53, 54, 125. -/
def Obligations.PlatformEvents : Prop :=
  (∀ (s : State) (n : Nat), s.power = true →
    let k := ctlKey n
    let c := s.ctx k
    (interruptDue s c = true → ∃ t, exec (.controllerInterrupt n) s = .next t ∧ (t.ctx k).pc = c.civec.truncate 48 ∧
      (t.ctx k).ciret = (c.pc.zeroExtend 64 &&& ~~~3#64) ||| 1#64 ∧ t.mem = s.mem ∧ ∀ j, j ≠ k → t.ctx j = s.ctx j) ∧
    (interruptDue s c = false → exec (.controllerInterrupt n) s = .next s) ∧
    (1 ≤ n → n ≤ 17 → c.run = .halted →
      let m := ctlImage s n
      let restarts (slot : Nat) (p : State → Prop) : Prop :=
        ∃ t, exec (.controllerRestart n) s = .next t ∧ (t.ctx k).run = .live ∧ (t.ctx k).kind = .controller ∧
          (t.ctx k).pc = BitVec.ofNat 48 (flashField s (kindOf n) slot 24 8) ∧ (∀ j, j ≠ k → t.ctx j = s.ctx j) ∧ p t
      (m.double = false → m.pending = none → restarts m.slot (fun t => t.ctlImages = s.ctlImages)) ∧
      (m.double = true → m.faults.length < 3 → restarts m.slot (fun t => ctlImage t n = { m with double := false })) ∧
      (m.double = true → 3 ≤ m.faults.length → restarts (1 - m.slot) (fun t => (ctlImage t n).slot = 1 - m.slot))) ∧
    (∀ tm, (ctlImage s n).aliveBy = some tm →
      (s.clk < tm → exec (.caliveTimeout n) s = .next s) ∧
      (tm ≤ s.clk → ∃ t, exec (.caliveTimeout n) s = .next t ∧ (ctlImage t n).slot = 1 - (ctlImage s n).slot ∧
        (ctlImage t n).aliveBy = none ∧ (t.ctx k).run = .live))) ∧
  (∀ (s : State) (d o : Nat), s.power = true → d < 4 → o < 4 → d ≠ o → (linkOf s d (d2dLink d o)).training = none →
    ∃ t lane, exec (.d2dFlitUncorrectable d o []) s = .next t ∧ lane < 8 ∧ t.mem = s.mem ∧
      t.hostIrqs = s.hostIrqs ++ [(0, 0x1E2#9, (BitVec.ofNat 64 o <<< 4) ||| BitVec.ofNat 64 d)] ∧
      (linkOf t d (d2dLink d o)).training = some lane ∧ (linkOf t d (d2dLink d o)).up.getLsbD lane = false) ∧
  (∀ (s : State) (h n : Nat) (pass : Bool) (z w el er vr : BitVec 8), s.power = true →
    let k := h * 192 + n
    let x := s.sched k
    (∃ t, exec (.schedulerDrainDone h n) s = .next t ∧ t.sched k =
      (if x.state = 1 ∧ (∀ m ∈ s.merges, m.1 < 0x8000000000 → schedKey m.1 ≠ k) then { x with state := 2 } else x) ∧
      t.mem = s.mem) ∧
    (∃ t, exec (.trainingDone h n pass z w el er vr) s = .next t ∧ t.mem = s.mem ∧ (x.state ≠ 3 → t.sched k = x) ∧
      (x.state = 3 → (t.sched k).state = 2 ∧ (t.sched k).done = true ∧ (t.sched k).pass = pass ∧
        (t.sched k).zq = (if x.steps.getLsbD 0 then z else x.zq) ∧ (t.sched k).wldly = (if x.steps.getLsbD 1 then w else x.wldly) ∧
        (t.sched k).eyel = (if x.steps.getLsbD 2 then el else x.eyel) ∧ (t.sched k).eyer = (if x.steps.getLsbD 2 then er else x.eyer) ∧
        (t.sched k).vref = (if x.steps.getLsbD 3 then vr else x.vref))) ∧
    (∃ t r, exec (.dataPathError h n) s = .next t ∧ t.sched k = { x with state := 4 } ∧ t.mem = s.mem ∧
      (Tbl.get [] t.logs (logKey (h / 2) 4 (k % 384))).getLast? = some r ∧ (r.getD 1 0).extractLsb' 56 8 = 2#8) ∧
    (∃ t, exec (.hbmRefreshDue h n) s = .next t ∧ t.sched k = { x with refreshes := x.refreshes + 1 } ∧ t.mem = s.mem)) ∧
  (∀ (s : State) (r : Nat), s.power = true →
    (railsMove s = false → exec (.railStable r) s = .next s ∧ exec (.railOutOfTolerance r) s = .next s ∧
      exec (.railBelow10Percent r) s = .next s) ∧
    (railsMove s = true → railAt s r = .rising → ∃ t, exec (.railStable r) s = .next t ∧ railAt t r = .up ∧ t.mem = s.mem ∧
      (r < 4 → railAt s (r + 1) = .down → railAt t (r + 1) = .rising)) ∧
    (railsMove s = true → railAt s r = .up → r ≤ 4 → ∃ t, exec (.railOutOfTolerance r) s = .next t ∧ railAt t 4 = .falling ∧ t.mem = s.mem ∧
      t.hostIrqs = s.hostIrqs ++ [(0, 0x1E3#9, BitVec.ofNat 64 r)]) ∧
    (railsMove s = true → railAt s r = .falling → ∃ t, exec (.railBelow10Percent r) s = .next t ∧ railAt t r = .down ∧ t.mem = s.mem ∧
      (2 ≤ r → railAt t (r - 1) = .falling) ∧ (r = 4 → ∀ p ∈ s.ctxs, p.1 < 65536 → (t.ctx p.1).run = .free))) ∧
  (∀ (s : State) (d c amps l : Nat) (pass : Bool), s.power = true →
    let y := s.cluster (d * 48 + c)
    (∀ tm, y.gated = 2 → y.ungateAt = some tm → (s.clk < tm → exec (.ungateDone d c) s = .next s) ∧
      (tm ≤ s.clk → c < 48 → ∃ t, exec (.ungateDone d c) s = .next t ∧ (t.cluster (d * 48 + c)).gated = 0 ∧
        (t.cluster (d * 48 + c)).tids = [] ∧ (∀ i, i < 4 → (t.core ((d * 48 + c) * 4 + i)).planes = []) ∧
        (MemoryInv s → ∀ o, o < 0x400000 → t.byte (cmKey d c o) = 0))) ∧
    (∃ t, exec (.governorInterval amps) s = .next t ∧ t.throttled = decide (s.govLim.toNat < amps) ∧
      t.govCnt = (if s.govLim.toNat < amps then s.govCnt + 1 else s.govCnt) ∧ t.mem = s.mem) ∧
    (∀ lane, (linkOf s d l).training = some lane → ∃ t, exec (.laneTrainDone d l pass) s = .next t ∧ t.mem = s.mem ∧
      (linkOf t d l).training = none ∧
      (linkOf t d l).up = (if pass then (linkOf s d l).up ||| ((1#8) <<< lane) else (linkOf s d l).up)) ∧
    (∃ t, exec .powerFailure s = .next t ∧ t.power = false ∧ t.mem = s.mem)) ∧
  (∀ (s : State), s.power = true → s.resetDue = false →
    (1 ≤ s.bootStep → s.bootStep ≤ 8 → ∃ t, exec (.boot false) s = .next t ∧ t.bootStep = 0 ∧
      (t.ctx (ctlKey 0)).run = .halted ∧ t.answers = s.answers ++ [{ world := 0, code := .bootFailed s.bootStep, data := [] }]) ∧
    (s.bootStep = 2 → ∃ t, exec (.boot true) s = .next t ∧ t.bootStep = 3 ∧ t.mem = s.mem ∧
      Tbl.get 0 t.meas 1 = sha512 (digestBytes (Tbl.get 0 s.meas 1) ++ digestBytes romDigest)) ∧
    (s.bootStep = 8 → ∃ t, exec (.boot true) s = .next t ∧ t.bootStep = 9 ∧ t.ready = true))

/-! ## Integrity -/

/-- R335, R345 to R347: ELSEL selects and ELREAD gives the words of the oldest record of the world in turn, which goes after its
last word; XCTL keeps EN only in a test partition; SPARE outside world 0, or with a MAP that is none, does nothing, and its
quarantine bits are taken otherwise; an EINJC without GO or of mode 3 does nothing. Flipped bits of two symbols make a granule
uncorrectable. Model choices: log 92, 93, 110. -/
def Obligations.IntegrityRegisterResults : Prop :=
  ∀ (s : State) (g : GReg), Fresh s →
    let c := s.cx
    let v := s.rG g
    let k := c.world * 4 + c.die
    let x := s.wd c.world c.die
    let log := selectedLog s c
    let l := Tbl.get [] s.logs log
    let done (i : Instr) (p : State → Prop) : Prop := ∃ t, exec i s = .next t ∧ NoRegisters s t 4 ∧ t.mem = s.mem ∧ p t
    (Ready s (.putx g regELSEL) → done (.elselWrite g) (fun t => Tbl.get 0 t.elpos k = 0 ∧
      Tbl.get 0 t.elsel k = (v.extractLsb' 0 16).zeroExtend 64)) ∧
    (Ready s (.getx g regELREAD) → ∀ r rest, l = r :: rest → recordOfWorld c.world r = true →
      let n := Tbl.get 0 s.elpos k
      n < 4 → ∃ t, exec (.elreadRead g) s = .next t ∧ t.rG g = written (gS g) (r.getD n 0) ∧ t.cx.pc = c.pc + 4 ∧ t.mem = s.mem ∧
        Tbl.get 0 t.elpos k = (n + 1) % 4 ∧ Tbl.get [] t.logs log = if n = 3 then rest else l) ∧
    (Ready s (.getx g regELREAD) → (∀ r ∈ l, recordOfWorld c.world r = false) → Writes s (.elreadRead g) (gS g) 0 4) ∧
    (Ready s (.putx g regXCTL) → done (.xctlWrite g) (fun t => t.wd c.world c.die =
      { (injectorTo s c.world c.die).wd c.world c.die with
          xen := v.getLsbD 63 && (s.world c.world).test, xrate := v.truncate 32, xat := s.clk })) ∧
    (Ready s (.putx g regSPARE) →
      let cl := s.cluster c.clusterKey
      let maps := [(v.extractLsb' 0 3), (v.extractLsb' 3 3), (v.extractLsb' 6 3), (v.extractLsb' 9 3)]
      (c.world ≠ 0 ∨ (∃ m ∈ maps, 4 < m.toNat) ∨ ¬ maps.Nodup → done (.spareWrite g) (fun t => OnlyContext s t)) ∧
      (c.world = 0 → (∀ m ∈ maps, m.toNat ≤ 4) → maps.Nodup → maps = [cl.map0, cl.map1, cl.map2, cl.map3] →
        done (.spareWrite g) (fun t => t.cluster c.clusterKey = { cl with quarantine := v.extractLsb' 24 5 })) ∧
      (c.world = 0 → (∀ m ∈ maps, m.toNat ≤ 4) → maps.Nodup → maps ≠ [cl.map0, cl.map1, cl.map2, cl.map3] →
        clusterBusy s c.clusterKey = false → done (.spareWrite g) (fun t =>
          let y := t.cluster c.clusterKey
          [y.map0, y.map1, y.map2, y.map3] = maps ∧ y.quarantine = v.extractLsb' 24 5 ∧
            ∃ pairs, y.copying = cl.copying ++ [(s.clk + 4096, pairs)] ∧ ∀ p, p ∈ pairs ↔ p.1 ≠ p.2 ∧
              p ∈ [cl.map0.toNat, cl.map1.toNat, cl.map2.toNat, cl.map3.toNat].zip (maps.map (·.toNat)))) ) ∧
    (Ready s (.putx g regEINJC) →
      (v.getLsbD 63 = false ∨ v.extractLsb' 9 2 = 3#2 → done (.einjcInject g) (fun t => OnlyContext s t)) ∧
      (∀ loc, v.getLsbD 63 = true → injectTarget s c x.einja = some loc →
        (v.extractLsb' 9 2 = 0#2 → done (.einjcInject g) (fun t =>
          let f := (loc / 64 * 64, (v.extractLsb' 0 9).toNat)
          (∀ u ∈ s.ues, u.1 ≠ f.1) →
            ((∀ u ∈ s.flips, u.1 ≠ f.1) → t.flips = s.flips ++ [f] ∧ t.ues = s.ues) ∧
            ((∃ u ∈ s.flips, u.1 = f.1 ∧ u.2 / 8 ≠ f.2 / 8) → f ∉ s.flips → (f.1, true) ∈ t.ues ∧ ∀ u ∈ t.flips, u.1 ≠ f.1))) ∧
        (v.extractLsb' 9 2 = 1#2 → done (.einjcInject g) (fun t => (loc / 64 * 64, true) ∈ t.ues ∧
          ∀ u, u ∈ t.flips ↔ u ∈ s.flips ∧ u.1 ≠ loc / 64 * 64))))

/-- R330 to R333, R341, R344, R345, R347: a strike counts at its die, revokes what its unit sent after its checkpoint, and the
seventeenth within 2^20 clk takes its unit out of service; a revoked effect counts at its receiver, which revokes its own later
effects in turn; a rollback opens its superstep again and lets its member run; twin runs that agree complete their slice, or
requeue it as their `sdone` asked (R289), and runs that do not are followed by a third; a copied unit memory holds what the old
one held; the seeded injector steps its generator once in each clk; a rollback to an unrecoverable superstep aborts. Model
choices: log 27, 55, 84, 92, 128, 130. -/
def Obligations.IntegrityEvents : Prop :=
  (∀ (s : State) (u : Nat), s.power = true → u / 1024 < 4 →
    let d := s.dieAt (u / 1024)
    let recent := (Tbl.get [] s.strikes u).filter (fun t => s.clk < t + 1048576)
    (∃ t, exec (.strikeReport u) s = .next t ∧ t.mem = s.mem ∧ t.ctxs = s.ctxs ∧
      (t.dieAt (u / 1024)).strikes = satTo (d.strikes + 1) (2 ^ 32 - 1) ∧ Tbl.get [] t.strikes u = recent ++ [s.clk] ∧
      (48 ≤ s.clk → s.clk ≤ s.cycle.toNat → Revokes s.effects s.revoked t u (s.clk - 48 - (s.cycle.toNat - 48) % 16)) ∧
      (recent.length < 16 → t.outOfService = s.outOfService) ∧
      (16 ≤ recent.length → u ∉ s.outOfService → t.outOfService = s.outOfService ++ [u] ∧
        t.hostIrqs = s.hostIrqs ++ [(0, 0x1E4#9, BitVec.ofNat 64 u)]) ∧
      ∃ r, (Tbl.get [] t.logs (logKey (u / 1024) 14 0)).getLast? = some r ∧ (r.getD 1 0).extractLsb' 56 8 = 4#8) ∧
    ((∀ e ∈ s.revoked, e.dst ≠ u) → exec (.effectRevoke u) s = .next s) ∧
    (∀ e others, s.revoked = e :: others → e.dst = u → ∃ t, exec (.effectRevoke u) s = .next t ∧ t.mem = s.mem ∧ t.ctxs = s.ctxs ∧
      (t.dieAt (u / 1024)).revokes = satTo (d.revokes + 1) (2 ^ 32 - 1) ∧
      (e.got = none → t.revoked = others ∧ t.effects = s.effects) ∧
      ∀ at_, e.got = some at_ → at_ ≤ s.clk → s.clk ≤ s.cycle.toNat →
        Revokes s.effects others t u (at_ - (s.cycle.toNat - (s.clk - at_)) % 16))) ∧
  (∀ (s : State) (x : Slice) (j : Job) (m : SnapMap) (k : Nat), s.power = true → s.slices = [x] → s.jobs = [j] → x.job = j.id →
    j.snap = some m → x.cores = [k] → x.st = .rolling → x.runs = [] →
    (s.core k).snap.isOpen = true → (s.core k).older = none → IdleCore s k →
    ((s.core k).snap.unrec = true → j.left = 1 → ∃ t, exec (.rollback x.id) s = .next t ∧ t.slices = [] ∧ t.mem = s.mem ∧
      Owes s t j.world j.die j.tag (jobStatus (7 :: j.statuses)) 0 (BitVec.ofNat 64 (j.notDone + 1)) 0 0) ∧
    ((s.core k).snap.unrec = false → (s.core k).snap.waited.isSome = true →
      (∀ n, n < 11 → (s.ctx (k * 16 + n)).stores = 0) → s.reqs = [] → ∃ t y, exec (.rollback x.id) s = .next t ∧
      t.slices = [y] ∧ y.st = .placed ∧ (t.ctx (k * 16)).run = .live ∧
      (t.core k).snap.rbcnt = (s.core k).snap.rbcnt + 1 ∧ (t.core k).snap.rolled = (s.core k).snap.rolled + 1 ∧
      (t.core k).snap.number = (s.core k).snap.number ∧ (t.core k).snap.used = 0)) ∧
  (∀ (s : State) (x : Slice) (j : Job) (m : SnapMap) (a b : TwinRun), s.power = true → s.slices = [x] → s.jobs = [j] →
    x.job = j.id → j.snap = some m → x.st = .placed → x.runs = [a, b] → a.finished = true → b.finished = true →
    (runsAgree a b = true → a.counts = [] → a.status ≠ 0 ∨ a.again = false → j.left = 1 → ∃ t, exec (.twinResolve x.id) s = .next t ∧ t.slices = [] ∧
      Owes s t j.world j.die j.tag (jobStatus (a.status :: j.statuses)) 0
        (BitVec.ofNat 64 (j.notDone + if a.status = 0 then 0 else 1)) 0 0 ∧ t.mem = s.mem) ∧
    (runsAgree a b = true → a.counts = [] → a.status = 0 → a.again = true → ∃ t y, exec (.twinResolve x.id) s = .next t ∧
      t.slices = [y] ∧ y.st = .waiting ∧ y.runs = [] ∧ y.stage = x.nextStage ∧ y.deadline = s.clk + j.lpb.deadline ∧
      t.jobs = s.jobs ∧ t.mem = s.mem) ∧
    (runsAgree a b = false → ∃ t y, exec (.twinResolve x.id) s = .next t ∧ t.slices = [y] ∧ y.st = .waiting ∧ y.cores = [] ∧
      y.runs = [a, b] ∧ y.usedCores = a.cores ++ b.cores ∧ t.mem = s.mem)) ∧
  (∀ (s : State) (d c f g due : Nat) (rest : List (Nat × List (Nat × Nat))), s.power = true →
    (s.cluster (d * 48 + c)).copying = (due, [(f, g)]) :: rest → f ≠ g → MemoryInv s →
    let um (n : Nat) : Nat := 0x030000000000 + d * 0x100000000 + c * 0x800000 + n * 0x100000
    (s.clk < due → exec (.spareUmCopyDone d c) s = .next s) ∧
    (due ≤ s.clk → ∃ t, exec (.spareUmCopyDone d c) s = .next t ∧
      (t.cluster (d * 48 + c)).copying = rest ∧ ∀ o, o < 0x100000 →
        t.byte (um g + o) = s.byte (um f + o) ∧ t.byte (um f + o) = 0)) ∧
  (∀ (s : State) (w d : Nat), s.power = true →
    let x := s.wd w d
    (x.xen = false ∨ (s.world w).test = false ∨ x.xat = s.clk →
      ∃ t, exec (.seededInjectStep w d) s = .next t ∧ t.wd w d = x ∧ t.mem = s.mem) ∧
    (x.xen = true → (s.world w).test = true → s.clk = x.xat + 1 →
      ∃ t, exec (.seededInjectStep w d) s = .next t ∧ t.mem = s.mem ∧ (t.wd w d).xat = s.clk ∧
      let y1 := x.xseed ^^^ (x.xseed <<< 13)
      let y2 := y1 ^^^ (y1 >>> 7)
      let y3 := y2 ^^^ (y2 <<< 17)
      (t.wd w d).xseed = y3 ∧ (t.wd w d).armed = if (y3.extractLsb' 0 32).toNat < x.xrate.toNat
        then x.armed ++ [((y3.extractLsb' 32 1).toNat, (y3.extractLsb' 33 9).toNat)] else x.armed))

/-! ## Worlds, evidence, keys, lifecycle -/

/-- R357, R363 to R366, R371: what an `st64` of the SCTL does at a device register, by whichever row names it: FPROG programs
the next pair of its target, a counter or the lifecycle, RSACMD starts a verification, each but while it is busy, WTEAR a
teardown, KZERO a zeroisation, MCMD extends a measurement and selects one, DBGCTL opens the port only when every interlock
holds. Model choices: log 56, 60, 124 (which earlier status a load may still read), 150 (GO while the unit is busy is ignored).
-/
def Obligations.DeviceRegisterWrites : Prop :=
  ∀ (s : State) (v b : GReg) (imm : BitVec 14), Fresh s → Ready s (.st64 v b imm) → s.cx.kind = .controller → s.cx.core = 0 →
    let va := s.rG b + BitVec.ofInt 64 imm.toInt
    let x := s.rG v
    ∀ i ∈ [Instr.st64 v b imm, .fprogGo v b imm, .rsacmdGo v b imm, .wtearGo v b imm, .kzeroGo v b imm, .mcmdGo v b imm,
        .dbgctlOpen v b imm, .genericRegisterWrite (.device v b imm)],
      let done (p : State → Prop) : Prop := ∃ t, exec i s = .next t ∧ NoRegisters s t 4 ∧ p t
      (va = 0x10000040 →
        let n := (x.extractLsb' 0 4).toNat
        let first := if n = 8 then 512 else 64 * n
        let pairs := if n = 8 then 3 else 64
        let starts : Prop := x.getLsbD 63 = true ∧ s.dev.fbusy = none ∧ (n ≤ 4 ∨ n = 8) ∧ thermometer s first pairs < pairs
        (¬ starts → done (fun t => t.mem = s.mem ∧ t.dev = { s.dev with early := t.dev.early })) ∧
        (starts → done (fun t => t.mem = s.mem ∧
          t.dev = { s.dev with fbusy := some (first + thermometer s first pairs), ffail := false, early := t.dev.early }))) ∧
      (va = 0x10010018 → done (fun t => t.mem = s.mem ∧ t.dev =
        if x.getLsbD 8 = true ∧ x.getLsbD 1 = false ∧ s.dev.rsaRun = none
        then { s.dev with rsaRun := some (x.extractLsb' 0 1).toNat, rsaDone := false, early := t.dev.early }
        else { s.dev with early := t.dev.early })) ∧
      (va = 0x10030000 →
        let w := (x.extractLsb' 0 6).toNat
        let reason := if x.extractLsb' 8 2 = 0#2 then 2 else (x.extractLsb' 8 2).toNat
        (x.getLsbD 63 = false → done (fun t => t.dev = { s.dev with early := t.dev.early } ∧ t.worlds = s.worlds)) ∧
        (x.getLsbD 63 = true → x.getLsbD 6 = false → s.dev.tearing = [] → ∃ t, exec i s = .next t ∧ (t.dev.tearing = [(w, reason)] ∧
          (t.world w).tdisp = (if reason = 1 then .error else .unlocked) ∧ (t.world w).debugBound = false ∧
          (∀ j ∈ t.jobs, j.world ≠ w) ∧ (∀ a ∈ t.admits, a.world ≠ w))) ∧
        (x.getLsbD 63 = true → x.getLsbD 6 = true → boundWorlds s = [] → s.dev.tearing = [] →
          done (fun t => t.mem = s.mem ∧ t.worlds = s.worlds ∧ t.dev.tearing ≠ []))) ∧
      (va = 0x10030010 → done (fun t => t.mem = s.mem ∧
        t.dev = if x.getLsbD 63 = true then { s.dev with zbusy := true, zclean := false, early := t.dev.early }
          else { s.dev with early := t.dev.early })) ∧
      (va = 0x10040000 → ∀ n, 1 ≤ n → n ≤ 9 → x.extractLsb' 0 8 = BitVec.ofNat 8 n → done (fun t => t.mem = s.mem ∧
        t.dev.mread = n ∧ Tbl.get 0 t.meas n = if x.getLsbD 63 = true
          then sha512 (digestBytes (Tbl.get 0 s.meas n) ++ digestBytes s.dev.mval) else Tbl.get 0 s.meas n)) ∧
      (va = 0x10050000 →
        let interlocks : Prop := boundWord s = 0 ∧ s.dev.tearing = [] ∧ s.dev.zbusy = false ∧ s.dev.zclean = true ∧
          s.dev.extended9 = true ∧ (lcsOf s = 1 ∨ lcsOf s = 2)
        (x.getLsbD 0 = true → interlocks → done (fun t => t.dev = { s.dev with debugOpen := true, early := t.dev.early } ∧ t.mem = s.mem)) ∧
        (x.getLsbD 0 = false ∨ ¬ interlocks → done (fun t => t.dev = { s.dev with early := t.dev.early } ∧ t.mem = s.mem)))

/-- R353 to R356, R327, R367, R368, R372: each command of the PF's mailbox, served while it waits, leaves its status in word 1:
PARTITION, SETTINGS, PAGEFREE and TEARDOWN act in the lifecycle states that allow them, DBGCHAL stores a fresh nonce, DBGUNLOCK
opens the port for a good token alone and spends the nonce, IMAGE makes a checked image pending; TEARDOWN is served only when
the teardown has ended, and a PARTITION of a world that is torn down waits for that; GO clears once the request is served, a
request that came meanwhile has its turn, and an unknown command gets status 4; what a program of the SCTL has taken up is left
to it (R373). Model choices: log 56, 58, 63, 121. -/
def Obligations.MailboxCommands : Prop :=
  ∀ s : State, s.power = true →
    let a := (mailWord s 2).toNat
    let b := (mailWord s 3).toNat
    let served (i : Instr) (st : Word) (p : State → Prop) : Prop :=
      ∃ t, exec i s = .next t ∧ mailWord t 1 = st ∧ t.dev.served = true ∧ p t
    (mailWaits s 1 = true →
      let mask := mailWord s 4
      (commandAllowed s 1 a = false → served .partition 3 (fun t => t.wds = s.wds)) ∧
      (commandAllowed s 1 a = true → partitionBad s a b mask (mailRanges s) = true →
        served .partition 2 (fun t => t.wds = s.wds)) ∧
      (commandAllowed s 1 a = true → partitionBad s a b mask (mailRanges s) = false →
        s.dev.tearing.any (fun p => p.1 = a) = true → exec .partition s = .next s) ∧
      (commandAllowed s 1 a = true → partitionBad s a b mask (mailRanges s) = false →
        s.dev.tearing.any (fun p => p.1 = a) = false → placedOnDie s a b = true → served .partition 1 (fun t => t.wds = s.wds)) ∧
      (commandAllowed s 1 a = true → partitionBad s a b mask (mailRanges s) = false →
        s.dev.tearing.any (fun p => p.1 = a) = false → placedOnDie s a b = false → served .partition 0 (fun t =>
          t.wd a b = { s.wd a b with clusters := mask.truncate 48, dmRanges := mailRanges s }))) ∧
    (mailWaits s 2 = true → commandAllowed s 2 a = true →
      (64 ≤ a → served .settings 2 (fun t => t.worlds = s.worlds)) ∧
      (a < 64 → served .settings 0 (fun t => (t.world a).route = (mailWord s 3).truncate 32 ∧
        (t.world a).wdwin = (mailWord s 4).truncate 32 ∧ (t.world a).tvec = (mailWord s 5).truncate 48 &&& ~~~3#48 ∧
        (t.world a).test = (mailWord s 6).getLsbD 0 ∧ (∀ n, n < 32 → (t.world a).masked.getLsbD n =
          (decide (1 ≤ n ∧ n ≤ 23) && (mailWord s 6).getLsbD n))))) ∧
    (mailWaits s 3 = true → commandAllowed s 3 64 = true →
      let p := ((mailWord s 2).extractLsb' 16 32).toNat
      (0x800000 ≤ p ∨ pageNamed s p = true → served .pagefree 2 (fun t => t.owner = s.owner)) ∧
      (p < 0x800000 → pageNamed s p = false → served .pagefree 0 (fun t => Tbl.get 0 t.owner p = 0 ∧
        ∀ o, o < 65536 → t.byte (p * 65536 + o) = 0))) ∧
    (mailWaits s 4 = true → commandAllowed s 4 a = true → a < 64 → s.dev.tearing = [] →
      ∃ t, exec .teardown s = .next t ∧ t.dev.served = false ∧ t.dev.tearing = [(a, 2)] ∧ (t.world a).bound = false) ∧
    (mailWaits s 5 = true → served .dbgchal 0 (fun t =>
      mailWord t 2 = BitVec.ofNat 64 (t.readMem (ctlSpace 0 0x1000) 8) ∧ t.readMem (ctlSpace 0 0x1008) 8 = 1 ∧
      t.free = s.free + 1)) ∧
    (mailWaits s 6 = true → s.dev.debugOpen = false → s.dev.tearing = [] →
      let s1 := s.writeMem (ctlSpace 0 0x1008) 8 0
      let token := s1.bytes (ctlSpace 0 0x101000) 64
      let good : Bool := vendorVerify 0 token (s1.bytes (ctlSpace 0 0x101040) 512) &&
        tokenOk s1 token (BitVec.ofNat 64 (s.readMem (ctlSpace 0 0x1000) 8)) (decide (s.readMem (ctlSpace 0 0x1008) 8 ≠ 0))
      served .dbgunlock (if good = true then 0 else 2) (fun t => t.dev.debugOpen = good)) ∧
    (mailWaits s 7 = true → mailWord s 5 ≠ 0 →
      let off := (mailWord s 4).toNat
      let n := (mailWord s 5).toNat
      let ok : Bool := decide (a ≤ 1 ∧ b ≤ 4 ∧ n ≤ 0xF000 ∧ off + n ≤ 262656) && slotIdle s b a
      served .image (if ok = true then 0 else 2) (fun t => t.ctlImages = s.ctlImages ∧ ∀ i, i < 262656 →
        flashAt t b a i = if ok = true ∧ off ≤ i ∧ i < off + n then s.byte (ctlSpace 0 0x101000 + (i - off)) else flashAt s b a i)) ∧
    (mailWaits s 7 = true → mailWord s 5 = 0 →
      let ok : Bool := decide (a ≤ 1 ∧ b ≤ 4) && imageOk s b a
      served .image (if ok = true then 0 else 2) (fun t => ∀ n, n < 18 → (ctlImage t n).pending =
        if ok = true ∧ kindOf n = b then some a else (ctlImage s n).pending)) ∧
    (mailGo s = true → s.dev.served = true → s.dev.mailNext = none → ∃ t, exec .mailboxGoClear s = .next t ∧ mailGo t = false ∧
      t.dev.served = false ∧ mailWord t 1 = mailWord s 1) ∧
    (∀ v, mailGo s = true → s.dev.served = true → s.dev.mailNext = some v → ∃ t, exec .mailboxGoClear s = .next t ∧
      mailWord t 0 = v ∧ t.dev.served = false ∧ t.dev.mailNext = none) ∧
    (mailGo s = true → s.dev.served = false → s.dev.taken = false → s.dev.mailNext = none → (mailWord s 0).extractLsb' 0 8 = 0#8 ∨ 7 < ((mailWord s 0).extractLsb' 0 8).toNat →
      ∃ t, exec .mailboxGoClear s = .next t ∧ mailGo t = false ∧ mailWord t 1 = 4) ∧
    (s.dev.taken = true → s.dev.served = false → ∀ i ∈ [Instr.partition, .settings, .pagefree, .teardown, .dbgchal, .dbgunlock, .image,
      .mailboxGoClear], exec i s = .next s)

/-- R350, R351, R353, R355, R357 to R366, R369: the TDISP and SPDM requests and the key records wait for a mailbox request that
came before, and are answered as the state of the world and of the part allows, the keys of an IDE stream over a session alone;
a fuse program, an RSA verification, a teardown and a zeroisation end with what they leave; the debug port stops a context of
world 0 in DEBUG. Model choices: log 56, 59, 61, 62, 63, 90, 119, 120. -/
def Obligations.TrustEvents : Prop :=
  ∀ (s : State) (w : Nat), s.power = true → w < 64 →
    let x := s.world w
    let answers (i : Instr) (code : AnswerCode) (p : State → Prop) : Prop :=
      ∃ t, exec i s = .next t ∧ t.mem = s.mem ∧ t.answers = s.answers ++ [{ world := w, code := code, data := [] }] ∧ p t
    (mailGo s = true → ∀ i ∈ [Instr.lockInterfaceRequest w, .tdispRun w, .ideKm w], exec i s = .next s) ∧
    (mailGo s = true → ∀ l, exec (.keyWrap w l) s = .next s ∧ exec (.keyRegistration w l) s = .next s) ∧
    (mailGo s = true → ∀ n ver code, exec (.spdmGetMeasurements w n) s = .next s ∧ exec (.spdmRequest w ver code) s = .next s) ∧
    (mailGo s = false → portOpen s = true → answers (.lockInterfaceRequest w) .invalidDeviceConfiguration (fun t => t.worlds = s.worlds)) ∧
    (mailGo s = false → portOpen s = false → x.tdisp ≠ .unlocked → answers (.lockInterfaceRequest w) .invalidState (fun t => t.worlds = s.worlds)) ∧
    (mailGo s = false → portOpen s = false → x.tdisp = .unlocked → s.dev.tearing = [] → answers (.lockInterfaceRequest w) .ok (fun t =>
      t.world w = { x with tdisp := .locked } ∧ ∀ d, d < 4 → (t.wd w d).stage2 = [] ∧ (t.wd w d).stage2g = [])) ∧
    (mailGo s = false → x.tdisp = .locked → answers (.tdispRun w) .ok (fun t => t.world w = { x with tdisp := .run })) ∧
    (mailGo s = false → x.tdisp ≠ .locked → answers (.tdispRun w) .invalidState (fun t => t.worlds = s.worlds)) ∧
    (s.dev.tearing = [] → ∃ t, exec (.tdispError w) s = .next t ∧ (t.world w).tdisp = .error ∧ t.dev.tearing = [(w, 1)]) ∧
    (mailGo s = false → lcsOf s ≠ 3 → lcsOf s ≠ 4 → x.session = 2 → answers (.ideKm w) .ok (fun t => t.world w = { x with ide := true })) ∧
    (mailGo s = false → lcsOf s = 3 ∨ lcsOf s ≠ 4 ∧ x.session ≠ 2 → answers (.ideKm w) .invalidRequest (fun t => t.worlds = s.worlds)) ∧
    (∀ n, mailGo s = false → lcsOf s ≠ 4 →
      (mayRequest w n = false ∨ measBlock s n = none → answers (.spdmGetMeasurements w n) .invalidRequest (fun t => t.free = s.free)) ∧
      (∀ l, mayRequest w n = true → measBlock s n = some l → ∃ t q, exec (.spdmGetMeasurements w n) s = .next t ∧
        t.answers = s.answers ++ [{ world := w, code := .ok, data := l ++ q }] ∧ t.free = s.free + 1 ∧ t.mem = s.mem)) ∧
    (∀ ver code n, code < 256 → mailGo s = false → lcsOf s ≠ 4 →
      (ver ≠ 0x13 → answers (.spdmRequest w ver (code + 256 * n)) .versionMismatch (fun t => t.worlds = s.worlds)) ∧
      (ver = 0x13 → code ∉ [0x83, 0xE0, 0xE4, 0xE5, 0xEC] → ∃ t, exec (.spdmRequest w ver (code + 256 * n)) s = .next t ∧
        t.mem = s.mem ∧ t.worlds = s.worlds ∧
        t.answers = s.answers ++ [{ world := w, code := (spdmAnswer code n).1, data := (spdmAnswer code n).2 }]) ∧
      (ver = 0x13 → code = 0xE0 → exec (.spdmRequest w ver (code + 256 * n)) s = exec (.spdmGetMeasurements w n) s) ∧
      (ver = 0x13 → code = 0x83 ∨ code = 0xE4 →
        (n < 2 → ∃ t body, exec (.spdmRequest w ver (code + 256 * n)) s = .next t ∧ t.mem = s.mem ∧
          t.answers = s.answers ++ [{ world := w, code := .ok, data := body ++ Config.identitySign body }] ∧
          (t.world w).session = if code = 0xE4 then 1 else x.session) ∧
        (2 ≤ n → answers (.spdmRequest w ver (code + 256 * n)) .invalidRequest (fun t => t.worlds = s.worlds))) ∧
      (ver = 0x13 → ∀ from_ after, (code, from_, after) ∈ [(0xE5, 1, 2), (0xEC, 2, 0)] →
        (x.session = from_ → ∃ t, exec (.spdmRequest w ver (code + 256 * n)) s = .next t ∧ t.mem = s.mem ∧
          t.world w = { x with session := after }) ∧
        (x.session ≠ from_ → answers (.spdmRequest w ver (code + 256 * n)) .invalidRequest (fun t => t.worlds = s.worlds)))) ∧
    (mailGo s = false → lcsOf s = 4 → (∀ ver code n, ∀ i ∈ [Instr.spdmRequest w ver code, .spdmGetMeasurements w n, .ideKm w],
      answers i .unspecified (fun t => t.worlds = s.worlds)) ∧
      ∀ l, answers (.keyWrap w l) .unspecified (fun t => t.worlds = s.worlds) ∧
        answers (.keyRegistration w l) .unspecified (fun t => t.worlds = s.worlds)) ∧
    (∀ l, mailGo s = false → lcsOf s ≠ 4 → ∃ t, exec (.keyWrap w l) s = .next t ∧
      t.answers = s.answers ++ [{ world := w, code := .status (wrapStatus s w l).1, data := [] }] ∧
      (∀ n key, (wrapStatus s w l).2 = some (n, key) → Tbl.get none (t.world w).keys n = some key ∧ t.dev.zclean = false ∧
        (n ≠ 0 ∨ x.lastKey = none ∨ x.lastKey = some key → t.mem = s.mem)) ∧
      ((wrapStatus s w l).2 = none → t.worlds = s.worlds ∧ t.mem = s.mem)) ∧
    (∀ l, mailGo s = false → lcsOf s ≠ 4 → lcsOf s ≠ 2 → answers (.keyWrap w l) (.status 4) (fun t => t.worlds = s.worlds)) ∧
    (∀ l, mailGo s = false → registerStatus s w l = 0 → answers (.keyRegistration w l) (.status 0) (fun t => (t.world w).vkey =
      if fieldAt l 4 1 = 1 then some (fieldAt l 8 4, (l.drop 16).take 512) else none)) ∧
    (∀ l, mailGo s = false → lcsOf s ≠ 4 → registerStatus s w l ≠ 0 → answers (.keyRegistration w l) (.status (registerStatus s w l)) (fun t => t.worlds = s.worlds)) ∧
    (∀ k, s.dev.fbusy = some k →
      (∃ t, exec (.fuseProgramDone true) s = .next t ∧ Tbl.get 0 t.fuses k = 3 ∧ t.dev = { s.dev with fbusy := none } ∧
        ∀ n, n ≠ k → Tbl.get 0 t.fuses n = Tbl.get 0 s.fuses n) ∧
      (∃ t, exec (.fuseProgramDone false) s = .next t ∧ t.dev = { s.dev with fbusy := none, ffail := true } ∧
        Tbl.get 0 t.fuses k ||| Tbl.get 0 s.fuses k = Tbl.get 0 t.fuses k ∧ ∀ n, n ≠ k → Tbl.get 0 t.fuses n = Tbl.get 0 s.fuses n)) ∧
    (∀ k, s.dev.rsaRun = some k → ∃ t, exec .rsaVerifyDone s = .next t ∧ t.dev.rsaRun = none ∧ t.dev.rsaDone = true ∧ t.mem = s.mem ∧
      t.dev.rsaPass = vendorVerify k (sctlBytes s s.dev.rsaMsgA.toNat s.dev.rsaMsgL.toNat)
        (sctlBytes s s.dev.rsaSigA.toNat 512)) ∧
    (∀ r, s.dev.tearing = [(w, r)] → ∃ t, exec (.teardownDone w) s = .next t ∧ t.dev.tearing = [] ∧
      t.hostIrqs = s.hostIrqs ++ [(w, 0x141#9, BitVec.ofNat 64 r)] ∧ (t.world w).keys = [] ∧ (t.world w).vkey = none ∧
      (∀ p ∈ t.owner, p.2 ≠ w + 1) ∧
      (s.owner = [] → (∀ d, d < 4 → (s.wd w d).dmRanges = []) → mailWaits s 4 = true → mailWord s 2 = BitVec.ofNat 64 w →
        mailWord t 1 = 0 ∧ t.dev.served = true) ∧
      ∀ d c o, d < 4 → (s.wd w d).clusters.getLsbD c = true → o < 0x400000 → t.byte (cmKey d c o) = 0) ∧
    (s.dev.zbusy = true → ∃ t, exec .zeroiseDone s = .next t ∧ t.dev.zbusy = false ∧ t.dev.zclean = true ∧
      (∀ p ∈ t.worlds, p.2.keys = []) ∧ t.mem = s.mem) ∧
    (∀ k, lcsOf s = 3 → (s.ctx k).world = 0 → (s.ctx k).run = .live → (s.ctx k).kind = .control →
      ∃ t, exec (.debugStop k) s = .next t ∧ (t.ctx k).run = .stopped ∧ (t.ctx k).trap.cause = 0x1C2#9 ∧
        (t.ctx k).trap.tpc = (s.ctx k).pc ∧ t.mem = s.mem ∧ ∀ j, j ≠ k → t.ctx j = s.ctx j)

/-! ## Encodings, steps, reset, memory -/

/-- R26 to R36: the decoding of the encoding of a well-formed instruction is that instruction, with every operand. Model
choices: log 72. -/
def Obligations.EncodeDecodeRoundTrip : Prop :=
  ∀ (i : Instr) (w : Word32), Canonical i = true → WellFormed i = true → encodeFirst i = some w →
    decode w ((encodeSecond i).getD 0) = .ok i

/-- The worked encodings of spec 02, word by word, and three words that are no instructions (R27, R30, R28). -/
def Obligations.DecodeSampleWords : Prop :=
  decode 0x02624000#32 0 = .ok (.add 3 1 2) ∧ decode 0x14850008#32 0 = .ok (.ld32s 4 2 8) ∧
  decode 0x18207FFD#32 0 = .ok (.bne 1 0 0x3FFD) ∧ decode 0xA8500000#32 0x12345678#32 = .ok (.ldk 5 0x12345678) ∧
  decode 0x40246800#32 0 = .ok (.vadd 1 2 3 2 0 0) ∧ decode 0xC0880012#32 3 = .ok (.vmulImm 4 4 0 0 1 3) ∧
  decode 0x30429804#32 0 = .ok (.amo 4 5 6 0 0 4) ∧ decode 0x32301100#32 0 = .ok (.arrive 3 1 1 0) ∧
  decode 0x2C1FFE00#32 0 = .ok (.waitc 0 15 15 15) ∧ decode 0x60042480#32 0 = .ok (.tmul 0 8 9) ∧
  decode 0x3A000000#32 0 = .error .reservedMajor ∧ decode 0x02625100#32 0 = .error .reservedCode ∧
  decode 0x02624001#32 0 = .error (.mustBeZero (.add 3 1 2))

/-- R26, R46, R144, R292, R298, R310: THE STEP. The agent whose turn is next acts (one clk passes where no turn is listed): a
unit makes its step; for a context the arbiter names the context of the same core that issues, and the step runs the instruction
that its words decode to, with what the fetch left. A pipe that has issued in this clk issues nothing more. A compute context
takes the words it holds ahead in their order, two for a long instruction, and the fetch changes only its own words; a
controller takes the word in its SRAM at PC. Model choices: log 1, 15, 16, 118, 126. -/
def Obligations.StepRunsDecodedInstruction : Prop :=
  (∀ (s s0 s1 s2 : State) (k : Nat) (w imm : Word32) (i : Instr), nextTurn s = (.ctx k, s0) → s0.power = true → s0.resetDue = false →
    arbitrate s0 k = some s1 → s1.cx.run = .live → boundaryOf s1 s1.cur = .issue → supply s1 = .words s2 w imm →
    decode w imm = .ok i → step s = exec i s2) ∧
  (∀ (s s0 : State) (i : Instr), nextTurn s = (.event i, s0) → s0.resetDue = false →
    step s = if (encodeFirst i).isSome = true then .next s0 else exec i s0) ∧
  (∀ (s : State) (u : Turn), (s.turns = [] → nextTurn s = (.ctx s.cur, advance s 1)) ∧
    (s.turns = [u] → nextTurn s = (u.agent, advance { s with turns := [] } u.dt))) ∧
  (∀ (s s1 : State) (k : Nat), arbitrate s k = some s1 → s1.cur / 16 = k / 16 ∧ s1.ctxs = s.ctxs ∧ s1.mem = s.mem ∧ s1.clk = s.clk) ∧
  (∀ (s : State) (k : Nat), (s.ctx k).kind = .controller → arbitrate s k = some { s with cur := k }) ∧
  (∀ (s : State) (k : Nat) (p : Bool), readyPipe s k = some p → pipeUsed s (k / 16) p = true → arbitrate s k = none) ∧
  (∀ (s : State) (w m : Word32) (rest : List Word32), s.cx.isCompute = true → s.cx.fetching = none →
    s.cx.fetched = w :: m :: rest → ∃ s1 l, supply s = .words s1 w (if longForm w = true then m else 0) ∧ OnlyContext s s1 ∧
      s1.cx = { s.cx with fetched := w :: m :: l }) ∧
  (∀ (s : State), s.cx.kind = .controller → s.cx.pc.toNat + 4 ≤ 0x40000 → supply s =
    .words s (BitVec.ofNat 32 (s.readMem (ctlSpace s.cx.core s.cx.pc.toNat) 4)) 0)

/-- R74, R169, R310, R311, R314, R322, R324, R328, R345: after reset CYCLE is 0, the SCTL is live at its boot ROM with no
interrupt enabled, no other context runs, MAP names the cores in their order, the current limit is 3,400, VSTBY alone is up, the
boot is at its first step, memory lists nothing. Model choices: log 5, 6, 67. -/
def Obligations.ResetValues : Prop :=
  let s := State.reset
  s.cycle = 0 ∧ s.clk = 0 ∧ s.cur = ctlKey 0 ∧ s.cx.kind = .controller ∧ s.cx.run = .live ∧ s.cx.pc = 0x200000 ∧ s.cx.cien = 0 ∧
    s.cx.ciret = 0 ∧ s.cx.civec = 0 ∧ (∀ n, n < 18 → n ≠ 0 → (s.ctx (ctlKey n)).run = .free) ∧ (∀ k, k < 65536 → s.ctx k = Ctx.empty) ∧
    (∀ k, (s.cluster k).map0 = 0 ∧ (s.cluster k).map1 = 1 ∧ (s.cluster k).map2 = 2 ∧ (s.cluster k).map3 = 3) ∧
    s.govLim = 3400 ∧ railAt s 0 = .up ∧ (∀ r, 1 ≤ r → railAt s r = .down) ∧ s.bootStep = 1 ∧ s.ready = false ∧ s.mem = [] ∧
    (∀ m, Tbl.get 0 s.meas m = 0)

/-- Memory is in its canonical form at reset (the model's representation). Model choices: log 6, 71. -/
def Obligations.MemoryCanonicalAtReset : Prop := MemoryInv State.reset

/-- Every step keeps memory in its canonical form (the model's representation). Model choices: log 6, 71. -/
def Obligations.MemoryCanonicalKept : Prop := ∀ s t : State, MemoryInv s → step s = .next t → MemoryInv t

/-- Two canonical memories that read alike at every address are equal data (the model's representation). Model choices: log 6,
71. -/
def Obligations.CanonicalMemoriesAreEqual : Prop :=
  ∀ s t : State, MemoryInv s → MemoryInv t → (∀ a, s.byte a = t.byte a) → s.mem = t.mem
end

