-- ==== Sys2Proof/Laws/State.lean ====
section
/-!
SUPPORT. What each update of State leaves unchanged: one lemma per field per update, all true by definition.
-/
namespace Sys2Proof.Machine


/-! ## setCtx -/

@[simp] theorem State.setCtx_turns (s : State) (k : Nat) (c : Ctx) : (s.setCtx k c).turns = s.turns := rfl
@[simp] theorem State.setCtx_cur (s : State) (k : Nat) (c : Ctx) : (s.setCtx k c).cur = s.cur := rfl
@[simp] theorem State.setCtx_free (s : State) (k : Nat) (c : Ctx) : (s.setCtx k c).free = s.free := rfl
@[simp] theorem State.setCtx_nextId (s : State) (k : Nat) (c : Ctx) : (s.setCtx k c).nextId = s.nextId := rfl
@[simp] theorem State.setCtx_clk (s : State) (k : Nat) (c : Ctx) : (s.setCtx k c).clk = s.clk := rfl
@[simp] theorem State.setCtx_cycle (s : State) (k : Nat) (c : Ctx) : (s.setCtx k c).cycle = s.cycle := rfl
@[simp] theorem State.setCtx_slewHold (s : State) (k : Nat) (c : Ctx) : (s.setCtx k c).slewHold = s.slewHold := rfl
@[simp] theorem State.setCtx_slewAt (s : State) (k : Nat) (c : Ctx) : (s.setCtx k c).slewAt = s.slewAt := rfl
@[simp] theorem State.setCtx_power (s : State) (k : Nat) (c : Ctx) : (s.setCtx k c).power = s.power := rfl
@[simp] theorem State.setCtx_cores (s : State) (k : Nat) (c : Ctx) : (s.setCtx k c).cores = s.cores := rfl
@[simp] theorem State.setCtx_clusters (s : State) (k : Nat) (c : Ctx) : (s.setCtx k c).clusters = s.clusters := rfl
@[simp] theorem State.setCtx_groups (s : State) (k : Nat) (c : Ctx) : (s.setCtx k c).groups = s.groups := rfl
@[simp] theorem State.setCtx_dies (s : State) (k : Nat) (c : Ctx) : (s.setCtx k c).dies = s.dies := rfl
@[simp] theorem State.setCtx_worlds (s : State) (k : Nat) (c : Ctx) : (s.setCtx k c).worlds = s.worlds := rfl
@[simp] theorem State.setCtx_wds (s : State) (k : Nat) (c : Ctx) : (s.setCtx k c).wds = s.wds := rfl
@[simp] theorem State.setCtx_mem (s : State) (k : Nat) (c : Ctx) : (s.setCtx k c).mem = s.mem := rfl
@[simp] theorem State.setCtx_merges (s : State) (k : Nat) (c : Ctx) : (s.setCtx k c).merges = s.merges := rfl
@[simp] theorem State.setCtx_ues (s : State) (k : Nat) (c : Ctx) : (s.setCtx k c).ues = s.ues := rfl
@[simp] theorem State.setCtx_flips (s : State) (k : Nat) (c : Ctx) : (s.setCtx k c).flips = s.flips := rfl
@[simp] theorem State.setCtx_ops (s : State) (k : Nat) (c : Ctx) : (s.setCtx k c).ops = s.ops := rfl
@[simp] theorem State.setCtx_reqs (s : State) (k : Nat) (c : Ctx) : (s.setCtx k c).reqs = s.reqs := rfl
@[simp] theorem State.setCtx_logs (s : State) (k : Nat) (c : Ctx) : (s.setCtx k c).logs = s.logs := rfl
@[simp] theorem State.setCtx_elsel (s : State) (k : Nat) (c : Ctx) : (s.setCtx k c).elsel = s.elsel := rfl
@[simp] theorem State.setCtx_elpos (s : State) (k : Nat) (c : Ctx) : (s.setCtx k c).elpos = s.elpos := rfl
@[simp] theorem State.setCtx_strikes (s : State) (k : Nat) (c : Ctx) : (s.setCtx k c).strikes = s.strikes := rfl
@[simp] theorem State.setCtx_outOfService (s : State) (k : Nat) (c : Ctx) : (s.setCtx k c).outOfService = s.outOfService := rfl
@[simp] theorem State.setCtx_effects (s : State) (k : Nat) (c : Ctx) : (s.setCtx k c).effects = s.effects := rfl
@[simp] theorem State.setCtx_revoked (s : State) (k : Nat) (c : Ctx) : (s.setCtx k c).revoked = s.revoked := rfl
@[simp] theorem State.setCtx_hostIrqs (s : State) (k : Nat) (c : Ctx) : (s.setCtx k c).hostIrqs = s.hostIrqs := rfl
@[simp] theorem State.setCtx_pkg (s : State) (k : Nat) (c : Ctx) : (s.setCtx k c).pkg = s.pkg := rfl
@[simp] theorem State.setCtx_jobs (s : State) (k : Nat) (c : Ctx) : (s.setCtx k c).jobs = s.jobs := rfl
@[simp] theorem State.setCtx_slices (s : State) (k : Nat) (c : Ctx) : (s.setCtx k c).slices = s.slices := rfl
@[simp] theorem State.setCtx_images (s : State) (k : Nat) (c : Ctx) : (s.setCtx k c).images = s.images := rfl
@[simp] theorem State.setCtx_nextHandle (s : State) (k : Nat) (c : Ctx) : (s.setCtx k c).nextHandle = s.nextHandle := rfl
@[simp] theorem State.setCtx_admits (s : State) (k : Nat) (c : Ctx) : (s.setCtx k c).admits = s.admits := rfl
@[simp] theorem State.setCtx_scWindow (s : State) (k : Nat) (c : Ctx) : (s.setCtx k c).scWindow = s.scWindow := rfl
@[simp] theorem State.setCtx_msgs (s : State) (k : Nat) (c : Ctx) : (s.setCtx k c).msgs = s.msgs := rfl
@[simp] theorem State.setCtx_views (s : State) (k : Nat) (c : Ctx) : (s.setCtx k c).views = s.views := rfl
@[simp] theorem State.setCtx_scheds (s : State) (k : Nat) (c : Ctx) : (s.setCtx k c).scheds = s.scheds := rfl
@[simp] theorem State.setCtx_rails (s : State) (k : Nat) (c : Ctx) : (s.setCtx k c).rails = s.rails := rfl
@[simp] theorem State.setCtx_govLim (s : State) (k : Nat) (c : Ctx) : (s.setCtx k c).govLim = s.govLim := rfl
@[simp] theorem State.setCtx_govCnt (s : State) (k : Nat) (c : Ctx) : (s.setCtx k c).govCnt = s.govCnt := rfl
@[simp] theorem State.setCtx_throttled (s : State) (k : Nat) (c : Ctx) : (s.setCtx k c).throttled = s.throttled := rfl
@[simp] theorem State.setCtx_ctlImages (s : State) (k : Nat) (c : Ctx) : (s.setCtx k c).ctlImages = s.ctlImages := rfl
@[simp] theorem State.setCtx_flash (s : State) (k : Nat) (c : Ctx) : (s.setCtx k c).flash = s.flash := rfl
@[simp] theorem State.setCtx_bootStep (s : State) (k : Nat) (c : Ctx) : (s.setCtx k c).bootStep = s.bootStep := rfl
@[simp] theorem State.setCtx_ready (s : State) (k : Nat) (c : Ctx) : (s.setCtx k c).ready = s.ready := rfl
@[simp] theorem State.setCtx_owner (s : State) (k : Nat) (c : Ctx) : (s.setCtx k c).owner = s.owner := rfl
@[simp] theorem State.setCtx_fuses (s : State) (k : Nat) (c : Ctx) : (s.setCtx k c).fuses = s.fuses := rfl
@[simp] theorem State.setCtx_meas (s : State) (k : Nat) (c : Ctx) : (s.setCtx k c).meas = s.meas := rfl
@[simp] theorem State.setCtx_dev (s : State) (k : Nat) (c : Ctx) : (s.setCtx k c).dev = s.dev := rfl
@[simp] theorem State.setCtx_answers (s : State) (k : Nat) (c : Ctx) : (s.setCtx k c).answers = s.answers := rfl
@[simp] theorem State.setCtx_resetDue (s : State) (k : Nat) (c : Ctx) : (s.setCtx k c).resetDue = s.resetDue := rfl

/-! ## modCtx -/

@[simp] theorem State.modCtx_turns (s : State) (k : Nat) (f : Ctx → Ctx) : (s.modCtx k f).turns = s.turns := rfl
@[simp] theorem State.modCtx_cur (s : State) (k : Nat) (f : Ctx → Ctx) : (s.modCtx k f).cur = s.cur := rfl
@[simp] theorem State.modCtx_free (s : State) (k : Nat) (f : Ctx → Ctx) : (s.modCtx k f).free = s.free := rfl
@[simp] theorem State.modCtx_nextId (s : State) (k : Nat) (f : Ctx → Ctx) : (s.modCtx k f).nextId = s.nextId := rfl
@[simp] theorem State.modCtx_clk (s : State) (k : Nat) (f : Ctx → Ctx) : (s.modCtx k f).clk = s.clk := rfl
@[simp] theorem State.modCtx_cycle (s : State) (k : Nat) (f : Ctx → Ctx) : (s.modCtx k f).cycle = s.cycle := rfl
@[simp] theorem State.modCtx_slewHold (s : State) (k : Nat) (f : Ctx → Ctx) : (s.modCtx k f).slewHold = s.slewHold := rfl
@[simp] theorem State.modCtx_slewAt (s : State) (k : Nat) (f : Ctx → Ctx) : (s.modCtx k f).slewAt = s.slewAt := rfl
@[simp] theorem State.modCtx_power (s : State) (k : Nat) (f : Ctx → Ctx) : (s.modCtx k f).power = s.power := rfl
@[simp] theorem State.modCtx_cores (s : State) (k : Nat) (f : Ctx → Ctx) : (s.modCtx k f).cores = s.cores := rfl
@[simp] theorem State.modCtx_clusters (s : State) (k : Nat) (f : Ctx → Ctx) : (s.modCtx k f).clusters = s.clusters := rfl
@[simp] theorem State.modCtx_groups (s : State) (k : Nat) (f : Ctx → Ctx) : (s.modCtx k f).groups = s.groups := rfl
@[simp] theorem State.modCtx_dies (s : State) (k : Nat) (f : Ctx → Ctx) : (s.modCtx k f).dies = s.dies := rfl
@[simp] theorem State.modCtx_worlds (s : State) (k : Nat) (f : Ctx → Ctx) : (s.modCtx k f).worlds = s.worlds := rfl
@[simp] theorem State.modCtx_wds (s : State) (k : Nat) (f : Ctx → Ctx) : (s.modCtx k f).wds = s.wds := rfl
@[simp] theorem State.modCtx_mem (s : State) (k : Nat) (f : Ctx → Ctx) : (s.modCtx k f).mem = s.mem := rfl
@[simp] theorem State.modCtx_merges (s : State) (k : Nat) (f : Ctx → Ctx) : (s.modCtx k f).merges = s.merges := rfl
@[simp] theorem State.modCtx_ues (s : State) (k : Nat) (f : Ctx → Ctx) : (s.modCtx k f).ues = s.ues := rfl
@[simp] theorem State.modCtx_flips (s : State) (k : Nat) (f : Ctx → Ctx) : (s.modCtx k f).flips = s.flips := rfl
@[simp] theorem State.modCtx_ops (s : State) (k : Nat) (f : Ctx → Ctx) : (s.modCtx k f).ops = s.ops := rfl
@[simp] theorem State.modCtx_reqs (s : State) (k : Nat) (f : Ctx → Ctx) : (s.modCtx k f).reqs = s.reqs := rfl
@[simp] theorem State.modCtx_logs (s : State) (k : Nat) (f : Ctx → Ctx) : (s.modCtx k f).logs = s.logs := rfl
@[simp] theorem State.modCtx_elsel (s : State) (k : Nat) (f : Ctx → Ctx) : (s.modCtx k f).elsel = s.elsel := rfl
@[simp] theorem State.modCtx_elpos (s : State) (k : Nat) (f : Ctx → Ctx) : (s.modCtx k f).elpos = s.elpos := rfl
@[simp] theorem State.modCtx_strikes (s : State) (k : Nat) (f : Ctx → Ctx) : (s.modCtx k f).strikes = s.strikes := rfl
@[simp] theorem State.modCtx_outOfService (s : State) (k : Nat) (f : Ctx → Ctx) : (s.modCtx k f).outOfService = s.outOfService := rfl
@[simp] theorem State.modCtx_effects (s : State) (k : Nat) (f : Ctx → Ctx) : (s.modCtx k f).effects = s.effects := rfl
@[simp] theorem State.modCtx_revoked (s : State) (k : Nat) (f : Ctx → Ctx) : (s.modCtx k f).revoked = s.revoked := rfl
@[simp] theorem State.modCtx_hostIrqs (s : State) (k : Nat) (f : Ctx → Ctx) : (s.modCtx k f).hostIrqs = s.hostIrqs := rfl
@[simp] theorem State.modCtx_pkg (s : State) (k : Nat) (f : Ctx → Ctx) : (s.modCtx k f).pkg = s.pkg := rfl
@[simp] theorem State.modCtx_jobs (s : State) (k : Nat) (f : Ctx → Ctx) : (s.modCtx k f).jobs = s.jobs := rfl
@[simp] theorem State.modCtx_slices (s : State) (k : Nat) (f : Ctx → Ctx) : (s.modCtx k f).slices = s.slices := rfl
@[simp] theorem State.modCtx_images (s : State) (k : Nat) (f : Ctx → Ctx) : (s.modCtx k f).images = s.images := rfl
@[simp] theorem State.modCtx_nextHandle (s : State) (k : Nat) (f : Ctx → Ctx) : (s.modCtx k f).nextHandle = s.nextHandle := rfl
@[simp] theorem State.modCtx_admits (s : State) (k : Nat) (f : Ctx → Ctx) : (s.modCtx k f).admits = s.admits := rfl
@[simp] theorem State.modCtx_scWindow (s : State) (k : Nat) (f : Ctx → Ctx) : (s.modCtx k f).scWindow = s.scWindow := rfl
@[simp] theorem State.modCtx_msgs (s : State) (k : Nat) (f : Ctx → Ctx) : (s.modCtx k f).msgs = s.msgs := rfl
@[simp] theorem State.modCtx_views (s : State) (k : Nat) (f : Ctx → Ctx) : (s.modCtx k f).views = s.views := rfl
@[simp] theorem State.modCtx_scheds (s : State) (k : Nat) (f : Ctx → Ctx) : (s.modCtx k f).scheds = s.scheds := rfl
@[simp] theorem State.modCtx_rails (s : State) (k : Nat) (f : Ctx → Ctx) : (s.modCtx k f).rails = s.rails := rfl
@[simp] theorem State.modCtx_govLim (s : State) (k : Nat) (f : Ctx → Ctx) : (s.modCtx k f).govLim = s.govLim := rfl
@[simp] theorem State.modCtx_govCnt (s : State) (k : Nat) (f : Ctx → Ctx) : (s.modCtx k f).govCnt = s.govCnt := rfl
@[simp] theorem State.modCtx_throttled (s : State) (k : Nat) (f : Ctx → Ctx) : (s.modCtx k f).throttled = s.throttled := rfl
@[simp] theorem State.modCtx_ctlImages (s : State) (k : Nat) (f : Ctx → Ctx) : (s.modCtx k f).ctlImages = s.ctlImages := rfl
@[simp] theorem State.modCtx_flash (s : State) (k : Nat) (f : Ctx → Ctx) : (s.modCtx k f).flash = s.flash := rfl
@[simp] theorem State.modCtx_bootStep (s : State) (k : Nat) (f : Ctx → Ctx) : (s.modCtx k f).bootStep = s.bootStep := rfl
@[simp] theorem State.modCtx_ready (s : State) (k : Nat) (f : Ctx → Ctx) : (s.modCtx k f).ready = s.ready := rfl
@[simp] theorem State.modCtx_owner (s : State) (k : Nat) (f : Ctx → Ctx) : (s.modCtx k f).owner = s.owner := rfl
@[simp] theorem State.modCtx_fuses (s : State) (k : Nat) (f : Ctx → Ctx) : (s.modCtx k f).fuses = s.fuses := rfl
@[simp] theorem State.modCtx_meas (s : State) (k : Nat) (f : Ctx → Ctx) : (s.modCtx k f).meas = s.meas := rfl
@[simp] theorem State.modCtx_dev (s : State) (k : Nat) (f : Ctx → Ctx) : (s.modCtx k f).dev = s.dev := rfl
@[simp] theorem State.modCtx_answers (s : State) (k : Nat) (f : Ctx → Ctx) : (s.modCtx k f).answers = s.answers := rfl
@[simp] theorem State.modCtx_resetDue (s : State) (k : Nat) (f : Ctx → Ctx) : (s.modCtx k f).resetDue = s.resetDue := rfl

/-! ## modCx -/

@[simp] theorem State.modCx_turns (s : State) (f : Ctx → Ctx) : (s.modCx f).turns = s.turns := rfl
@[simp] theorem State.modCx_cur (s : State) (f : Ctx → Ctx) : (s.modCx f).cur = s.cur := rfl
@[simp] theorem State.modCx_free (s : State) (f : Ctx → Ctx) : (s.modCx f).free = s.free := rfl
@[simp] theorem State.modCx_nextId (s : State) (f : Ctx → Ctx) : (s.modCx f).nextId = s.nextId := rfl
@[simp] theorem State.modCx_clk (s : State) (f : Ctx → Ctx) : (s.modCx f).clk = s.clk := rfl
@[simp] theorem State.modCx_cycle (s : State) (f : Ctx → Ctx) : (s.modCx f).cycle = s.cycle := rfl
@[simp] theorem State.modCx_slewHold (s : State) (f : Ctx → Ctx) : (s.modCx f).slewHold = s.slewHold := rfl
@[simp] theorem State.modCx_slewAt (s : State) (f : Ctx → Ctx) : (s.modCx f).slewAt = s.slewAt := rfl
@[simp] theorem State.modCx_power (s : State) (f : Ctx → Ctx) : (s.modCx f).power = s.power := rfl
@[simp] theorem State.modCx_cores (s : State) (f : Ctx → Ctx) : (s.modCx f).cores = s.cores := rfl
@[simp] theorem State.modCx_clusters (s : State) (f : Ctx → Ctx) : (s.modCx f).clusters = s.clusters := rfl
@[simp] theorem State.modCx_groups (s : State) (f : Ctx → Ctx) : (s.modCx f).groups = s.groups := rfl
@[simp] theorem State.modCx_dies (s : State) (f : Ctx → Ctx) : (s.modCx f).dies = s.dies := rfl
@[simp] theorem State.modCx_worlds (s : State) (f : Ctx → Ctx) : (s.modCx f).worlds = s.worlds := rfl
@[simp] theorem State.modCx_wds (s : State) (f : Ctx → Ctx) : (s.modCx f).wds = s.wds := rfl
@[simp] theorem State.modCx_mem (s : State) (f : Ctx → Ctx) : (s.modCx f).mem = s.mem := rfl
@[simp] theorem State.modCx_merges (s : State) (f : Ctx → Ctx) : (s.modCx f).merges = s.merges := rfl
@[simp] theorem State.modCx_ues (s : State) (f : Ctx → Ctx) : (s.modCx f).ues = s.ues := rfl
@[simp] theorem State.modCx_flips (s : State) (f : Ctx → Ctx) : (s.modCx f).flips = s.flips := rfl
@[simp] theorem State.modCx_ops (s : State) (f : Ctx → Ctx) : (s.modCx f).ops = s.ops := rfl
@[simp] theorem State.modCx_reqs (s : State) (f : Ctx → Ctx) : (s.modCx f).reqs = s.reqs := rfl
@[simp] theorem State.modCx_logs (s : State) (f : Ctx → Ctx) : (s.modCx f).logs = s.logs := rfl
@[simp] theorem State.modCx_elsel (s : State) (f : Ctx → Ctx) : (s.modCx f).elsel = s.elsel := rfl
@[simp] theorem State.modCx_elpos (s : State) (f : Ctx → Ctx) : (s.modCx f).elpos = s.elpos := rfl
@[simp] theorem State.modCx_strikes (s : State) (f : Ctx → Ctx) : (s.modCx f).strikes = s.strikes := rfl
@[simp] theorem State.modCx_outOfService (s : State) (f : Ctx → Ctx) : (s.modCx f).outOfService = s.outOfService := rfl
@[simp] theorem State.modCx_effects (s : State) (f : Ctx → Ctx) : (s.modCx f).effects = s.effects := rfl
@[simp] theorem State.modCx_revoked (s : State) (f : Ctx → Ctx) : (s.modCx f).revoked = s.revoked := rfl
@[simp] theorem State.modCx_hostIrqs (s : State) (f : Ctx → Ctx) : (s.modCx f).hostIrqs = s.hostIrqs := rfl
@[simp] theorem State.modCx_pkg (s : State) (f : Ctx → Ctx) : (s.modCx f).pkg = s.pkg := rfl
@[simp] theorem State.modCx_jobs (s : State) (f : Ctx → Ctx) : (s.modCx f).jobs = s.jobs := rfl
@[simp] theorem State.modCx_slices (s : State) (f : Ctx → Ctx) : (s.modCx f).slices = s.slices := rfl
@[simp] theorem State.modCx_images (s : State) (f : Ctx → Ctx) : (s.modCx f).images = s.images := rfl
@[simp] theorem State.modCx_nextHandle (s : State) (f : Ctx → Ctx) : (s.modCx f).nextHandle = s.nextHandle := rfl
@[simp] theorem State.modCx_admits (s : State) (f : Ctx → Ctx) : (s.modCx f).admits = s.admits := rfl
@[simp] theorem State.modCx_scWindow (s : State) (f : Ctx → Ctx) : (s.modCx f).scWindow = s.scWindow := rfl
@[simp] theorem State.modCx_msgs (s : State) (f : Ctx → Ctx) : (s.modCx f).msgs = s.msgs := rfl
@[simp] theorem State.modCx_views (s : State) (f : Ctx → Ctx) : (s.modCx f).views = s.views := rfl
@[simp] theorem State.modCx_scheds (s : State) (f : Ctx → Ctx) : (s.modCx f).scheds = s.scheds := rfl
@[simp] theorem State.modCx_rails (s : State) (f : Ctx → Ctx) : (s.modCx f).rails = s.rails := rfl
@[simp] theorem State.modCx_govLim (s : State) (f : Ctx → Ctx) : (s.modCx f).govLim = s.govLim := rfl
@[simp] theorem State.modCx_govCnt (s : State) (f : Ctx → Ctx) : (s.modCx f).govCnt = s.govCnt := rfl
@[simp] theorem State.modCx_throttled (s : State) (f : Ctx → Ctx) : (s.modCx f).throttled = s.throttled := rfl
@[simp] theorem State.modCx_ctlImages (s : State) (f : Ctx → Ctx) : (s.modCx f).ctlImages = s.ctlImages := rfl
@[simp] theorem State.modCx_flash (s : State) (f : Ctx → Ctx) : (s.modCx f).flash = s.flash := rfl
@[simp] theorem State.modCx_bootStep (s : State) (f : Ctx → Ctx) : (s.modCx f).bootStep = s.bootStep := rfl
@[simp] theorem State.modCx_ready (s : State) (f : Ctx → Ctx) : (s.modCx f).ready = s.ready := rfl
@[simp] theorem State.modCx_owner (s : State) (f : Ctx → Ctx) : (s.modCx f).owner = s.owner := rfl
@[simp] theorem State.modCx_fuses (s : State) (f : Ctx → Ctx) : (s.modCx f).fuses = s.fuses := rfl
@[simp] theorem State.modCx_meas (s : State) (f : Ctx → Ctx) : (s.modCx f).meas = s.meas := rfl
@[simp] theorem State.modCx_dev (s : State) (f : Ctx → Ctx) : (s.modCx f).dev = s.dev := rfl
@[simp] theorem State.modCx_answers (s : State) (f : Ctx → Ctx) : (s.modCx f).answers = s.answers := rfl
@[simp] theorem State.modCx_resetDue (s : State) (f : Ctx → Ctx) : (s.modCx f).resetDue = s.resetDue := rfl

/-! ## wS -/

@[simp] theorem State.wS_turns (s : State) (r : SReg) (v : Word) : (s.wS r v).turns = s.turns := rfl
@[simp] theorem State.wS_cur (s : State) (r : SReg) (v : Word) : (s.wS r v).cur = s.cur := rfl
@[simp] theorem State.wS_free (s : State) (r : SReg) (v : Word) : (s.wS r v).free = s.free := rfl
@[simp] theorem State.wS_nextId (s : State) (r : SReg) (v : Word) : (s.wS r v).nextId = s.nextId := rfl
@[simp] theorem State.wS_clk (s : State) (r : SReg) (v : Word) : (s.wS r v).clk = s.clk := rfl
@[simp] theorem State.wS_cycle (s : State) (r : SReg) (v : Word) : (s.wS r v).cycle = s.cycle := rfl
@[simp] theorem State.wS_slewHold (s : State) (r : SReg) (v : Word) : (s.wS r v).slewHold = s.slewHold := rfl
@[simp] theorem State.wS_slewAt (s : State) (r : SReg) (v : Word) : (s.wS r v).slewAt = s.slewAt := rfl
@[simp] theorem State.wS_power (s : State) (r : SReg) (v : Word) : (s.wS r v).power = s.power := rfl
@[simp] theorem State.wS_cores (s : State) (r : SReg) (v : Word) : (s.wS r v).cores = s.cores := rfl
@[simp] theorem State.wS_clusters (s : State) (r : SReg) (v : Word) : (s.wS r v).clusters = s.clusters := rfl
@[simp] theorem State.wS_groups (s : State) (r : SReg) (v : Word) : (s.wS r v).groups = s.groups := rfl
@[simp] theorem State.wS_dies (s : State) (r : SReg) (v : Word) : (s.wS r v).dies = s.dies := rfl
@[simp] theorem State.wS_worlds (s : State) (r : SReg) (v : Word) : (s.wS r v).worlds = s.worlds := rfl
@[simp] theorem State.wS_wds (s : State) (r : SReg) (v : Word) : (s.wS r v).wds = s.wds := rfl
@[simp] theorem State.wS_mem (s : State) (r : SReg) (v : Word) : (s.wS r v).mem = s.mem := rfl
@[simp] theorem State.wS_merges (s : State) (r : SReg) (v : Word) : (s.wS r v).merges = s.merges := rfl
@[simp] theorem State.wS_ues (s : State) (r : SReg) (v : Word) : (s.wS r v).ues = s.ues := rfl
@[simp] theorem State.wS_flips (s : State) (r : SReg) (v : Word) : (s.wS r v).flips = s.flips := rfl
@[simp] theorem State.wS_ops (s : State) (r : SReg) (v : Word) : (s.wS r v).ops = s.ops := rfl
@[simp] theorem State.wS_reqs (s : State) (r : SReg) (v : Word) : (s.wS r v).reqs = s.reqs := rfl
@[simp] theorem State.wS_logs (s : State) (r : SReg) (v : Word) : (s.wS r v).logs = s.logs := rfl
@[simp] theorem State.wS_elsel (s : State) (r : SReg) (v : Word) : (s.wS r v).elsel = s.elsel := rfl
@[simp] theorem State.wS_elpos (s : State) (r : SReg) (v : Word) : (s.wS r v).elpos = s.elpos := rfl
@[simp] theorem State.wS_strikes (s : State) (r : SReg) (v : Word) : (s.wS r v).strikes = s.strikes := rfl
@[simp] theorem State.wS_outOfService (s : State) (r : SReg) (v : Word) : (s.wS r v).outOfService = s.outOfService := rfl
@[simp] theorem State.wS_effects (s : State) (r : SReg) (v : Word) : (s.wS r v).effects = s.effects := rfl
@[simp] theorem State.wS_revoked (s : State) (r : SReg) (v : Word) : (s.wS r v).revoked = s.revoked := rfl
@[simp] theorem State.wS_hostIrqs (s : State) (r : SReg) (v : Word) : (s.wS r v).hostIrqs = s.hostIrqs := rfl
@[simp] theorem State.wS_pkg (s : State) (r : SReg) (v : Word) : (s.wS r v).pkg = s.pkg := rfl
@[simp] theorem State.wS_jobs (s : State) (r : SReg) (v : Word) : (s.wS r v).jobs = s.jobs := rfl
@[simp] theorem State.wS_slices (s : State) (r : SReg) (v : Word) : (s.wS r v).slices = s.slices := rfl
@[simp] theorem State.wS_images (s : State) (r : SReg) (v : Word) : (s.wS r v).images = s.images := rfl
@[simp] theorem State.wS_nextHandle (s : State) (r : SReg) (v : Word) : (s.wS r v).nextHandle = s.nextHandle := rfl
@[simp] theorem State.wS_admits (s : State) (r : SReg) (v : Word) : (s.wS r v).admits = s.admits := rfl
@[simp] theorem State.wS_scWindow (s : State) (r : SReg) (v : Word) : (s.wS r v).scWindow = s.scWindow := rfl
@[simp] theorem State.wS_msgs (s : State) (r : SReg) (v : Word) : (s.wS r v).msgs = s.msgs := rfl
@[simp] theorem State.wS_views (s : State) (r : SReg) (v : Word) : (s.wS r v).views = s.views := rfl
@[simp] theorem State.wS_scheds (s : State) (r : SReg) (v : Word) : (s.wS r v).scheds = s.scheds := rfl
@[simp] theorem State.wS_rails (s : State) (r : SReg) (v : Word) : (s.wS r v).rails = s.rails := rfl
@[simp] theorem State.wS_govLim (s : State) (r : SReg) (v : Word) : (s.wS r v).govLim = s.govLim := rfl
@[simp] theorem State.wS_govCnt (s : State) (r : SReg) (v : Word) : (s.wS r v).govCnt = s.govCnt := rfl
@[simp] theorem State.wS_throttled (s : State) (r : SReg) (v : Word) : (s.wS r v).throttled = s.throttled := rfl
@[simp] theorem State.wS_ctlImages (s : State) (r : SReg) (v : Word) : (s.wS r v).ctlImages = s.ctlImages := rfl
@[simp] theorem State.wS_flash (s : State) (r : SReg) (v : Word) : (s.wS r v).flash = s.flash := rfl
@[simp] theorem State.wS_bootStep (s : State) (r : SReg) (v : Word) : (s.wS r v).bootStep = s.bootStep := rfl
@[simp] theorem State.wS_ready (s : State) (r : SReg) (v : Word) : (s.wS r v).ready = s.ready := rfl
@[simp] theorem State.wS_owner (s : State) (r : SReg) (v : Word) : (s.wS r v).owner = s.owner := rfl
@[simp] theorem State.wS_fuses (s : State) (r : SReg) (v : Word) : (s.wS r v).fuses = s.fuses := rfl
@[simp] theorem State.wS_meas (s : State) (r : SReg) (v : Word) : (s.wS r v).meas = s.meas := rfl
@[simp] theorem State.wS_dev (s : State) (r : SReg) (v : Word) : (s.wS r v).dev = s.dev := rfl
@[simp] theorem State.wS_answers (s : State) (r : SReg) (v : Word) : (s.wS r v).answers = s.answers := rfl
@[simp] theorem State.wS_resetDue (s : State) (r : SReg) (v : Word) : (s.wS r v).resetDue = s.resetDue := rfl

/-! ## wG -/

@[simp] theorem State.wG_turns (s : State) (g : GReg) (v : Word) : (s.wG g v).turns = s.turns := rfl
@[simp] theorem State.wG_cur (s : State) (g : GReg) (v : Word) : (s.wG g v).cur = s.cur := rfl
@[simp] theorem State.wG_free (s : State) (g : GReg) (v : Word) : (s.wG g v).free = s.free := rfl
@[simp] theorem State.wG_nextId (s : State) (g : GReg) (v : Word) : (s.wG g v).nextId = s.nextId := rfl
@[simp] theorem State.wG_clk (s : State) (g : GReg) (v : Word) : (s.wG g v).clk = s.clk := rfl
@[simp] theorem State.wG_cycle (s : State) (g : GReg) (v : Word) : (s.wG g v).cycle = s.cycle := rfl
@[simp] theorem State.wG_slewHold (s : State) (g : GReg) (v : Word) : (s.wG g v).slewHold = s.slewHold := rfl
@[simp] theorem State.wG_slewAt (s : State) (g : GReg) (v : Word) : (s.wG g v).slewAt = s.slewAt := rfl
@[simp] theorem State.wG_power (s : State) (g : GReg) (v : Word) : (s.wG g v).power = s.power := rfl
@[simp] theorem State.wG_cores (s : State) (g : GReg) (v : Word) : (s.wG g v).cores = s.cores := rfl
@[simp] theorem State.wG_clusters (s : State) (g : GReg) (v : Word) : (s.wG g v).clusters = s.clusters := rfl
@[simp] theorem State.wG_groups (s : State) (g : GReg) (v : Word) : (s.wG g v).groups = s.groups := rfl
@[simp] theorem State.wG_dies (s : State) (g : GReg) (v : Word) : (s.wG g v).dies = s.dies := rfl
@[simp] theorem State.wG_worlds (s : State) (g : GReg) (v : Word) : (s.wG g v).worlds = s.worlds := rfl
@[simp] theorem State.wG_wds (s : State) (g : GReg) (v : Word) : (s.wG g v).wds = s.wds := rfl
@[simp] theorem State.wG_mem (s : State) (g : GReg) (v : Word) : (s.wG g v).mem = s.mem := rfl
@[simp] theorem State.wG_merges (s : State) (g : GReg) (v : Word) : (s.wG g v).merges = s.merges := rfl
@[simp] theorem State.wG_ues (s : State) (g : GReg) (v : Word) : (s.wG g v).ues = s.ues := rfl
@[simp] theorem State.wG_flips (s : State) (g : GReg) (v : Word) : (s.wG g v).flips = s.flips := rfl
@[simp] theorem State.wG_ops (s : State) (g : GReg) (v : Word) : (s.wG g v).ops = s.ops := rfl
@[simp] theorem State.wG_reqs (s : State) (g : GReg) (v : Word) : (s.wG g v).reqs = s.reqs := rfl
@[simp] theorem State.wG_logs (s : State) (g : GReg) (v : Word) : (s.wG g v).logs = s.logs := rfl
@[simp] theorem State.wG_elsel (s : State) (g : GReg) (v : Word) : (s.wG g v).elsel = s.elsel := rfl
@[simp] theorem State.wG_elpos (s : State) (g : GReg) (v : Word) : (s.wG g v).elpos = s.elpos := rfl
@[simp] theorem State.wG_strikes (s : State) (g : GReg) (v : Word) : (s.wG g v).strikes = s.strikes := rfl
@[simp] theorem State.wG_outOfService (s : State) (g : GReg) (v : Word) : (s.wG g v).outOfService = s.outOfService := rfl
@[simp] theorem State.wG_effects (s : State) (g : GReg) (v : Word) : (s.wG g v).effects = s.effects := rfl
@[simp] theorem State.wG_revoked (s : State) (g : GReg) (v : Word) : (s.wG g v).revoked = s.revoked := rfl
@[simp] theorem State.wG_hostIrqs (s : State) (g : GReg) (v : Word) : (s.wG g v).hostIrqs = s.hostIrqs := rfl
@[simp] theorem State.wG_pkg (s : State) (g : GReg) (v : Word) : (s.wG g v).pkg = s.pkg := rfl
@[simp] theorem State.wG_jobs (s : State) (g : GReg) (v : Word) : (s.wG g v).jobs = s.jobs := rfl
@[simp] theorem State.wG_slices (s : State) (g : GReg) (v : Word) : (s.wG g v).slices = s.slices := rfl
@[simp] theorem State.wG_images (s : State) (g : GReg) (v : Word) : (s.wG g v).images = s.images := rfl
@[simp] theorem State.wG_nextHandle (s : State) (g : GReg) (v : Word) : (s.wG g v).nextHandle = s.nextHandle := rfl
@[simp] theorem State.wG_admits (s : State) (g : GReg) (v : Word) : (s.wG g v).admits = s.admits := rfl
@[simp] theorem State.wG_scWindow (s : State) (g : GReg) (v : Word) : (s.wG g v).scWindow = s.scWindow := rfl
@[simp] theorem State.wG_msgs (s : State) (g : GReg) (v : Word) : (s.wG g v).msgs = s.msgs := rfl
@[simp] theorem State.wG_views (s : State) (g : GReg) (v : Word) : (s.wG g v).views = s.views := rfl
@[simp] theorem State.wG_scheds (s : State) (g : GReg) (v : Word) : (s.wG g v).scheds = s.scheds := rfl
@[simp] theorem State.wG_rails (s : State) (g : GReg) (v : Word) : (s.wG g v).rails = s.rails := rfl
@[simp] theorem State.wG_govLim (s : State) (g : GReg) (v : Word) : (s.wG g v).govLim = s.govLim := rfl
@[simp] theorem State.wG_govCnt (s : State) (g : GReg) (v : Word) : (s.wG g v).govCnt = s.govCnt := rfl
@[simp] theorem State.wG_throttled (s : State) (g : GReg) (v : Word) : (s.wG g v).throttled = s.throttled := rfl
@[simp] theorem State.wG_ctlImages (s : State) (g : GReg) (v : Word) : (s.wG g v).ctlImages = s.ctlImages := rfl
@[simp] theorem State.wG_flash (s : State) (g : GReg) (v : Word) : (s.wG g v).flash = s.flash := rfl
@[simp] theorem State.wG_bootStep (s : State) (g : GReg) (v : Word) : (s.wG g v).bootStep = s.bootStep := rfl
@[simp] theorem State.wG_ready (s : State) (g : GReg) (v : Word) : (s.wG g v).ready = s.ready := rfl
@[simp] theorem State.wG_owner (s : State) (g : GReg) (v : Word) : (s.wG g v).owner = s.owner := rfl
@[simp] theorem State.wG_fuses (s : State) (g : GReg) (v : Word) : (s.wG g v).fuses = s.fuses := rfl
@[simp] theorem State.wG_meas (s : State) (g : GReg) (v : Word) : (s.wG g v).meas = s.meas := rfl
@[simp] theorem State.wG_dev (s : State) (g : GReg) (v : Word) : (s.wG g v).dev = s.dev := rfl
@[simp] theorem State.wG_answers (s : State) (g : GReg) (v : Word) : (s.wG g v).answers = s.answers := rfl
@[simp] theorem State.wG_resetDue (s : State) (g : GReg) (v : Word) : (s.wG g v).resetDue = s.resetDue := rfl

/-! ## modCore -/

@[simp] theorem State.modCore_turns (s : State) (k : Nat) (f : Core → Core) : (s.modCore k f).turns = s.turns := rfl
@[simp] theorem State.modCore_cur (s : State) (k : Nat) (f : Core → Core) : (s.modCore k f).cur = s.cur := rfl
@[simp] theorem State.modCore_free (s : State) (k : Nat) (f : Core → Core) : (s.modCore k f).free = s.free := rfl
@[simp] theorem State.modCore_nextId (s : State) (k : Nat) (f : Core → Core) : (s.modCore k f).nextId = s.nextId := rfl
@[simp] theorem State.modCore_clk (s : State) (k : Nat) (f : Core → Core) : (s.modCore k f).clk = s.clk := rfl
@[simp] theorem State.modCore_cycle (s : State) (k : Nat) (f : Core → Core) : (s.modCore k f).cycle = s.cycle := rfl
@[simp] theorem State.modCore_slewHold (s : State) (k : Nat) (f : Core → Core) : (s.modCore k f).slewHold = s.slewHold := rfl
@[simp] theorem State.modCore_slewAt (s : State) (k : Nat) (f : Core → Core) : (s.modCore k f).slewAt = s.slewAt := rfl
@[simp] theorem State.modCore_power (s : State) (k : Nat) (f : Core → Core) : (s.modCore k f).power = s.power := rfl
@[simp] theorem State.modCore_ctxs (s : State) (k : Nat) (f : Core → Core) : (s.modCore k f).ctxs = s.ctxs := rfl
@[simp] theorem State.modCore_clusters (s : State) (k : Nat) (f : Core → Core) : (s.modCore k f).clusters = s.clusters := rfl
@[simp] theorem State.modCore_groups (s : State) (k : Nat) (f : Core → Core) : (s.modCore k f).groups = s.groups := rfl
@[simp] theorem State.modCore_dies (s : State) (k : Nat) (f : Core → Core) : (s.modCore k f).dies = s.dies := rfl
@[simp] theorem State.modCore_worlds (s : State) (k : Nat) (f : Core → Core) : (s.modCore k f).worlds = s.worlds := rfl
@[simp] theorem State.modCore_wds (s : State) (k : Nat) (f : Core → Core) : (s.modCore k f).wds = s.wds := rfl
@[simp] theorem State.modCore_mem (s : State) (k : Nat) (f : Core → Core) : (s.modCore k f).mem = s.mem := rfl
@[simp] theorem State.modCore_merges (s : State) (k : Nat) (f : Core → Core) : (s.modCore k f).merges = s.merges := rfl
@[simp] theorem State.modCore_ues (s : State) (k : Nat) (f : Core → Core) : (s.modCore k f).ues = s.ues := rfl
@[simp] theorem State.modCore_flips (s : State) (k : Nat) (f : Core → Core) : (s.modCore k f).flips = s.flips := rfl
@[simp] theorem State.modCore_ops (s : State) (k : Nat) (f : Core → Core) : (s.modCore k f).ops = s.ops := rfl
@[simp] theorem State.modCore_reqs (s : State) (k : Nat) (f : Core → Core) : (s.modCore k f).reqs = s.reqs := rfl
@[simp] theorem State.modCore_logs (s : State) (k : Nat) (f : Core → Core) : (s.modCore k f).logs = s.logs := rfl
@[simp] theorem State.modCore_elsel (s : State) (k : Nat) (f : Core → Core) : (s.modCore k f).elsel = s.elsel := rfl
@[simp] theorem State.modCore_elpos (s : State) (k : Nat) (f : Core → Core) : (s.modCore k f).elpos = s.elpos := rfl
@[simp] theorem State.modCore_strikes (s : State) (k : Nat) (f : Core → Core) : (s.modCore k f).strikes = s.strikes := rfl
@[simp] theorem State.modCore_outOfService (s : State) (k : Nat) (f : Core → Core) : (s.modCore k f).outOfService = s.outOfService := rfl
@[simp] theorem State.modCore_effects (s : State) (k : Nat) (f : Core → Core) : (s.modCore k f).effects = s.effects := rfl
@[simp] theorem State.modCore_revoked (s : State) (k : Nat) (f : Core → Core) : (s.modCore k f).revoked = s.revoked := rfl
@[simp] theorem State.modCore_hostIrqs (s : State) (k : Nat) (f : Core → Core) : (s.modCore k f).hostIrqs = s.hostIrqs := rfl
@[simp] theorem State.modCore_pkg (s : State) (k : Nat) (f : Core → Core) : (s.modCore k f).pkg = s.pkg := rfl
@[simp] theorem State.modCore_jobs (s : State) (k : Nat) (f : Core → Core) : (s.modCore k f).jobs = s.jobs := rfl
@[simp] theorem State.modCore_slices (s : State) (k : Nat) (f : Core → Core) : (s.modCore k f).slices = s.slices := rfl
@[simp] theorem State.modCore_images (s : State) (k : Nat) (f : Core → Core) : (s.modCore k f).images = s.images := rfl
@[simp] theorem State.modCore_nextHandle (s : State) (k : Nat) (f : Core → Core) : (s.modCore k f).nextHandle = s.nextHandle := rfl
@[simp] theorem State.modCore_admits (s : State) (k : Nat) (f : Core → Core) : (s.modCore k f).admits = s.admits := rfl
@[simp] theorem State.modCore_scWindow (s : State) (k : Nat) (f : Core → Core) : (s.modCore k f).scWindow = s.scWindow := rfl
@[simp] theorem State.modCore_msgs (s : State) (k : Nat) (f : Core → Core) : (s.modCore k f).msgs = s.msgs := rfl
@[simp] theorem State.modCore_views (s : State) (k : Nat) (f : Core → Core) : (s.modCore k f).views = s.views := rfl
@[simp] theorem State.modCore_scheds (s : State) (k : Nat) (f : Core → Core) : (s.modCore k f).scheds = s.scheds := rfl
@[simp] theorem State.modCore_rails (s : State) (k : Nat) (f : Core → Core) : (s.modCore k f).rails = s.rails := rfl
@[simp] theorem State.modCore_govLim (s : State) (k : Nat) (f : Core → Core) : (s.modCore k f).govLim = s.govLim := rfl
@[simp] theorem State.modCore_govCnt (s : State) (k : Nat) (f : Core → Core) : (s.modCore k f).govCnt = s.govCnt := rfl
@[simp] theorem State.modCore_throttled (s : State) (k : Nat) (f : Core → Core) : (s.modCore k f).throttled = s.throttled := rfl
@[simp] theorem State.modCore_ctlImages (s : State) (k : Nat) (f : Core → Core) : (s.modCore k f).ctlImages = s.ctlImages := rfl
@[simp] theorem State.modCore_flash (s : State) (k : Nat) (f : Core → Core) : (s.modCore k f).flash = s.flash := rfl
@[simp] theorem State.modCore_bootStep (s : State) (k : Nat) (f : Core → Core) : (s.modCore k f).bootStep = s.bootStep := rfl
@[simp] theorem State.modCore_ready (s : State) (k : Nat) (f : Core → Core) : (s.modCore k f).ready = s.ready := rfl
@[simp] theorem State.modCore_owner (s : State) (k : Nat) (f : Core → Core) : (s.modCore k f).owner = s.owner := rfl
@[simp] theorem State.modCore_fuses (s : State) (k : Nat) (f : Core → Core) : (s.modCore k f).fuses = s.fuses := rfl
@[simp] theorem State.modCore_meas (s : State) (k : Nat) (f : Core → Core) : (s.modCore k f).meas = s.meas := rfl
@[simp] theorem State.modCore_dev (s : State) (k : Nat) (f : Core → Core) : (s.modCore k f).dev = s.dev := rfl
@[simp] theorem State.modCore_answers (s : State) (k : Nat) (f : Core → Core) : (s.modCore k f).answers = s.answers := rfl
@[simp] theorem State.modCore_resetDue (s : State) (k : Nat) (f : Core → Core) : (s.modCore k f).resetDue = s.resetDue := rfl

/-! ## modCluster -/

@[simp] theorem State.modCluster_turns (s : State) (k : Nat) (f : Cluster → Cluster) : (s.modCluster k f).turns = s.turns := rfl
@[simp] theorem State.modCluster_cur (s : State) (k : Nat) (f : Cluster → Cluster) : (s.modCluster k f).cur = s.cur := rfl
@[simp] theorem State.modCluster_free (s : State) (k : Nat) (f : Cluster → Cluster) : (s.modCluster k f).free = s.free := rfl
@[simp] theorem State.modCluster_nextId (s : State) (k : Nat) (f : Cluster → Cluster) : (s.modCluster k f).nextId = s.nextId := rfl
@[simp] theorem State.modCluster_clk (s : State) (k : Nat) (f : Cluster → Cluster) : (s.modCluster k f).clk = s.clk := rfl
@[simp] theorem State.modCluster_cycle (s : State) (k : Nat) (f : Cluster → Cluster) : (s.modCluster k f).cycle = s.cycle := rfl
@[simp] theorem State.modCluster_slewHold (s : State) (k : Nat) (f : Cluster → Cluster) : (s.modCluster k f).slewHold = s.slewHold := rfl
@[simp] theorem State.modCluster_slewAt (s : State) (k : Nat) (f : Cluster → Cluster) : (s.modCluster k f).slewAt = s.slewAt := rfl
@[simp] theorem State.modCluster_power (s : State) (k : Nat) (f : Cluster → Cluster) : (s.modCluster k f).power = s.power := rfl
@[simp] theorem State.modCluster_ctxs (s : State) (k : Nat) (f : Cluster → Cluster) : (s.modCluster k f).ctxs = s.ctxs := rfl
@[simp] theorem State.modCluster_cores (s : State) (k : Nat) (f : Cluster → Cluster) : (s.modCluster k f).cores = s.cores := rfl
@[simp] theorem State.modCluster_groups (s : State) (k : Nat) (f : Cluster → Cluster) : (s.modCluster k f).groups = s.groups := rfl
@[simp] theorem State.modCluster_dies (s : State) (k : Nat) (f : Cluster → Cluster) : (s.modCluster k f).dies = s.dies := rfl
@[simp] theorem State.modCluster_worlds (s : State) (k : Nat) (f : Cluster → Cluster) : (s.modCluster k f).worlds = s.worlds := rfl
@[simp] theorem State.modCluster_wds (s : State) (k : Nat) (f : Cluster → Cluster) : (s.modCluster k f).wds = s.wds := rfl
@[simp] theorem State.modCluster_mem (s : State) (k : Nat) (f : Cluster → Cluster) : (s.modCluster k f).mem = s.mem := rfl
@[simp] theorem State.modCluster_merges (s : State) (k : Nat) (f : Cluster → Cluster) : (s.modCluster k f).merges = s.merges := rfl
@[simp] theorem State.modCluster_ues (s : State) (k : Nat) (f : Cluster → Cluster) : (s.modCluster k f).ues = s.ues := rfl
@[simp] theorem State.modCluster_flips (s : State) (k : Nat) (f : Cluster → Cluster) : (s.modCluster k f).flips = s.flips := rfl
@[simp] theorem State.modCluster_ops (s : State) (k : Nat) (f : Cluster → Cluster) : (s.modCluster k f).ops = s.ops := rfl
@[simp] theorem State.modCluster_reqs (s : State) (k : Nat) (f : Cluster → Cluster) : (s.modCluster k f).reqs = s.reqs := rfl
@[simp] theorem State.modCluster_logs (s : State) (k : Nat) (f : Cluster → Cluster) : (s.modCluster k f).logs = s.logs := rfl
@[simp] theorem State.modCluster_elsel (s : State) (k : Nat) (f : Cluster → Cluster) : (s.modCluster k f).elsel = s.elsel := rfl
@[simp] theorem State.modCluster_elpos (s : State) (k : Nat) (f : Cluster → Cluster) : (s.modCluster k f).elpos = s.elpos := rfl
@[simp] theorem State.modCluster_strikes (s : State) (k : Nat) (f : Cluster → Cluster) : (s.modCluster k f).strikes = s.strikes := rfl
@[simp] theorem State.modCluster_outOfService (s : State) (k : Nat) (f : Cluster → Cluster) : (s.modCluster k f).outOfService = s.outOfService := rfl
@[simp] theorem State.modCluster_effects (s : State) (k : Nat) (f : Cluster → Cluster) : (s.modCluster k f).effects = s.effects := rfl
@[simp] theorem State.modCluster_revoked (s : State) (k : Nat) (f : Cluster → Cluster) : (s.modCluster k f).revoked = s.revoked := rfl
@[simp] theorem State.modCluster_hostIrqs (s : State) (k : Nat) (f : Cluster → Cluster) : (s.modCluster k f).hostIrqs = s.hostIrqs := rfl
@[simp] theorem State.modCluster_pkg (s : State) (k : Nat) (f : Cluster → Cluster) : (s.modCluster k f).pkg = s.pkg := rfl
@[simp] theorem State.modCluster_jobs (s : State) (k : Nat) (f : Cluster → Cluster) : (s.modCluster k f).jobs = s.jobs := rfl
@[simp] theorem State.modCluster_slices (s : State) (k : Nat) (f : Cluster → Cluster) : (s.modCluster k f).slices = s.slices := rfl
@[simp] theorem State.modCluster_images (s : State) (k : Nat) (f : Cluster → Cluster) : (s.modCluster k f).images = s.images := rfl
@[simp] theorem State.modCluster_nextHandle (s : State) (k : Nat) (f : Cluster → Cluster) : (s.modCluster k f).nextHandle = s.nextHandle := rfl
@[simp] theorem State.modCluster_admits (s : State) (k : Nat) (f : Cluster → Cluster) : (s.modCluster k f).admits = s.admits := rfl
@[simp] theorem State.modCluster_scWindow (s : State) (k : Nat) (f : Cluster → Cluster) : (s.modCluster k f).scWindow = s.scWindow := rfl
@[simp] theorem State.modCluster_msgs (s : State) (k : Nat) (f : Cluster → Cluster) : (s.modCluster k f).msgs = s.msgs := rfl
@[simp] theorem State.modCluster_views (s : State) (k : Nat) (f : Cluster → Cluster) : (s.modCluster k f).views = s.views := rfl
@[simp] theorem State.modCluster_scheds (s : State) (k : Nat) (f : Cluster → Cluster) : (s.modCluster k f).scheds = s.scheds := rfl
@[simp] theorem State.modCluster_rails (s : State) (k : Nat) (f : Cluster → Cluster) : (s.modCluster k f).rails = s.rails := rfl
@[simp] theorem State.modCluster_govLim (s : State) (k : Nat) (f : Cluster → Cluster) : (s.modCluster k f).govLim = s.govLim := rfl
@[simp] theorem State.modCluster_govCnt (s : State) (k : Nat) (f : Cluster → Cluster) : (s.modCluster k f).govCnt = s.govCnt := rfl
@[simp] theorem State.modCluster_throttled (s : State) (k : Nat) (f : Cluster → Cluster) : (s.modCluster k f).throttled = s.throttled := rfl
@[simp] theorem State.modCluster_ctlImages (s : State) (k : Nat) (f : Cluster → Cluster) : (s.modCluster k f).ctlImages = s.ctlImages := rfl
@[simp] theorem State.modCluster_flash (s : State) (k : Nat) (f : Cluster → Cluster) : (s.modCluster k f).flash = s.flash := rfl
@[simp] theorem State.modCluster_bootStep (s : State) (k : Nat) (f : Cluster → Cluster) : (s.modCluster k f).bootStep = s.bootStep := rfl
@[simp] theorem State.modCluster_ready (s : State) (k : Nat) (f : Cluster → Cluster) : (s.modCluster k f).ready = s.ready := rfl
@[simp] theorem State.modCluster_owner (s : State) (k : Nat) (f : Cluster → Cluster) : (s.modCluster k f).owner = s.owner := rfl
@[simp] theorem State.modCluster_fuses (s : State) (k : Nat) (f : Cluster → Cluster) : (s.modCluster k f).fuses = s.fuses := rfl
@[simp] theorem State.modCluster_meas (s : State) (k : Nat) (f : Cluster → Cluster) : (s.modCluster k f).meas = s.meas := rfl
@[simp] theorem State.modCluster_dev (s : State) (k : Nat) (f : Cluster → Cluster) : (s.modCluster k f).dev = s.dev := rfl
@[simp] theorem State.modCluster_answers (s : State) (k : Nat) (f : Cluster → Cluster) : (s.modCluster k f).answers = s.answers := rfl
@[simp] theorem State.modCluster_resetDue (s : State) (k : Nat) (f : Cluster → Cluster) : (s.modCluster k f).resetDue = s.resetDue := rfl

/-! ## modGroup -/

@[simp] theorem State.modGroup_turns (s : State) (k : Nat) (f : Group → Group) : (s.modGroup k f).turns = s.turns := rfl
@[simp] theorem State.modGroup_cur (s : State) (k : Nat) (f : Group → Group) : (s.modGroup k f).cur = s.cur := rfl
@[simp] theorem State.modGroup_free (s : State) (k : Nat) (f : Group → Group) : (s.modGroup k f).free = s.free := rfl
@[simp] theorem State.modGroup_nextId (s : State) (k : Nat) (f : Group → Group) : (s.modGroup k f).nextId = s.nextId := rfl
@[simp] theorem State.modGroup_clk (s : State) (k : Nat) (f : Group → Group) : (s.modGroup k f).clk = s.clk := rfl
@[simp] theorem State.modGroup_cycle (s : State) (k : Nat) (f : Group → Group) : (s.modGroup k f).cycle = s.cycle := rfl
@[simp] theorem State.modGroup_slewHold (s : State) (k : Nat) (f : Group → Group) : (s.modGroup k f).slewHold = s.slewHold := rfl
@[simp] theorem State.modGroup_slewAt (s : State) (k : Nat) (f : Group → Group) : (s.modGroup k f).slewAt = s.slewAt := rfl
@[simp] theorem State.modGroup_power (s : State) (k : Nat) (f : Group → Group) : (s.modGroup k f).power = s.power := rfl
@[simp] theorem State.modGroup_ctxs (s : State) (k : Nat) (f : Group → Group) : (s.modGroup k f).ctxs = s.ctxs := rfl
@[simp] theorem State.modGroup_cores (s : State) (k : Nat) (f : Group → Group) : (s.modGroup k f).cores = s.cores := rfl
@[simp] theorem State.modGroup_clusters (s : State) (k : Nat) (f : Group → Group) : (s.modGroup k f).clusters = s.clusters := rfl
@[simp] theorem State.modGroup_dies (s : State) (k : Nat) (f : Group → Group) : (s.modGroup k f).dies = s.dies := rfl
@[simp] theorem State.modGroup_worlds (s : State) (k : Nat) (f : Group → Group) : (s.modGroup k f).worlds = s.worlds := rfl
@[simp] theorem State.modGroup_wds (s : State) (k : Nat) (f : Group → Group) : (s.modGroup k f).wds = s.wds := rfl
@[simp] theorem State.modGroup_mem (s : State) (k : Nat) (f : Group → Group) : (s.modGroup k f).mem = s.mem := rfl
@[simp] theorem State.modGroup_merges (s : State) (k : Nat) (f : Group → Group) : (s.modGroup k f).merges = s.merges := rfl
@[simp] theorem State.modGroup_ues (s : State) (k : Nat) (f : Group → Group) : (s.modGroup k f).ues = s.ues := rfl
@[simp] theorem State.modGroup_flips (s : State) (k : Nat) (f : Group → Group) : (s.modGroup k f).flips = s.flips := rfl
@[simp] theorem State.modGroup_ops (s : State) (k : Nat) (f : Group → Group) : (s.modGroup k f).ops = s.ops := rfl
@[simp] theorem State.modGroup_reqs (s : State) (k : Nat) (f : Group → Group) : (s.modGroup k f).reqs = s.reqs := rfl
@[simp] theorem State.modGroup_logs (s : State) (k : Nat) (f : Group → Group) : (s.modGroup k f).logs = s.logs := rfl
@[simp] theorem State.modGroup_elsel (s : State) (k : Nat) (f : Group → Group) : (s.modGroup k f).elsel = s.elsel := rfl
@[simp] theorem State.modGroup_elpos (s : State) (k : Nat) (f : Group → Group) : (s.modGroup k f).elpos = s.elpos := rfl
@[simp] theorem State.modGroup_strikes (s : State) (k : Nat) (f : Group → Group) : (s.modGroup k f).strikes = s.strikes := rfl
@[simp] theorem State.modGroup_outOfService (s : State) (k : Nat) (f : Group → Group) : (s.modGroup k f).outOfService = s.outOfService := rfl
@[simp] theorem State.modGroup_effects (s : State) (k : Nat) (f : Group → Group) : (s.modGroup k f).effects = s.effects := rfl
@[simp] theorem State.modGroup_revoked (s : State) (k : Nat) (f : Group → Group) : (s.modGroup k f).revoked = s.revoked := rfl
@[simp] theorem State.modGroup_hostIrqs (s : State) (k : Nat) (f : Group → Group) : (s.modGroup k f).hostIrqs = s.hostIrqs := rfl
@[simp] theorem State.modGroup_pkg (s : State) (k : Nat) (f : Group → Group) : (s.modGroup k f).pkg = s.pkg := rfl
@[simp] theorem State.modGroup_jobs (s : State) (k : Nat) (f : Group → Group) : (s.modGroup k f).jobs = s.jobs := rfl
@[simp] theorem State.modGroup_slices (s : State) (k : Nat) (f : Group → Group) : (s.modGroup k f).slices = s.slices := rfl
@[simp] theorem State.modGroup_images (s : State) (k : Nat) (f : Group → Group) : (s.modGroup k f).images = s.images := rfl
@[simp] theorem State.modGroup_nextHandle (s : State) (k : Nat) (f : Group → Group) : (s.modGroup k f).nextHandle = s.nextHandle := rfl
@[simp] theorem State.modGroup_admits (s : State) (k : Nat) (f : Group → Group) : (s.modGroup k f).admits = s.admits := rfl
@[simp] theorem State.modGroup_scWindow (s : State) (k : Nat) (f : Group → Group) : (s.modGroup k f).scWindow = s.scWindow := rfl
@[simp] theorem State.modGroup_msgs (s : State) (k : Nat) (f : Group → Group) : (s.modGroup k f).msgs = s.msgs := rfl
@[simp] theorem State.modGroup_views (s : State) (k : Nat) (f : Group → Group) : (s.modGroup k f).views = s.views := rfl
@[simp] theorem State.modGroup_scheds (s : State) (k : Nat) (f : Group → Group) : (s.modGroup k f).scheds = s.scheds := rfl
@[simp] theorem State.modGroup_rails (s : State) (k : Nat) (f : Group → Group) : (s.modGroup k f).rails = s.rails := rfl
@[simp] theorem State.modGroup_govLim (s : State) (k : Nat) (f : Group → Group) : (s.modGroup k f).govLim = s.govLim := rfl
@[simp] theorem State.modGroup_govCnt (s : State) (k : Nat) (f : Group → Group) : (s.modGroup k f).govCnt = s.govCnt := rfl
@[simp] theorem State.modGroup_throttled (s : State) (k : Nat) (f : Group → Group) : (s.modGroup k f).throttled = s.throttled := rfl
@[simp] theorem State.modGroup_ctlImages (s : State) (k : Nat) (f : Group → Group) : (s.modGroup k f).ctlImages = s.ctlImages := rfl
@[simp] theorem State.modGroup_flash (s : State) (k : Nat) (f : Group → Group) : (s.modGroup k f).flash = s.flash := rfl
@[simp] theorem State.modGroup_bootStep (s : State) (k : Nat) (f : Group → Group) : (s.modGroup k f).bootStep = s.bootStep := rfl
@[simp] theorem State.modGroup_ready (s : State) (k : Nat) (f : Group → Group) : (s.modGroup k f).ready = s.ready := rfl
@[simp] theorem State.modGroup_owner (s : State) (k : Nat) (f : Group → Group) : (s.modGroup k f).owner = s.owner := rfl
@[simp] theorem State.modGroup_fuses (s : State) (k : Nat) (f : Group → Group) : (s.modGroup k f).fuses = s.fuses := rfl
@[simp] theorem State.modGroup_meas (s : State) (k : Nat) (f : Group → Group) : (s.modGroup k f).meas = s.meas := rfl
@[simp] theorem State.modGroup_dev (s : State) (k : Nat) (f : Group → Group) : (s.modGroup k f).dev = s.dev := rfl
@[simp] theorem State.modGroup_answers (s : State) (k : Nat) (f : Group → Group) : (s.modGroup k f).answers = s.answers := rfl
@[simp] theorem State.modGroup_resetDue (s : State) (k : Nat) (f : Group → Group) : (s.modGroup k f).resetDue = s.resetDue := rfl

/-! ## modDie -/

@[simp] theorem State.modDie_turns (s : State) (k : Nat) (f : Die → Die) : (s.modDie k f).turns = s.turns := rfl
@[simp] theorem State.modDie_cur (s : State) (k : Nat) (f : Die → Die) : (s.modDie k f).cur = s.cur := rfl
@[simp] theorem State.modDie_free (s : State) (k : Nat) (f : Die → Die) : (s.modDie k f).free = s.free := rfl
@[simp] theorem State.modDie_nextId (s : State) (k : Nat) (f : Die → Die) : (s.modDie k f).nextId = s.nextId := rfl
@[simp] theorem State.modDie_clk (s : State) (k : Nat) (f : Die → Die) : (s.modDie k f).clk = s.clk := rfl
@[simp] theorem State.modDie_cycle (s : State) (k : Nat) (f : Die → Die) : (s.modDie k f).cycle = s.cycle := rfl
@[simp] theorem State.modDie_slewHold (s : State) (k : Nat) (f : Die → Die) : (s.modDie k f).slewHold = s.slewHold := rfl
@[simp] theorem State.modDie_slewAt (s : State) (k : Nat) (f : Die → Die) : (s.modDie k f).slewAt = s.slewAt := rfl
@[simp] theorem State.modDie_power (s : State) (k : Nat) (f : Die → Die) : (s.modDie k f).power = s.power := rfl
@[simp] theorem State.modDie_ctxs (s : State) (k : Nat) (f : Die → Die) : (s.modDie k f).ctxs = s.ctxs := rfl
@[simp] theorem State.modDie_cores (s : State) (k : Nat) (f : Die → Die) : (s.modDie k f).cores = s.cores := rfl
@[simp] theorem State.modDie_clusters (s : State) (k : Nat) (f : Die → Die) : (s.modDie k f).clusters = s.clusters := rfl
@[simp] theorem State.modDie_groups (s : State) (k : Nat) (f : Die → Die) : (s.modDie k f).groups = s.groups := rfl
@[simp] theorem State.modDie_worlds (s : State) (k : Nat) (f : Die → Die) : (s.modDie k f).worlds = s.worlds := rfl
@[simp] theorem State.modDie_wds (s : State) (k : Nat) (f : Die → Die) : (s.modDie k f).wds = s.wds := rfl
@[simp] theorem State.modDie_mem (s : State) (k : Nat) (f : Die → Die) : (s.modDie k f).mem = s.mem := rfl
@[simp] theorem State.modDie_merges (s : State) (k : Nat) (f : Die → Die) : (s.modDie k f).merges = s.merges := rfl
@[simp] theorem State.modDie_ues (s : State) (k : Nat) (f : Die → Die) : (s.modDie k f).ues = s.ues := rfl
@[simp] theorem State.modDie_flips (s : State) (k : Nat) (f : Die → Die) : (s.modDie k f).flips = s.flips := rfl
@[simp] theorem State.modDie_ops (s : State) (k : Nat) (f : Die → Die) : (s.modDie k f).ops = s.ops := rfl
@[simp] theorem State.modDie_reqs (s : State) (k : Nat) (f : Die → Die) : (s.modDie k f).reqs = s.reqs := rfl
@[simp] theorem State.modDie_logs (s : State) (k : Nat) (f : Die → Die) : (s.modDie k f).logs = s.logs := rfl
@[simp] theorem State.modDie_elsel (s : State) (k : Nat) (f : Die → Die) : (s.modDie k f).elsel = s.elsel := rfl
@[simp] theorem State.modDie_elpos (s : State) (k : Nat) (f : Die → Die) : (s.modDie k f).elpos = s.elpos := rfl
@[simp] theorem State.modDie_strikes (s : State) (k : Nat) (f : Die → Die) : (s.modDie k f).strikes = s.strikes := rfl
@[simp] theorem State.modDie_outOfService (s : State) (k : Nat) (f : Die → Die) : (s.modDie k f).outOfService = s.outOfService := rfl
@[simp] theorem State.modDie_effects (s : State) (k : Nat) (f : Die → Die) : (s.modDie k f).effects = s.effects := rfl
@[simp] theorem State.modDie_revoked (s : State) (k : Nat) (f : Die → Die) : (s.modDie k f).revoked = s.revoked := rfl
@[simp] theorem State.modDie_hostIrqs (s : State) (k : Nat) (f : Die → Die) : (s.modDie k f).hostIrqs = s.hostIrqs := rfl
@[simp] theorem State.modDie_pkg (s : State) (k : Nat) (f : Die → Die) : (s.modDie k f).pkg = s.pkg := rfl
@[simp] theorem State.modDie_jobs (s : State) (k : Nat) (f : Die → Die) : (s.modDie k f).jobs = s.jobs := rfl
@[simp] theorem State.modDie_slices (s : State) (k : Nat) (f : Die → Die) : (s.modDie k f).slices = s.slices := rfl
@[simp] theorem State.modDie_images (s : State) (k : Nat) (f : Die → Die) : (s.modDie k f).images = s.images := rfl
@[simp] theorem State.modDie_nextHandle (s : State) (k : Nat) (f : Die → Die) : (s.modDie k f).nextHandle = s.nextHandle := rfl
@[simp] theorem State.modDie_admits (s : State) (k : Nat) (f : Die → Die) : (s.modDie k f).admits = s.admits := rfl
@[simp] theorem State.modDie_scWindow (s : State) (k : Nat) (f : Die → Die) : (s.modDie k f).scWindow = s.scWindow := rfl
@[simp] theorem State.modDie_msgs (s : State) (k : Nat) (f : Die → Die) : (s.modDie k f).msgs = s.msgs := rfl
@[simp] theorem State.modDie_views (s : State) (k : Nat) (f : Die → Die) : (s.modDie k f).views = s.views := rfl
@[simp] theorem State.modDie_scheds (s : State) (k : Nat) (f : Die → Die) : (s.modDie k f).scheds = s.scheds := rfl
@[simp] theorem State.modDie_rails (s : State) (k : Nat) (f : Die → Die) : (s.modDie k f).rails = s.rails := rfl
@[simp] theorem State.modDie_govLim (s : State) (k : Nat) (f : Die → Die) : (s.modDie k f).govLim = s.govLim := rfl
@[simp] theorem State.modDie_govCnt (s : State) (k : Nat) (f : Die → Die) : (s.modDie k f).govCnt = s.govCnt := rfl
@[simp] theorem State.modDie_throttled (s : State) (k : Nat) (f : Die → Die) : (s.modDie k f).throttled = s.throttled := rfl
@[simp] theorem State.modDie_ctlImages (s : State) (k : Nat) (f : Die → Die) : (s.modDie k f).ctlImages = s.ctlImages := rfl
@[simp] theorem State.modDie_flash (s : State) (k : Nat) (f : Die → Die) : (s.modDie k f).flash = s.flash := rfl
@[simp] theorem State.modDie_bootStep (s : State) (k : Nat) (f : Die → Die) : (s.modDie k f).bootStep = s.bootStep := rfl
@[simp] theorem State.modDie_ready (s : State) (k : Nat) (f : Die → Die) : (s.modDie k f).ready = s.ready := rfl
@[simp] theorem State.modDie_owner (s : State) (k : Nat) (f : Die → Die) : (s.modDie k f).owner = s.owner := rfl
@[simp] theorem State.modDie_fuses (s : State) (k : Nat) (f : Die → Die) : (s.modDie k f).fuses = s.fuses := rfl
@[simp] theorem State.modDie_meas (s : State) (k : Nat) (f : Die → Die) : (s.modDie k f).meas = s.meas := rfl
@[simp] theorem State.modDie_dev (s : State) (k : Nat) (f : Die → Die) : (s.modDie k f).dev = s.dev := rfl
@[simp] theorem State.modDie_answers (s : State) (k : Nat) (f : Die → Die) : (s.modDie k f).answers = s.answers := rfl
@[simp] theorem State.modDie_resetDue (s : State) (k : Nat) (f : Die → Die) : (s.modDie k f).resetDue = s.resetDue := rfl

/-! ## modWorld -/

@[simp] theorem State.modWorld_turns (s : State) (k : Nat) (f : World → World) : (s.modWorld k f).turns = s.turns := rfl
@[simp] theorem State.modWorld_cur (s : State) (k : Nat) (f : World → World) : (s.modWorld k f).cur = s.cur := rfl
@[simp] theorem State.modWorld_free (s : State) (k : Nat) (f : World → World) : (s.modWorld k f).free = s.free := rfl
@[simp] theorem State.modWorld_nextId (s : State) (k : Nat) (f : World → World) : (s.modWorld k f).nextId = s.nextId := rfl
@[simp] theorem State.modWorld_clk (s : State) (k : Nat) (f : World → World) : (s.modWorld k f).clk = s.clk := rfl
@[simp] theorem State.modWorld_cycle (s : State) (k : Nat) (f : World → World) : (s.modWorld k f).cycle = s.cycle := rfl
@[simp] theorem State.modWorld_slewHold (s : State) (k : Nat) (f : World → World) : (s.modWorld k f).slewHold = s.slewHold := rfl
@[simp] theorem State.modWorld_slewAt (s : State) (k : Nat) (f : World → World) : (s.modWorld k f).slewAt = s.slewAt := rfl
@[simp] theorem State.modWorld_power (s : State) (k : Nat) (f : World → World) : (s.modWorld k f).power = s.power := rfl
@[simp] theorem State.modWorld_ctxs (s : State) (k : Nat) (f : World → World) : (s.modWorld k f).ctxs = s.ctxs := rfl
@[simp] theorem State.modWorld_cores (s : State) (k : Nat) (f : World → World) : (s.modWorld k f).cores = s.cores := rfl
@[simp] theorem State.modWorld_clusters (s : State) (k : Nat) (f : World → World) : (s.modWorld k f).clusters = s.clusters := rfl
@[simp] theorem State.modWorld_groups (s : State) (k : Nat) (f : World → World) : (s.modWorld k f).groups = s.groups := rfl
@[simp] theorem State.modWorld_dies (s : State) (k : Nat) (f : World → World) : (s.modWorld k f).dies = s.dies := rfl
@[simp] theorem State.modWorld_wds (s : State) (k : Nat) (f : World → World) : (s.modWorld k f).wds = s.wds := rfl
@[simp] theorem State.modWorld_mem (s : State) (k : Nat) (f : World → World) : (s.modWorld k f).mem = s.mem := rfl
@[simp] theorem State.modWorld_merges (s : State) (k : Nat) (f : World → World) : (s.modWorld k f).merges = s.merges := rfl
@[simp] theorem State.modWorld_ues (s : State) (k : Nat) (f : World → World) : (s.modWorld k f).ues = s.ues := rfl
@[simp] theorem State.modWorld_flips (s : State) (k : Nat) (f : World → World) : (s.modWorld k f).flips = s.flips := rfl
@[simp] theorem State.modWorld_ops (s : State) (k : Nat) (f : World → World) : (s.modWorld k f).ops = s.ops := rfl
@[simp] theorem State.modWorld_reqs (s : State) (k : Nat) (f : World → World) : (s.modWorld k f).reqs = s.reqs := rfl
@[simp] theorem State.modWorld_logs (s : State) (k : Nat) (f : World → World) : (s.modWorld k f).logs = s.logs := rfl
@[simp] theorem State.modWorld_elsel (s : State) (k : Nat) (f : World → World) : (s.modWorld k f).elsel = s.elsel := rfl
@[simp] theorem State.modWorld_elpos (s : State) (k : Nat) (f : World → World) : (s.modWorld k f).elpos = s.elpos := rfl
@[simp] theorem State.modWorld_strikes (s : State) (k : Nat) (f : World → World) : (s.modWorld k f).strikes = s.strikes := rfl
@[simp] theorem State.modWorld_outOfService (s : State) (k : Nat) (f : World → World) : (s.modWorld k f).outOfService = s.outOfService := rfl
@[simp] theorem State.modWorld_effects (s : State) (k : Nat) (f : World → World) : (s.modWorld k f).effects = s.effects := rfl
@[simp] theorem State.modWorld_revoked (s : State) (k : Nat) (f : World → World) : (s.modWorld k f).revoked = s.revoked := rfl
@[simp] theorem State.modWorld_hostIrqs (s : State) (k : Nat) (f : World → World) : (s.modWorld k f).hostIrqs = s.hostIrqs := rfl
@[simp] theorem State.modWorld_pkg (s : State) (k : Nat) (f : World → World) : (s.modWorld k f).pkg = s.pkg := rfl
@[simp] theorem State.modWorld_jobs (s : State) (k : Nat) (f : World → World) : (s.modWorld k f).jobs = s.jobs := rfl
@[simp] theorem State.modWorld_slices (s : State) (k : Nat) (f : World → World) : (s.modWorld k f).slices = s.slices := rfl
@[simp] theorem State.modWorld_images (s : State) (k : Nat) (f : World → World) : (s.modWorld k f).images = s.images := rfl
@[simp] theorem State.modWorld_nextHandle (s : State) (k : Nat) (f : World → World) : (s.modWorld k f).nextHandle = s.nextHandle := rfl
@[simp] theorem State.modWorld_admits (s : State) (k : Nat) (f : World → World) : (s.modWorld k f).admits = s.admits := rfl
@[simp] theorem State.modWorld_scWindow (s : State) (k : Nat) (f : World → World) : (s.modWorld k f).scWindow = s.scWindow := rfl
@[simp] theorem State.modWorld_msgs (s : State) (k : Nat) (f : World → World) : (s.modWorld k f).msgs = s.msgs := rfl
@[simp] theorem State.modWorld_views (s : State) (k : Nat) (f : World → World) : (s.modWorld k f).views = s.views := rfl
@[simp] theorem State.modWorld_scheds (s : State) (k : Nat) (f : World → World) : (s.modWorld k f).scheds = s.scheds := rfl
@[simp] theorem State.modWorld_rails (s : State) (k : Nat) (f : World → World) : (s.modWorld k f).rails = s.rails := rfl
@[simp] theorem State.modWorld_govLim (s : State) (k : Nat) (f : World → World) : (s.modWorld k f).govLim = s.govLim := rfl
@[simp] theorem State.modWorld_govCnt (s : State) (k : Nat) (f : World → World) : (s.modWorld k f).govCnt = s.govCnt := rfl
@[simp] theorem State.modWorld_throttled (s : State) (k : Nat) (f : World → World) : (s.modWorld k f).throttled = s.throttled := rfl
@[simp] theorem State.modWorld_ctlImages (s : State) (k : Nat) (f : World → World) : (s.modWorld k f).ctlImages = s.ctlImages := rfl
@[simp] theorem State.modWorld_flash (s : State) (k : Nat) (f : World → World) : (s.modWorld k f).flash = s.flash := rfl
@[simp] theorem State.modWorld_bootStep (s : State) (k : Nat) (f : World → World) : (s.modWorld k f).bootStep = s.bootStep := rfl
@[simp] theorem State.modWorld_ready (s : State) (k : Nat) (f : World → World) : (s.modWorld k f).ready = s.ready := rfl
@[simp] theorem State.modWorld_owner (s : State) (k : Nat) (f : World → World) : (s.modWorld k f).owner = s.owner := rfl
@[simp] theorem State.modWorld_fuses (s : State) (k : Nat) (f : World → World) : (s.modWorld k f).fuses = s.fuses := rfl
@[simp] theorem State.modWorld_meas (s : State) (k : Nat) (f : World → World) : (s.modWorld k f).meas = s.meas := rfl
@[simp] theorem State.modWorld_dev (s : State) (k : Nat) (f : World → World) : (s.modWorld k f).dev = s.dev := rfl
@[simp] theorem State.modWorld_answers (s : State) (k : Nat) (f : World → World) : (s.modWorld k f).answers = s.answers := rfl
@[simp] theorem State.modWorld_resetDue (s : State) (k : Nat) (f : World → World) : (s.modWorld k f).resetDue = s.resetDue := rfl

/-! ## modWd -/

@[simp] theorem State.modWd_turns (s : State) (w d : Nat) (f : WorldDie → WorldDie) : (s.modWd w d f).turns = s.turns := rfl
@[simp] theorem State.modWd_cur (s : State) (w d : Nat) (f : WorldDie → WorldDie) : (s.modWd w d f).cur = s.cur := rfl
@[simp] theorem State.modWd_free (s : State) (w d : Nat) (f : WorldDie → WorldDie) : (s.modWd w d f).free = s.free := rfl
@[simp] theorem State.modWd_nextId (s : State) (w d : Nat) (f : WorldDie → WorldDie) : (s.modWd w d f).nextId = s.nextId := rfl
@[simp] theorem State.modWd_clk (s : State) (w d : Nat) (f : WorldDie → WorldDie) : (s.modWd w d f).clk = s.clk := rfl
@[simp] theorem State.modWd_cycle (s : State) (w d : Nat) (f : WorldDie → WorldDie) : (s.modWd w d f).cycle = s.cycle := rfl
@[simp] theorem State.modWd_slewHold (s : State) (w d : Nat) (f : WorldDie → WorldDie) : (s.modWd w d f).slewHold = s.slewHold := rfl
@[simp] theorem State.modWd_slewAt (s : State) (w d : Nat) (f : WorldDie → WorldDie) : (s.modWd w d f).slewAt = s.slewAt := rfl
@[simp] theorem State.modWd_power (s : State) (w d : Nat) (f : WorldDie → WorldDie) : (s.modWd w d f).power = s.power := rfl
@[simp] theorem State.modWd_ctxs (s : State) (w d : Nat) (f : WorldDie → WorldDie) : (s.modWd w d f).ctxs = s.ctxs := rfl
@[simp] theorem State.modWd_cores (s : State) (w d : Nat) (f : WorldDie → WorldDie) : (s.modWd w d f).cores = s.cores := rfl
@[simp] theorem State.modWd_clusters (s : State) (w d : Nat) (f : WorldDie → WorldDie) : (s.modWd w d f).clusters = s.clusters := rfl
@[simp] theorem State.modWd_groups (s : State) (w d : Nat) (f : WorldDie → WorldDie) : (s.modWd w d f).groups = s.groups := rfl
@[simp] theorem State.modWd_dies (s : State) (w d : Nat) (f : WorldDie → WorldDie) : (s.modWd w d f).dies = s.dies := rfl
@[simp] theorem State.modWd_worlds (s : State) (w d : Nat) (f : WorldDie → WorldDie) : (s.modWd w d f).worlds = s.worlds := rfl
@[simp] theorem State.modWd_mem (s : State) (w d : Nat) (f : WorldDie → WorldDie) : (s.modWd w d f).mem = s.mem := rfl
@[simp] theorem State.modWd_merges (s : State) (w d : Nat) (f : WorldDie → WorldDie) : (s.modWd w d f).merges = s.merges := rfl
@[simp] theorem State.modWd_ues (s : State) (w d : Nat) (f : WorldDie → WorldDie) : (s.modWd w d f).ues = s.ues := rfl
@[simp] theorem State.modWd_flips (s : State) (w d : Nat) (f : WorldDie → WorldDie) : (s.modWd w d f).flips = s.flips := rfl
@[simp] theorem State.modWd_ops (s : State) (w d : Nat) (f : WorldDie → WorldDie) : (s.modWd w d f).ops = s.ops := rfl
@[simp] theorem State.modWd_reqs (s : State) (w d : Nat) (f : WorldDie → WorldDie) : (s.modWd w d f).reqs = s.reqs := rfl
@[simp] theorem State.modWd_logs (s : State) (w d : Nat) (f : WorldDie → WorldDie) : (s.modWd w d f).logs = s.logs := rfl
@[simp] theorem State.modWd_elsel (s : State) (w d : Nat) (f : WorldDie → WorldDie) : (s.modWd w d f).elsel = s.elsel := rfl
@[simp] theorem State.modWd_elpos (s : State) (w d : Nat) (f : WorldDie → WorldDie) : (s.modWd w d f).elpos = s.elpos := rfl
@[simp] theorem State.modWd_strikes (s : State) (w d : Nat) (f : WorldDie → WorldDie) : (s.modWd w d f).strikes = s.strikes := rfl
@[simp] theorem State.modWd_outOfService (s : State) (w d : Nat) (f : WorldDie → WorldDie) : (s.modWd w d f).outOfService = s.outOfService := rfl
@[simp] theorem State.modWd_effects (s : State) (w d : Nat) (f : WorldDie → WorldDie) : (s.modWd w d f).effects = s.effects := rfl
@[simp] theorem State.modWd_revoked (s : State) (w d : Nat) (f : WorldDie → WorldDie) : (s.modWd w d f).revoked = s.revoked := rfl
@[simp] theorem State.modWd_hostIrqs (s : State) (w d : Nat) (f : WorldDie → WorldDie) : (s.modWd w d f).hostIrqs = s.hostIrqs := rfl
@[simp] theorem State.modWd_pkg (s : State) (w d : Nat) (f : WorldDie → WorldDie) : (s.modWd w d f).pkg = s.pkg := rfl
@[simp] theorem State.modWd_jobs (s : State) (w d : Nat) (f : WorldDie → WorldDie) : (s.modWd w d f).jobs = s.jobs := rfl
@[simp] theorem State.modWd_slices (s : State) (w d : Nat) (f : WorldDie → WorldDie) : (s.modWd w d f).slices = s.slices := rfl
@[simp] theorem State.modWd_images (s : State) (w d : Nat) (f : WorldDie → WorldDie) : (s.modWd w d f).images = s.images := rfl
@[simp] theorem State.modWd_nextHandle (s : State) (w d : Nat) (f : WorldDie → WorldDie) : (s.modWd w d f).nextHandle = s.nextHandle := rfl
@[simp] theorem State.modWd_admits (s : State) (w d : Nat) (f : WorldDie → WorldDie) : (s.modWd w d f).admits = s.admits := rfl
@[simp] theorem State.modWd_scWindow (s : State) (w d : Nat) (f : WorldDie → WorldDie) : (s.modWd w d f).scWindow = s.scWindow := rfl
@[simp] theorem State.modWd_msgs (s : State) (w d : Nat) (f : WorldDie → WorldDie) : (s.modWd w d f).msgs = s.msgs := rfl
@[simp] theorem State.modWd_views (s : State) (w d : Nat) (f : WorldDie → WorldDie) : (s.modWd w d f).views = s.views := rfl
@[simp] theorem State.modWd_scheds (s : State) (w d : Nat) (f : WorldDie → WorldDie) : (s.modWd w d f).scheds = s.scheds := rfl
@[simp] theorem State.modWd_rails (s : State) (w d : Nat) (f : WorldDie → WorldDie) : (s.modWd w d f).rails = s.rails := rfl
@[simp] theorem State.modWd_govLim (s : State) (w d : Nat) (f : WorldDie → WorldDie) : (s.modWd w d f).govLim = s.govLim := rfl
@[simp] theorem State.modWd_govCnt (s : State) (w d : Nat) (f : WorldDie → WorldDie) : (s.modWd w d f).govCnt = s.govCnt := rfl
@[simp] theorem State.modWd_throttled (s : State) (w d : Nat) (f : WorldDie → WorldDie) : (s.modWd w d f).throttled = s.throttled := rfl
@[simp] theorem State.modWd_ctlImages (s : State) (w d : Nat) (f : WorldDie → WorldDie) : (s.modWd w d f).ctlImages = s.ctlImages := rfl
@[simp] theorem State.modWd_flash (s : State) (w d : Nat) (f : WorldDie → WorldDie) : (s.modWd w d f).flash = s.flash := rfl
@[simp] theorem State.modWd_bootStep (s : State) (w d : Nat) (f : WorldDie → WorldDie) : (s.modWd w d f).bootStep = s.bootStep := rfl
@[simp] theorem State.modWd_ready (s : State) (w d : Nat) (f : WorldDie → WorldDie) : (s.modWd w d f).ready = s.ready := rfl
@[simp] theorem State.modWd_owner (s : State) (w d : Nat) (f : WorldDie → WorldDie) : (s.modWd w d f).owner = s.owner := rfl
@[simp] theorem State.modWd_fuses (s : State) (w d : Nat) (f : WorldDie → WorldDie) : (s.modWd w d f).fuses = s.fuses := rfl
@[simp] theorem State.modWd_meas (s : State) (w d : Nat) (f : WorldDie → WorldDie) : (s.modWd w d f).meas = s.meas := rfl
@[simp] theorem State.modWd_dev (s : State) (w d : Nat) (f : WorldDie → WorldDie) : (s.modWd w d f).dev = s.dev := rfl
@[simp] theorem State.modWd_answers (s : State) (w d : Nat) (f : WorldDie → WorldDie) : (s.modWd w d f).answers = s.answers := rfl
@[simp] theorem State.modWd_resetDue (s : State) (w d : Nat) (f : WorldDie → WorldDie) : (s.modWd w d f).resetDue = s.resetDue := rfl

/-! ## setByte -/

@[simp] theorem State.setByte_turns (s : State) (a : Nat) (b : Byte) : (s.setByte a b).turns = s.turns := rfl
@[simp] theorem State.setByte_cur (s : State) (a : Nat) (b : Byte) : (s.setByte a b).cur = s.cur := rfl
@[simp] theorem State.setByte_free (s : State) (a : Nat) (b : Byte) : (s.setByte a b).free = s.free := rfl
@[simp] theorem State.setByte_nextId (s : State) (a : Nat) (b : Byte) : (s.setByte a b).nextId = s.nextId := rfl
@[simp] theorem State.setByte_clk (s : State) (a : Nat) (b : Byte) : (s.setByte a b).clk = s.clk := rfl
@[simp] theorem State.setByte_cycle (s : State) (a : Nat) (b : Byte) : (s.setByte a b).cycle = s.cycle := rfl
@[simp] theorem State.setByte_slewHold (s : State) (a : Nat) (b : Byte) : (s.setByte a b).slewHold = s.slewHold := rfl
@[simp] theorem State.setByte_slewAt (s : State) (a : Nat) (b : Byte) : (s.setByte a b).slewAt = s.slewAt := rfl
@[simp] theorem State.setByte_power (s : State) (a : Nat) (b : Byte) : (s.setByte a b).power = s.power := rfl
@[simp] theorem State.setByte_ctxs (s : State) (a : Nat) (b : Byte) : (s.setByte a b).ctxs = s.ctxs := rfl
@[simp] theorem State.setByte_cores (s : State) (a : Nat) (b : Byte) : (s.setByte a b).cores = s.cores := rfl
@[simp] theorem State.setByte_clusters (s : State) (a : Nat) (b : Byte) : (s.setByte a b).clusters = s.clusters := rfl
@[simp] theorem State.setByte_groups (s : State) (a : Nat) (b : Byte) : (s.setByte a b).groups = s.groups := rfl
@[simp] theorem State.setByte_dies (s : State) (a : Nat) (b : Byte) : (s.setByte a b).dies = s.dies := rfl
@[simp] theorem State.setByte_worlds (s : State) (a : Nat) (b : Byte) : (s.setByte a b).worlds = s.worlds := rfl
@[simp] theorem State.setByte_wds (s : State) (a : Nat) (b : Byte) : (s.setByte a b).wds = s.wds := rfl
@[simp] theorem State.setByte_merges (s : State) (a : Nat) (b : Byte) : (s.setByte a b).merges = s.merges := rfl
@[simp] theorem State.setByte_ues (s : State) (a : Nat) (b : Byte) : (s.setByte a b).ues = s.ues := rfl
@[simp] theorem State.setByte_flips (s : State) (a : Nat) (b : Byte) : (s.setByte a b).flips = s.flips := rfl
@[simp] theorem State.setByte_ops (s : State) (a : Nat) (b : Byte) : (s.setByte a b).ops = s.ops := rfl
@[simp] theorem State.setByte_reqs (s : State) (a : Nat) (b : Byte) : (s.setByte a b).reqs = s.reqs := rfl
@[simp] theorem State.setByte_logs (s : State) (a : Nat) (b : Byte) : (s.setByte a b).logs = s.logs := rfl
@[simp] theorem State.setByte_elsel (s : State) (a : Nat) (b : Byte) : (s.setByte a b).elsel = s.elsel := rfl
@[simp] theorem State.setByte_elpos (s : State) (a : Nat) (b : Byte) : (s.setByte a b).elpos = s.elpos := rfl
@[simp] theorem State.setByte_strikes (s : State) (a : Nat) (b : Byte) : (s.setByte a b).strikes = s.strikes := rfl
@[simp] theorem State.setByte_outOfService (s : State) (a : Nat) (b : Byte) : (s.setByte a b).outOfService = s.outOfService := rfl
@[simp] theorem State.setByte_effects (s : State) (a : Nat) (b : Byte) : (s.setByte a b).effects = s.effects := rfl
@[simp] theorem State.setByte_revoked (s : State) (a : Nat) (b : Byte) : (s.setByte a b).revoked = s.revoked := rfl
@[simp] theorem State.setByte_hostIrqs (s : State) (a : Nat) (b : Byte) : (s.setByte a b).hostIrqs = s.hostIrqs := rfl
@[simp] theorem State.setByte_pkg (s : State) (a : Nat) (b : Byte) : (s.setByte a b).pkg = s.pkg := rfl
@[simp] theorem State.setByte_jobs (s : State) (a : Nat) (b : Byte) : (s.setByte a b).jobs = s.jobs := rfl
@[simp] theorem State.setByte_slices (s : State) (a : Nat) (b : Byte) : (s.setByte a b).slices = s.slices := rfl
@[simp] theorem State.setByte_images (s : State) (a : Nat) (b : Byte) : (s.setByte a b).images = s.images := rfl
@[simp] theorem State.setByte_nextHandle (s : State) (a : Nat) (b : Byte) : (s.setByte a b).nextHandle = s.nextHandle := rfl
@[simp] theorem State.setByte_admits (s : State) (a : Nat) (b : Byte) : (s.setByte a b).admits = s.admits := rfl
@[simp] theorem State.setByte_scWindow (s : State) (a : Nat) (b : Byte) : (s.setByte a b).scWindow = s.scWindow := rfl
@[simp] theorem State.setByte_msgs (s : State) (a : Nat) (b : Byte) : (s.setByte a b).msgs = s.msgs := rfl
@[simp] theorem State.setByte_views (s : State) (a : Nat) (b : Byte) : (s.setByte a b).views = s.views := rfl
@[simp] theorem State.setByte_scheds (s : State) (a : Nat) (b : Byte) : (s.setByte a b).scheds = s.scheds := rfl
@[simp] theorem State.setByte_rails (s : State) (a : Nat) (b : Byte) : (s.setByte a b).rails = s.rails := rfl
@[simp] theorem State.setByte_govLim (s : State) (a : Nat) (b : Byte) : (s.setByte a b).govLim = s.govLim := rfl
@[simp] theorem State.setByte_govCnt (s : State) (a : Nat) (b : Byte) : (s.setByte a b).govCnt = s.govCnt := rfl
@[simp] theorem State.setByte_throttled (s : State) (a : Nat) (b : Byte) : (s.setByte a b).throttled = s.throttled := rfl
@[simp] theorem State.setByte_ctlImages (s : State) (a : Nat) (b : Byte) : (s.setByte a b).ctlImages = s.ctlImages := rfl
@[simp] theorem State.setByte_flash (s : State) (a : Nat) (b : Byte) : (s.setByte a b).flash = s.flash := rfl
@[simp] theorem State.setByte_bootStep (s : State) (a : Nat) (b : Byte) : (s.setByte a b).bootStep = s.bootStep := rfl
@[simp] theorem State.setByte_ready (s : State) (a : Nat) (b : Byte) : (s.setByte a b).ready = s.ready := rfl
@[simp] theorem State.setByte_owner (s : State) (a : Nat) (b : Byte) : (s.setByte a b).owner = s.owner := rfl
@[simp] theorem State.setByte_fuses (s : State) (a : Nat) (b : Byte) : (s.setByte a b).fuses = s.fuses := rfl
@[simp] theorem State.setByte_meas (s : State) (a : Nat) (b : Byte) : (s.setByte a b).meas = s.meas := rfl
@[simp] theorem State.setByte_dev (s : State) (a : Nat) (b : Byte) : (s.setByte a b).dev = s.dev := rfl
@[simp] theorem State.setByte_answers (s : State) (a : Nat) (b : Byte) : (s.setByte a b).answers = s.answers := rfl
@[simp] theorem State.setByte_resetDue (s : State) (a : Nat) (b : Byte) : (s.setByte a b).resetDue = s.resetDue := rfl

/-! ## noteEffect -/

@[simp] theorem State.noteEffect_turns (s : State) (k : Nat) (a : Bool) (x y : Nat) : (s.noteEffect k a x y).turns = s.turns := rfl
@[simp] theorem State.noteEffect_cur (s : State) (k : Nat) (a : Bool) (x y : Nat) : (s.noteEffect k a x y).cur = s.cur := rfl
@[simp] theorem State.noteEffect_free (s : State) (k : Nat) (a : Bool) (x y : Nat) : (s.noteEffect k a x y).free = s.free := rfl
@[simp] theorem State.noteEffect_nextId (s : State) (k : Nat) (a : Bool) (x y : Nat) : (s.noteEffect k a x y).nextId = s.nextId := rfl
@[simp] theorem State.noteEffect_clk (s : State) (k : Nat) (a : Bool) (x y : Nat) : (s.noteEffect k a x y).clk = s.clk := rfl
@[simp] theorem State.noteEffect_cycle (s : State) (k : Nat) (a : Bool) (x y : Nat) : (s.noteEffect k a x y).cycle = s.cycle := rfl
@[simp] theorem State.noteEffect_slewHold (s : State) (k : Nat) (a : Bool) (x y : Nat) : (s.noteEffect k a x y).slewHold = s.slewHold := rfl
@[simp] theorem State.noteEffect_slewAt (s : State) (k : Nat) (a : Bool) (x y : Nat) : (s.noteEffect k a x y).slewAt = s.slewAt := rfl
@[simp] theorem State.noteEffect_power (s : State) (k : Nat) (a : Bool) (x y : Nat) : (s.noteEffect k a x y).power = s.power := rfl
@[simp] theorem State.noteEffect_ctxs (s : State) (k : Nat) (a : Bool) (x y : Nat) : (s.noteEffect k a x y).ctxs = s.ctxs := rfl
@[simp] theorem State.noteEffect_cores (s : State) (k : Nat) (a : Bool) (x y : Nat) : (s.noteEffect k a x y).cores = s.cores := rfl
@[simp] theorem State.noteEffect_clusters (s : State) (k : Nat) (a : Bool) (x y : Nat) : (s.noteEffect k a x y).clusters = s.clusters := rfl
@[simp] theorem State.noteEffect_groups (s : State) (k : Nat) (a : Bool) (x y : Nat) : (s.noteEffect k a x y).groups = s.groups := rfl
@[simp] theorem State.noteEffect_dies (s : State) (k : Nat) (a : Bool) (x y : Nat) : (s.noteEffect k a x y).dies = s.dies := rfl
@[simp] theorem State.noteEffect_worlds (s : State) (k : Nat) (a : Bool) (x y : Nat) : (s.noteEffect k a x y).worlds = s.worlds := rfl
@[simp] theorem State.noteEffect_wds (s : State) (k : Nat) (a : Bool) (x y : Nat) : (s.noteEffect k a x y).wds = s.wds := rfl
@[simp] theorem State.noteEffect_mem (s : State) (k : Nat) (a : Bool) (x y : Nat) : (s.noteEffect k a x y).mem = s.mem := rfl
@[simp] theorem State.noteEffect_merges (s : State) (k : Nat) (a : Bool) (x y : Nat) : (s.noteEffect k a x y).merges = s.merges := rfl
@[simp] theorem State.noteEffect_ues (s : State) (k : Nat) (a : Bool) (x y : Nat) : (s.noteEffect k a x y).ues = s.ues := rfl
@[simp] theorem State.noteEffect_flips (s : State) (k : Nat) (a : Bool) (x y : Nat) : (s.noteEffect k a x y).flips = s.flips := rfl
@[simp] theorem State.noteEffect_ops (s : State) (k : Nat) (a : Bool) (x y : Nat) : (s.noteEffect k a x y).ops = s.ops := rfl
@[simp] theorem State.noteEffect_reqs (s : State) (k : Nat) (a : Bool) (x y : Nat) : (s.noteEffect k a x y).reqs = s.reqs := rfl
@[simp] theorem State.noteEffect_logs (s : State) (k : Nat) (a : Bool) (x y : Nat) : (s.noteEffect k a x y).logs = s.logs := rfl
@[simp] theorem State.noteEffect_elsel (s : State) (k : Nat) (a : Bool) (x y : Nat) : (s.noteEffect k a x y).elsel = s.elsel := rfl
@[simp] theorem State.noteEffect_elpos (s : State) (k : Nat) (a : Bool) (x y : Nat) : (s.noteEffect k a x y).elpos = s.elpos := rfl
@[simp] theorem State.noteEffect_strikes (s : State) (k : Nat) (a : Bool) (x y : Nat) : (s.noteEffect k a x y).strikes = s.strikes := rfl
@[simp] theorem State.noteEffect_outOfService (s : State) (k : Nat) (a : Bool) (x y : Nat) : (s.noteEffect k a x y).outOfService = s.outOfService := rfl
@[simp] theorem State.noteEffect_revoked (s : State) (k : Nat) (a : Bool) (x y : Nat) : (s.noteEffect k a x y).revoked = s.revoked := rfl
@[simp] theorem State.noteEffect_hostIrqs (s : State) (k : Nat) (a : Bool) (x y : Nat) : (s.noteEffect k a x y).hostIrqs = s.hostIrqs := rfl
@[simp] theorem State.noteEffect_pkg (s : State) (k : Nat) (a : Bool) (x y : Nat) : (s.noteEffect k a x y).pkg = s.pkg := rfl
@[simp] theorem State.noteEffect_jobs (s : State) (k : Nat) (a : Bool) (x y : Nat) : (s.noteEffect k a x y).jobs = s.jobs := rfl
@[simp] theorem State.noteEffect_slices (s : State) (k : Nat) (a : Bool) (x y : Nat) : (s.noteEffect k a x y).slices = s.slices := rfl
@[simp] theorem State.noteEffect_images (s : State) (k : Nat) (a : Bool) (x y : Nat) : (s.noteEffect k a x y).images = s.images := rfl
@[simp] theorem State.noteEffect_nextHandle (s : State) (k : Nat) (a : Bool) (x y : Nat) : (s.noteEffect k a x y).nextHandle = s.nextHandle := rfl
@[simp] theorem State.noteEffect_admits (s : State) (k : Nat) (a : Bool) (x y : Nat) : (s.noteEffect k a x y).admits = s.admits := rfl
@[simp] theorem State.noteEffect_scWindow (s : State) (k : Nat) (a : Bool) (x y : Nat) : (s.noteEffect k a x y).scWindow = s.scWindow := rfl
@[simp] theorem State.noteEffect_msgs (s : State) (k : Nat) (a : Bool) (x y : Nat) : (s.noteEffect k a x y).msgs = s.msgs := rfl
@[simp] theorem State.noteEffect_views (s : State) (k : Nat) (a : Bool) (x y : Nat) : (s.noteEffect k a x y).views = s.views := rfl
@[simp] theorem State.noteEffect_scheds (s : State) (k : Nat) (a : Bool) (x y : Nat) : (s.noteEffect k a x y).scheds = s.scheds := rfl
@[simp] theorem State.noteEffect_rails (s : State) (k : Nat) (a : Bool) (x y : Nat) : (s.noteEffect k a x y).rails = s.rails := rfl
@[simp] theorem State.noteEffect_govLim (s : State) (k : Nat) (a : Bool) (x y : Nat) : (s.noteEffect k a x y).govLim = s.govLim := rfl
@[simp] theorem State.noteEffect_govCnt (s : State) (k : Nat) (a : Bool) (x y : Nat) : (s.noteEffect k a x y).govCnt = s.govCnt := rfl
@[simp] theorem State.noteEffect_throttled (s : State) (k : Nat) (a : Bool) (x y : Nat) : (s.noteEffect k a x y).throttled = s.throttled := rfl
@[simp] theorem State.noteEffect_ctlImages (s : State) (k : Nat) (a : Bool) (x y : Nat) : (s.noteEffect k a x y).ctlImages = s.ctlImages := rfl
@[simp] theorem State.noteEffect_flash (s : State) (k : Nat) (a : Bool) (x y : Nat) : (s.noteEffect k a x y).flash = s.flash := rfl
@[simp] theorem State.noteEffect_bootStep (s : State) (k : Nat) (a : Bool) (x y : Nat) : (s.noteEffect k a x y).bootStep = s.bootStep := rfl
@[simp] theorem State.noteEffect_ready (s : State) (k : Nat) (a : Bool) (x y : Nat) : (s.noteEffect k a x y).ready = s.ready := rfl
@[simp] theorem State.noteEffect_owner (s : State) (k : Nat) (a : Bool) (x y : Nat) : (s.noteEffect k a x y).owner = s.owner := rfl
@[simp] theorem State.noteEffect_fuses (s : State) (k : Nat) (a : Bool) (x y : Nat) : (s.noteEffect k a x y).fuses = s.fuses := rfl
@[simp] theorem State.noteEffect_meas (s : State) (k : Nat) (a : Bool) (x y : Nat) : (s.noteEffect k a x y).meas = s.meas := rfl
@[simp] theorem State.noteEffect_dev (s : State) (k : Nat) (a : Bool) (x y : Nat) : (s.noteEffect k a x y).dev = s.dev := rfl
@[simp] theorem State.noteEffect_answers (s : State) (k : Nat) (a : Bool) (x y : Nat) : (s.noteEffect k a x y).answers = s.answers := rfl
@[simp] theorem State.noteEffect_resetDue (s : State) (k : Nat) (a : Bool) (x y : Nat) : (s.noteEffect k a x y).resetDue = s.resetDue := rfl

/-! ## takeEffect -/

@[simp] theorem State.takeEffect_turns (s : State) (k : Nat) (a : Bool) : (s.takeEffect k a).turns = s.turns := rfl
@[simp] theorem State.takeEffect_cur (s : State) (k : Nat) (a : Bool) : (s.takeEffect k a).cur = s.cur := rfl
@[simp] theorem State.takeEffect_free (s : State) (k : Nat) (a : Bool) : (s.takeEffect k a).free = s.free := rfl
@[simp] theorem State.takeEffect_nextId (s : State) (k : Nat) (a : Bool) : (s.takeEffect k a).nextId = s.nextId := rfl
@[simp] theorem State.takeEffect_clk (s : State) (k : Nat) (a : Bool) : (s.takeEffect k a).clk = s.clk := rfl
@[simp] theorem State.takeEffect_cycle (s : State) (k : Nat) (a : Bool) : (s.takeEffect k a).cycle = s.cycle := rfl
@[simp] theorem State.takeEffect_slewHold (s : State) (k : Nat) (a : Bool) : (s.takeEffect k a).slewHold = s.slewHold := rfl
@[simp] theorem State.takeEffect_slewAt (s : State) (k : Nat) (a : Bool) : (s.takeEffect k a).slewAt = s.slewAt := rfl
@[simp] theorem State.takeEffect_power (s : State) (k : Nat) (a : Bool) : (s.takeEffect k a).power = s.power := rfl
@[simp] theorem State.takeEffect_ctxs (s : State) (k : Nat) (a : Bool) : (s.takeEffect k a).ctxs = s.ctxs := rfl
@[simp] theorem State.takeEffect_cores (s : State) (k : Nat) (a : Bool) : (s.takeEffect k a).cores = s.cores := rfl
@[simp] theorem State.takeEffect_clusters (s : State) (k : Nat) (a : Bool) : (s.takeEffect k a).clusters = s.clusters := rfl
@[simp] theorem State.takeEffect_groups (s : State) (k : Nat) (a : Bool) : (s.takeEffect k a).groups = s.groups := rfl
@[simp] theorem State.takeEffect_dies (s : State) (k : Nat) (a : Bool) : (s.takeEffect k a).dies = s.dies := rfl
@[simp] theorem State.takeEffect_worlds (s : State) (k : Nat) (a : Bool) : (s.takeEffect k a).worlds = s.worlds := rfl
@[simp] theorem State.takeEffect_wds (s : State) (k : Nat) (a : Bool) : (s.takeEffect k a).wds = s.wds := rfl
@[simp] theorem State.takeEffect_mem (s : State) (k : Nat) (a : Bool) : (s.takeEffect k a).mem = s.mem := rfl
@[simp] theorem State.takeEffect_merges (s : State) (k : Nat) (a : Bool) : (s.takeEffect k a).merges = s.merges := rfl
@[simp] theorem State.takeEffect_ues (s : State) (k : Nat) (a : Bool) : (s.takeEffect k a).ues = s.ues := rfl
@[simp] theorem State.takeEffect_flips (s : State) (k : Nat) (a : Bool) : (s.takeEffect k a).flips = s.flips := rfl
@[simp] theorem State.takeEffect_ops (s : State) (k : Nat) (a : Bool) : (s.takeEffect k a).ops = s.ops := rfl
@[simp] theorem State.takeEffect_reqs (s : State) (k : Nat) (a : Bool) : (s.takeEffect k a).reqs = s.reqs := rfl
@[simp] theorem State.takeEffect_logs (s : State) (k : Nat) (a : Bool) : (s.takeEffect k a).logs = s.logs := rfl
@[simp] theorem State.takeEffect_elsel (s : State) (k : Nat) (a : Bool) : (s.takeEffect k a).elsel = s.elsel := rfl
@[simp] theorem State.takeEffect_elpos (s : State) (k : Nat) (a : Bool) : (s.takeEffect k a).elpos = s.elpos := rfl
@[simp] theorem State.takeEffect_strikes (s : State) (k : Nat) (a : Bool) : (s.takeEffect k a).strikes = s.strikes := rfl
@[simp] theorem State.takeEffect_outOfService (s : State) (k : Nat) (a : Bool) : (s.takeEffect k a).outOfService = s.outOfService := rfl
@[simp] theorem State.takeEffect_revoked (s : State) (k : Nat) (a : Bool) : (s.takeEffect k a).revoked = s.revoked := rfl
@[simp] theorem State.takeEffect_hostIrqs (s : State) (k : Nat) (a : Bool) : (s.takeEffect k a).hostIrqs = s.hostIrqs := rfl
@[simp] theorem State.takeEffect_pkg (s : State) (k : Nat) (a : Bool) : (s.takeEffect k a).pkg = s.pkg := rfl
@[simp] theorem State.takeEffect_jobs (s : State) (k : Nat) (a : Bool) : (s.takeEffect k a).jobs = s.jobs := rfl
@[simp] theorem State.takeEffect_slices (s : State) (k : Nat) (a : Bool) : (s.takeEffect k a).slices = s.slices := rfl
@[simp] theorem State.takeEffect_images (s : State) (k : Nat) (a : Bool) : (s.takeEffect k a).images = s.images := rfl
@[simp] theorem State.takeEffect_nextHandle (s : State) (k : Nat) (a : Bool) : (s.takeEffect k a).nextHandle = s.nextHandle := rfl
@[simp] theorem State.takeEffect_admits (s : State) (k : Nat) (a : Bool) : (s.takeEffect k a).admits = s.admits := rfl
@[simp] theorem State.takeEffect_scWindow (s : State) (k : Nat) (a : Bool) : (s.takeEffect k a).scWindow = s.scWindow := rfl
@[simp] theorem State.takeEffect_msgs (s : State) (k : Nat) (a : Bool) : (s.takeEffect k a).msgs = s.msgs := rfl
@[simp] theorem State.takeEffect_views (s : State) (k : Nat) (a : Bool) : (s.takeEffect k a).views = s.views := rfl
@[simp] theorem State.takeEffect_scheds (s : State) (k : Nat) (a : Bool) : (s.takeEffect k a).scheds = s.scheds := rfl
@[simp] theorem State.takeEffect_rails (s : State) (k : Nat) (a : Bool) : (s.takeEffect k a).rails = s.rails := rfl
@[simp] theorem State.takeEffect_govLim (s : State) (k : Nat) (a : Bool) : (s.takeEffect k a).govLim = s.govLim := rfl
@[simp] theorem State.takeEffect_govCnt (s : State) (k : Nat) (a : Bool) : (s.takeEffect k a).govCnt = s.govCnt := rfl
@[simp] theorem State.takeEffect_throttled (s : State) (k : Nat) (a : Bool) : (s.takeEffect k a).throttled = s.throttled := rfl
@[simp] theorem State.takeEffect_ctlImages (s : State) (k : Nat) (a : Bool) : (s.takeEffect k a).ctlImages = s.ctlImages := rfl
@[simp] theorem State.takeEffect_flash (s : State) (k : Nat) (a : Bool) : (s.takeEffect k a).flash = s.flash := rfl
@[simp] theorem State.takeEffect_bootStep (s : State) (k : Nat) (a : Bool) : (s.takeEffect k a).bootStep = s.bootStep := rfl
@[simp] theorem State.takeEffect_ready (s : State) (k : Nat) (a : Bool) : (s.takeEffect k a).ready = s.ready := rfl
@[simp] theorem State.takeEffect_owner (s : State) (k : Nat) (a : Bool) : (s.takeEffect k a).owner = s.owner := rfl
@[simp] theorem State.takeEffect_fuses (s : State) (k : Nat) (a : Bool) : (s.takeEffect k a).fuses = s.fuses := rfl
@[simp] theorem State.takeEffect_meas (s : State) (k : Nat) (a : Bool) : (s.takeEffect k a).meas = s.meas := rfl
@[simp] theorem State.takeEffect_dev (s : State) (k : Nat) (a : Bool) : (s.takeEffect k a).dev = s.dev := rfl
@[simp] theorem State.takeEffect_answers (s : State) (k : Nat) (a : Bool) : (s.takeEffect k a).answers = s.answers := rfl
@[simp] theorem State.takeEffect_resetDue (s : State) (k : Nat) (a : Bool) : (s.takeEffect k a).resetDue = s.resetDue := rfl

/-! ## noteSignals -/

@[simp] theorem State.noteSignals_turns (s : State) (x : Nat) (l : List Nat) : (s.noteSignals x l).turns = s.turns := rfl
@[simp] theorem State.noteSignals_cur (s : State) (x : Nat) (l : List Nat) : (s.noteSignals x l).cur = s.cur := rfl
@[simp] theorem State.noteSignals_free (s : State) (x : Nat) (l : List Nat) : (s.noteSignals x l).free = s.free := rfl
@[simp] theorem State.noteSignals_nextId (s : State) (x : Nat) (l : List Nat) : (s.noteSignals x l).nextId = s.nextId := rfl
@[simp] theorem State.noteSignals_clk (s : State) (x : Nat) (l : List Nat) : (s.noteSignals x l).clk = s.clk := rfl
@[simp] theorem State.noteSignals_cycle (s : State) (x : Nat) (l : List Nat) : (s.noteSignals x l).cycle = s.cycle := rfl
@[simp] theorem State.noteSignals_slewHold (s : State) (x : Nat) (l : List Nat) : (s.noteSignals x l).slewHold = s.slewHold := rfl
@[simp] theorem State.noteSignals_slewAt (s : State) (x : Nat) (l : List Nat) : (s.noteSignals x l).slewAt = s.slewAt := rfl
@[simp] theorem State.noteSignals_power (s : State) (x : Nat) (l : List Nat) : (s.noteSignals x l).power = s.power := rfl
@[simp] theorem State.noteSignals_ctxs (s : State) (x : Nat) (l : List Nat) : (s.noteSignals x l).ctxs = s.ctxs := rfl
@[simp] theorem State.noteSignals_cores (s : State) (x : Nat) (l : List Nat) : (s.noteSignals x l).cores = s.cores := rfl
@[simp] theorem State.noteSignals_clusters (s : State) (x : Nat) (l : List Nat) : (s.noteSignals x l).clusters = s.clusters := rfl
@[simp] theorem State.noteSignals_groups (s : State) (x : Nat) (l : List Nat) : (s.noteSignals x l).groups = s.groups := rfl
@[simp] theorem State.noteSignals_dies (s : State) (x : Nat) (l : List Nat) : (s.noteSignals x l).dies = s.dies := rfl
@[simp] theorem State.noteSignals_worlds (s : State) (x : Nat) (l : List Nat) : (s.noteSignals x l).worlds = s.worlds := rfl
@[simp] theorem State.noteSignals_wds (s : State) (x : Nat) (l : List Nat) : (s.noteSignals x l).wds = s.wds := rfl
@[simp] theorem State.noteSignals_mem (s : State) (x : Nat) (l : List Nat) : (s.noteSignals x l).mem = s.mem := rfl
@[simp] theorem State.noteSignals_merges (s : State) (x : Nat) (l : List Nat) : (s.noteSignals x l).merges = s.merges := rfl
@[simp] theorem State.noteSignals_ues (s : State) (x : Nat) (l : List Nat) : (s.noteSignals x l).ues = s.ues := rfl
@[simp] theorem State.noteSignals_flips (s : State) (x : Nat) (l : List Nat) : (s.noteSignals x l).flips = s.flips := rfl
@[simp] theorem State.noteSignals_ops (s : State) (x : Nat) (l : List Nat) : (s.noteSignals x l).ops = s.ops := rfl
@[simp] theorem State.noteSignals_reqs (s : State) (x : Nat) (l : List Nat) : (s.noteSignals x l).reqs = s.reqs := rfl
@[simp] theorem State.noteSignals_logs (s : State) (x : Nat) (l : List Nat) : (s.noteSignals x l).logs = s.logs := rfl
@[simp] theorem State.noteSignals_elsel (s : State) (x : Nat) (l : List Nat) : (s.noteSignals x l).elsel = s.elsel := rfl
@[simp] theorem State.noteSignals_elpos (s : State) (x : Nat) (l : List Nat) : (s.noteSignals x l).elpos = s.elpos := rfl
@[simp] theorem State.noteSignals_strikes (s : State) (x : Nat) (l : List Nat) : (s.noteSignals x l).strikes = s.strikes := rfl
@[simp] theorem State.noteSignals_outOfService (s : State) (x : Nat) (l : List Nat) : (s.noteSignals x l).outOfService = s.outOfService := rfl
@[simp] theorem State.noteSignals_revoked (s : State) (x : Nat) (l : List Nat) : (s.noteSignals x l).revoked = s.revoked := rfl
@[simp] theorem State.noteSignals_hostIrqs (s : State) (x : Nat) (l : List Nat) : (s.noteSignals x l).hostIrqs = s.hostIrqs := rfl
@[simp] theorem State.noteSignals_pkg (s : State) (x : Nat) (l : List Nat) : (s.noteSignals x l).pkg = s.pkg := rfl
@[simp] theorem State.noteSignals_jobs (s : State) (x : Nat) (l : List Nat) : (s.noteSignals x l).jobs = s.jobs := rfl
@[simp] theorem State.noteSignals_slices (s : State) (x : Nat) (l : List Nat) : (s.noteSignals x l).slices = s.slices := rfl
@[simp] theorem State.noteSignals_images (s : State) (x : Nat) (l : List Nat) : (s.noteSignals x l).images = s.images := rfl
@[simp] theorem State.noteSignals_nextHandle (s : State) (x : Nat) (l : List Nat) : (s.noteSignals x l).nextHandle = s.nextHandle := rfl
@[simp] theorem State.noteSignals_admits (s : State) (x : Nat) (l : List Nat) : (s.noteSignals x l).admits = s.admits := rfl
@[simp] theorem State.noteSignals_scWindow (s : State) (x : Nat) (l : List Nat) : (s.noteSignals x l).scWindow = s.scWindow := rfl
@[simp] theorem State.noteSignals_msgs (s : State) (x : Nat) (l : List Nat) : (s.noteSignals x l).msgs = s.msgs := rfl
@[simp] theorem State.noteSignals_views (s : State) (x : Nat) (l : List Nat) : (s.noteSignals x l).views = s.views := rfl
@[simp] theorem State.noteSignals_scheds (s : State) (x : Nat) (l : List Nat) : (s.noteSignals x l).scheds = s.scheds := rfl
@[simp] theorem State.noteSignals_rails (s : State) (x : Nat) (l : List Nat) : (s.noteSignals x l).rails = s.rails := rfl
@[simp] theorem State.noteSignals_govLim (s : State) (x : Nat) (l : List Nat) : (s.noteSignals x l).govLim = s.govLim := rfl
@[simp] theorem State.noteSignals_govCnt (s : State) (x : Nat) (l : List Nat) : (s.noteSignals x l).govCnt = s.govCnt := rfl
@[simp] theorem State.noteSignals_throttled (s : State) (x : Nat) (l : List Nat) : (s.noteSignals x l).throttled = s.throttled := rfl
@[simp] theorem State.noteSignals_ctlImages (s : State) (x : Nat) (l : List Nat) : (s.noteSignals x l).ctlImages = s.ctlImages := rfl
@[simp] theorem State.noteSignals_flash (s : State) (x : Nat) (l : List Nat) : (s.noteSignals x l).flash = s.flash := rfl
@[simp] theorem State.noteSignals_bootStep (s : State) (x : Nat) (l : List Nat) : (s.noteSignals x l).bootStep = s.bootStep := rfl
@[simp] theorem State.noteSignals_ready (s : State) (x : Nat) (l : List Nat) : (s.noteSignals x l).ready = s.ready := rfl
@[simp] theorem State.noteSignals_owner (s : State) (x : Nat) (l : List Nat) : (s.noteSignals x l).owner = s.owner := rfl
@[simp] theorem State.noteSignals_fuses (s : State) (x : Nat) (l : List Nat) : (s.noteSignals x l).fuses = s.fuses := rfl
@[simp] theorem State.noteSignals_meas (s : State) (x : Nat) (l : List Nat) : (s.noteSignals x l).meas = s.meas := rfl
@[simp] theorem State.noteSignals_dev (s : State) (x : Nat) (l : List Nat) : (s.noteSignals x l).dev = s.dev := rfl
@[simp] theorem State.noteSignals_answers (s : State) (x : Nat) (l : List Nat) : (s.noteSignals x l).answers = s.answers := rfl
@[simp] theorem State.noteSignals_resetDue (s : State) (x : Nat) (l : List Nat) : (s.noteSignals x l).resetDue = s.resetDue := rfl

/-! ## noteSent, noteAnswer -/

/-- What is noted of a request changes the list of effects alone. -/
theorem State.noteSent_only (s : State) (k x : Nat) (r : Option (Nat × Nat)) :
    s.noteSent k x r = { s with effects := (s.noteSent k x r).effects } := by
  unfold State.noteSent; split
  · split <;> rfl
  · rfl

theorem State.noteAnswer_only (s : State) (k x : Nat) (r : Option (Nat × Nat)) :
    s.noteAnswer k x r = { s with effects := (s.noteAnswer k x r).effects } := by
  unfold State.noteAnswer; split
  · split <;> rfl
  · rfl

end Sys2Proof.Machine
end

