-- ==== Sys2Proof/Laws/Table.lean ====
section
/-!
SUPPORT. Laws of sparse tables: a read after a write, and the canonical form that every write keeps.
-/
namespace Sys2Proof.Machine

theorem Tbl.get_insert {α : Type} (d : α) (k : Nat) (v : α) (t : Tbl α) (j : Nat) :
    Tbl.get d (Tbl.insert k v t) j = if j = k then v else Tbl.get d t j := by
  induction t with
  | nil => by_cases h : k = j <;> simp [Tbl.insert, Tbl.get, h, eq_comm]
  | cons p t ih =>
    obtain ⟨a, w⟩ := p
    simp only [Tbl.insert]
    split
    · by_cases h : k = j <;> simp [Tbl.get, h, eq_comm]
    · split
      · subst a; by_cases h : k = j <;> simp [Tbl.get, h, eq_comm]
      · rename_i h1 h2
        simp only [Tbl.get, ih]
        by_cases h : a = j
        · subst h; simp [Ne.symm h2]
        · simp [h]

theorem Tbl.get_filter {α : Type} (d : α) (k : Nat) (t : Tbl α) (j : Nat) :
    Tbl.get d (t.filter (fun p => p.1 ≠ k)) j = if j = k then d else Tbl.get d t j := by
  induction t with
  | nil => simp [Tbl.get]
  | cons p t ih =>
    obtain ⟨a, w⟩ := p
    by_cases h : a = k
    · subst h
      simp only [ne_eq, decide_not, List.filter_cons, decide_true, Bool.not_true, Bool.false_eq_true, if_false]
      simp only [ne_eq, decide_not] at ih
      rw [ih]
      by_cases h2 : j = a <;> simp [Tbl.get, h2, eq_comm]
    · simp only [ne_eq, decide_not, List.filter_cons, h, decide_false, Bool.not_false, if_true, Tbl.get]
      simp only [ne_eq, decide_not] at ih
      rw [ih]
      by_cases h2 : a = j
      · subst h2; simp [h]
      · simp [h2]

/-- A read after a write. -/
@[simp] theorem Tbl.get_put {α : Type} [DecidableEq α] (d : α) (t : Tbl α) (k : Nat) (v : α) (j : Nat) :
    Tbl.get d (Tbl.put d t k v) j = if j = k then v else Tbl.get d t j := by
  unfold Tbl.put
  split
  · rename_i h; subst h; exact Tbl.get_filter _ _ _ _
  · exact Tbl.get_insert _ _ _ _ _

/-- Keys rising, said of the key list. -/
theorem Tbl.rising_iff {α : Type} (t : Tbl α) : Tbl.rising t = true ↔ (t.map (·.1)).Pairwise (· < ·) := by
  induction t with
  | nil => simp [Tbl.rising]
  | cons p t ih =>
    cases t with
    | nil => simp [Tbl.rising]
    | cons q t =>
      obtain ⟨a, v⟩ := p; obtain ⟨b, w⟩ := q
      simp only [Tbl.rising, Bool.and_eq_true, decide_eq_true_eq, ih, List.map_cons, List.pairwise_cons,
        List.mem_cons, List.mem_map]
      constructor
      · rintro ⟨hab, h1, h2⟩
        refine ⟨?_, h1, h2⟩
        rintro c (rfl | ⟨x, hx, rfl⟩)
        · exact hab
        · exact Nat.lt_trans hab (h1 _ ⟨x, hx, rfl⟩)
      · rintro ⟨h0, h1, h2⟩
        exact ⟨h0 b (Or.inl rfl), h1, h2⟩

theorem Tbl.mem_insert {α : Type} (k : Nat) (v : α) (t : Tbl α) (p : Nat × α) (h : p ∈ Tbl.insert k v t) :
    p = (k, v) ∨ p ∈ t := by
  induction t with
  | nil => simpa [Tbl.insert] using h
  | cons q t ih =>
    obtain ⟨a, w⟩ := q
    simp only [Tbl.insert] at h
    split at h
    · simpa using h
    · split at h
      · simp only [List.mem_cons] at h ⊢
        rcases h with h | h
        · exact .inl h
        · exact .inr (.inr h)
      · simp only [List.mem_cons] at h ⊢
        rcases h with h | h
        · exact .inr (.inl h)
        · rcases ih h with h | h
          · exact .inl h
          · exact .inr (.inr h)

theorem Tbl.rising_insert {α : Type} (k : Nat) (v : α) (t : Tbl α) (h : Tbl.rising t = true) :
    Tbl.rising (Tbl.insert k v t) = true := by
  rw [Tbl.rising_iff] at h ⊢
  induction t with
  | nil => simp [Tbl.insert]
  | cons p t ih =>
    obtain ⟨a, w⟩ := p
    simp only [List.map_cons, List.pairwise_cons, List.mem_map] at h
    simp only [Tbl.insert]
    split
    · rename_i hk
      simp only [List.map_cons, List.pairwise_cons, List.mem_cons, List.mem_map]
      refine ⟨?_, h⟩
      rintro c (rfl | ⟨x, hx, rfl⟩)
      · exact hk
      · exact Nat.lt_trans hk (h.1 _ ⟨x, hx, rfl⟩)
    · split
      · rename_i _ hk; subst hk
        simp only [List.map_cons, List.pairwise_cons, List.mem_map]
        exact h
      · rename_i h1 h2
        simp only [List.map_cons, List.pairwise_cons, List.mem_map]
        refine ⟨?_, ih h.2⟩
        rintro c ⟨x, hx, rfl⟩
        rcases Tbl.mem_insert _ _ _ _ hx with rfl | hx
        · show a < k; omega
        · exact h.1 _ ⟨x, hx, rfl⟩

/-- EVERY WRITE KEEPS THE CANONICAL FORM. -/
theorem Tbl.wf_put {α : Type} [DecidableEq α] (d : α) (t : Tbl α) (k : Nat) (v : α) (h : Tbl.wf d t = true) :
    Tbl.wf d (Tbl.put d t k v) = true := by
  simp only [Tbl.wf, Bool.and_eq_true, List.all_eq_true, decide_eq_true_eq] at h ⊢
  unfold Tbl.put
  split
  · refine ⟨?_, fun p hp => h.2 p (List.mem_of_mem_filter hp)⟩
    have h1 := (Tbl.rising_iff t).mp h.1
    rw [Tbl.rising_iff]
    exact h1.sublist (List.filter_sublist.map _)
  · rename_i hv
    refine ⟨Tbl.rising_insert _ _ _ h.1, fun p hp => ?_⟩
    rcases Tbl.mem_insert _ _ _ _ hp with rfl | hp
    · exact hv
    · exact h.2 p hp

end Sys2Proof.Machine
end

