-- ==== Sys2Proof/Laws/Memory.lean ====
section
/-!
SUPPORT. Laws of memory: reads after writes, and the canonical form that every memory operation keeps.
-/
namespace Sys2Proof.Machine

@[simp] theorem State.byte_setByte (s : State) (a : Nat) (b : Byte) (x : Nat) :
    (s.setByte a b).byte x = if x = a then b else s.byte x := by
  simp [State.byte, State.setByte]

theorem State.byte_setBytes (s : State) (a : Nat) (l : List Byte) (x : Nat) :
    (s.setBytes a l).byte x = if a ≤ x ∧ x < a + l.length then l.getD (x - a) 0 else s.byte x := by
  induction l generalizing s a with
  | nil =>
    simp [State.setBytes]
  | cons b t ih =>
    simp only [State.setBytes, ih, State.byte_setByte, List.length_cons]
    by_cases h1 : a + 1 ≤ x ∧ x < a + 1 + t.length
    · have h2 : a ≤ x ∧ x < a + (t.length + 1) := by omega
      have h3 : x - a = (x - (a + 1)) + 1 := by omega
      rw [if_pos h1, if_pos h2, h3]
      simp
    · rw [if_neg h1]
      by_cases h2 : x = a
      · subst h2; simp
      · have h3 : ¬ (a ≤ x ∧ x < a + (t.length + 1)) := by omega
        rw [if_neg h2, if_neg h3]

/-- A write leaves every byte outside it alone. -/
theorem State.byte_setBytes_of_not (s : State) (a : Nat) (l : List Byte) (x : Nat) (h : x < a ∨ a + l.length ≤ x) :
    (s.setBytes a l).byte x = s.byte x := by
  rw [State.byte_setBytes, if_neg (by omega)]

@[simp] theorem leBytes_length (v n : Nat) : (leBytes v n).length = n := by
  induction n generalizing v with
  | zero => rfl
  | succ n ih => simp [leBytes, ih]

theorem leValue_leBytes (v n : Nat) : leValue (leBytes v n) = v % 256 ^ n := by
  induction n generalizing v with
  | zero => simp [leBytes, leValue, Nat.mod_one]
  | succ n ih =>
    simp only [leBytes, leValue, ih, BitVec.toNat_ofNat]
    rw [show (256 : Nat) ^ (n + 1) = 256 * 256 ^ n by rw [Nat.pow_succ, Nat.mul_comm], Nat.mod_mul]

@[simp] theorem State.bytes_length (s : State) (a n : Nat) : (s.bytes a n).length = n := by
  induction n generalizing a with
  | zero => rfl
  | succ n ih => simp [State.bytes, ih]

theorem State.bytes_getD (s : State) (a n i : Nat) (h : i < n) : (s.bytes a n).getD i 0 = s.byte (a + i) := by
  induction n generalizing a i with
  | zero => omega
  | succ n ih =>
    cases i with
    | zero => simp [State.bytes]
    | succ i =>
      simp only [State.bytes, List.getD_cons_succ]
      rw [ih _ _ (by omega)]
      congr 1; omega

/-- Two byte strings of states agree where the bytes do. -/
theorem State.bytes_congr (s t : State) (a n : Nat) (h : ∀ i, i < n → s.byte (a + i) = t.byte (a + i)) :
    s.bytes a n = t.bytes a n := by
  induction n generalizing a with
  | zero => rfl
  | succ n ih =>
    simp only [State.bytes]
    rw [show s.byte a = t.byte a from by simpa using h 0 (by omega),
      ih (a + 1) (fun i hi => by have := h (i + 1) (by omega); rwa [show a + (i + 1) = a + 1 + i from by omega] at this)]

theorem State.bytes_setBytes_self (s : State) (a : Nat) (l : List Byte) : (s.setBytes a l).bytes a l.length = l := by
  induction l generalizing s a with
  | nil => rfl
  | cons b t ih =>
    simp only [State.setBytes, List.length_cons, State.bytes, ih]
    congr 1
    rw [State.byte_setBytes_of_not _ _ _ _ (by omega)]
    simp

/-- A read of n bytes after a write of n bytes to the same place. -/
theorem State.readMem_writeMem (s : State) (a n v : Nat) : (s.writeMem a n v).readMem a n = v % 256 ^ n := by
  have h := State.bytes_setBytes_self s a (leBytes v n)
  simp only [leBytes_length] at h
  simp [State.readMem, State.writeMem, h, leValue_leBytes]

/-- A read elsewhere sees the old bytes. -/
theorem State.readMem_writeMem_of_apart (s : State) (a n v b m : Nat) (h : b + m ≤ a ∨ a + n ≤ b) :
    (s.writeMem a n v).readMem b m = s.readMem b m := by
  unfold State.readMem
  congr 1
  apply State.bytes_congr
  intro i hi
  exact State.byte_setBytes_of_not _ _ _ _ (by simp; omega)

/-! ## The canonical form -/

theorem wf_setByte (s : State) (a : Nat) (b : Byte) (h : Memory.wf s.mem = true) :
    Memory.wf (s.setByte a b).mem = true := Tbl.wf_put _ _ _ _ h

theorem wf_setBytes (s : State) (a : Nat) (l : List Byte) (h : Memory.wf s.mem = true) :
    Memory.wf (s.setBytes a l).mem = true := by
  induction l generalizing s a with
  | nil => exact h
  | cons b t ih => exact ih _ _ (wf_setByte _ _ _ h)

theorem wf_writeMem (s : State) (a n v : Nat) (h : Memory.wf s.mem = true) :
    Memory.wf (s.writeMem a n v).mem = true := wf_setBytes _ _ _ h

theorem wf_foldl {α : Type} (l : List α) (f : State → α → State) (s : State)
    (hf : ∀ s x, Memory.wf s.mem = true → Memory.wf (f s x).mem = true) (h : Memory.wf s.mem = true) :
    Memory.wf (l.foldl f s).mem = true := by
  induction l generalizing s with
  | nil => exact h
  | cons x t ih => exact ih _ (hf _ _ h)

theorem reset_memory_wf : Memory.wf State.reset.mem = true := rfl

end Sys2Proof.Machine
end

