-- ==== Sys2Proof/Laws/Context.lean ====
section
/-!
SUPPORT. What the updates of a context leave unchanged: one lemma per field per update.
-/
namespace Sys2Proof.Machine

/-! ## writeS -/

@[simp] theorem Ctx.writeS_kind (c : Ctx) (r : SReg) (v : Word) : (c.writeS r v).kind = c.kind := by
  unfold Ctx.writeS; split <;> rfl
@[simp] theorem Ctx.writeS_run (c : Ctx) (r : SReg) (v : Word) : (c.writeS r v).run = c.run := by
  unfold Ctx.writeS; split <;> rfl
@[simp] theorem Ctx.writeS_world (c : Ctx) (r : SReg) (v : Word) : (c.writeS r v).world = c.world := by
  unfold Ctx.writeS; split <;> rfl
@[simp] theorem Ctx.writeS_die (c : Ctx) (r : SReg) (v : Word) : (c.writeS r v).die = c.die := by
  unfold Ctx.writeS; split <;> rfl
@[simp] theorem Ctx.writeS_cluster (c : Ctx) (r : SReg) (v : Word) : (c.writeS r v).cluster = c.cluster := by
  unfold Ctx.writeS; split <;> rfl
@[simp] theorem Ctx.writeS_core (c : Ctx) (r : SReg) (v : Word) : (c.writeS r v).core = c.core := by
  unfold Ctx.writeS; split <;> rfl
@[simp] theorem Ctx.writeS_slot (c : Ctx) (r : SReg) (v : Word) : (c.writeS r v).slot = c.slot := by
  unfold Ctx.writeS; split <;> rfl
@[simp] theorem Ctx.writeS_pc (c : Ctx) (r : SReg) (v : Word) : (c.writeS r v).pc = c.pc := by
  unfold Ctx.writeS; split <;> rfl
@[simp] theorem Ctx.writeS_priv (c : Ctx) (r : SReg) (v : Word) : (c.writeS r v).priv = c.priv := by
  unfold Ctx.writeS; split <;> rfl
@[simp] theorem Ctx.writeS_fb (c : Ctx) (r : SReg) (v : Word) : (c.writeS r v).fb = c.fb := by
  unfold Ctx.writeS; split <;> rfl
@[simp] theorem Ctx.writeS_wlow (c : Ctx) (r : SReg) (v : Word) : (c.writeS r v).wlow = c.wlow := by
  unfold Ctx.writeS; split <;> rfl
@[simp] theorem Ctx.writeS_bsp (c : Ctx) (r : SReg) (v : Word) : (c.writeS r v).bsp = c.bsp := by
  unfold Ctx.writeS; split <;> rfl
@[simp] theorem Ctx.writeS_bsl (c : Ctx) (r : SReg) (v : Word) : (c.writeS r v).bsl = c.bsl := by
  unfold Ctx.writeS; split <;> rfl
@[simp] theorem Ctx.writeS_ba (c : Ctx) (r : SReg) (v : Word) : (c.writeS r v).ba = c.ba := by
  unfold Ctx.writeS; split <;> rfl
@[simp] theorem Ctx.writeS_masks (c : Ctx) (r : SReg) (v : Word) : (c.writeS r v).masks = c.masks := by
  unfold Ctx.writeS; split <;> rfl
@[simp] theorem Ctx.writeS_loads (c : Ctx) (r : SReg) (v : Word) : (c.writeS r v).loads = c.loads := by
  unfold Ctx.writeS; split <;> rfl
@[simp] theorem Ctx.writeS_stores (c : Ctx) (r : SReg) (v : Word) : (c.writeS r v).stores = c.stores := by
  unfold Ctx.writeS; split <;> rfl
@[simp] theorem Ctx.writeS_copies (c : Ctx) (r : SReg) (v : Word) : (c.writeS r v).copies = c.copies := by
  unfold Ctx.writeS; split <;> rfl
@[simp] theorem Ctx.writeS_tiles (c : Ctx) (r : SReg) (v : Word) : (c.writeS r v).tiles = c.tiles := by
  unfold Ctx.writeS; split <;> rfl
@[simp] theorem Ctx.writeS_ast (c : Ctx) (r : SReg) (v : Word) : (c.writeS r v).ast = c.ast := by
  unfold Ctx.writeS; split <;> rfl
@[simp] theorem Ctx.writeS_hgrant (c : Ctx) (r : SReg) (v : Word) : (c.writeS r v).hgrant = c.hgrant := by
  unfold Ctx.writeS; split <;> rfl
@[simp] theorem Ctx.writeS_planes (c : Ctx) (r : SReg) (v : Word) : (c.writeS r v).planes = c.planes := by
  unfold Ctx.writeS; split <;> rfl
@[simp] theorem Ctx.writeS_rows (c : Ctx) (r : SReg) (v : Word) : (c.writeS r v).rows = c.rows := by
  unfold Ctx.writeS; split <;> rfl
@[simp] theorem Ctx.writeS_cols (c : Ctx) (r : SReg) (v : Word) : (c.writeS r v).cols = c.cols := by
  unfold Ctx.writeS; split <;> rfl
@[simp] theorem Ctx.writeS_trap (c : Ctx) (r : SReg) (v : Word) : (c.writeS r v).trap = c.trap := by
  unfold Ctx.writeS; split <;> rfl
@[simp] theorem Ctx.writeS_pending (c : Ctx) (r : SReg) (v : Word) : (c.writeS r v).pending = c.pending := by
  unfold Ctx.writeS; split <;> rfl
@[simp] theorem Ctx.writeS_holdBack (c : Ctx) (r : SReg) (v : Word) : (c.writeS r v).holdBack = c.holdBack := by
  unfold Ctx.writeS; split <;> rfl
@[simp] theorem Ctx.writeS_notices (c : Ctx) (r : SReg) (v : Word) : (c.writeS r v).notices = c.notices := by
  unfold Ctx.writeS; split <;> rfl
@[simp] theorem Ctx.writeS_notqOvf (c : Ctx) (r : SReg) (v : Word) : (c.writeS r v).notqOvf = c.notqOvf := by
  unfold Ctx.writeS; split <;> rfl
@[simp] theorem Ctx.writeS_pnote (c : Ctx) (r : SReg) (v : Word) : (c.writeS r v).pnote = c.pnote := by
  unfold Ctx.writeS; split <;> rfl
@[simp] theorem Ctx.writeS_preq (c : Ctx) (r : SReg) (v : Word) : (c.writeS r v).preq = c.preq := by
  unfold Ctx.writeS; split <;> rfl
@[simp] theorem Ctx.writeS_pdeadAt (c : Ctx) (r : SReg) (v : Word) : (c.writeS r v).pdeadAt = c.pdeadAt := by
  unfold Ctx.writeS; split <;> rfl
@[simp] theorem Ctx.writeS_restored (c : Ctx) (r : SReg) (v : Word) : (c.writeS r v).restored = c.restored := by
  unfold Ctx.writeS; split <;> rfl
@[simp] theorem Ctx.writeS_exitValue (c : Ctx) (r : SReg) (v : Word) : (c.writeS r v).exitValue = c.exitValue := by
  unfold Ctx.writeS; split <;> rfl
@[simp] theorem Ctx.writeS_exitReason (c : Ctx) (r : SReg) (v : Word) : (c.writeS r v).exitReason = c.exitReason := by
  unfold Ctx.writeS; split <;> rfl
@[simp] theorem Ctx.writeS_arrivals (c : Ctx) (r : SReg) (v : Word) : (c.writeS r v).arrivals = c.arrivals := by
  unfold Ctx.writeS; split <;> rfl
@[simp] theorem Ctx.writeS_fetched (c : Ctx) (r : SReg) (v : Word) : (c.writeS r v).fetched = c.fetched := by
  unfold Ctx.writeS; split <;> rfl
@[simp] theorem Ctx.writeS_fetching (c : Ctx) (r : SReg) (v : Word) : (c.writeS r v).fetching = c.fetching := by
  unfold Ctx.writeS; split <;> rfl
@[simp] theorem Ctx.writeS_fetchAt (c : Ctx) (r : SReg) (v : Word) : (c.writeS r v).fetchAt = c.fetchAt := by
  unfold Ctx.writeS; split <;> rfl
@[simp] theorem Ctx.writeS_slipFrozen (c : Ctx) (r : SReg) (v : Word) : (c.writeS r v).slipFrozen = c.slipFrozen := by
  unfold Ctx.writeS; split <;> rfl
@[simp] theorem Ctx.writeS_slipEvents (c : Ctx) (r : SReg) (v : Word) : (c.writeS r v).slipEvents = c.slipEvents := by
  unfold Ctx.writeS; split <;> rfl
@[simp] theorem Ctx.writeS_gidx (c : Ctx) (r : SReg) (v : Word) : (c.writeS r v).gidx = c.gidx := by
  unfold Ctx.writeS; split <;> rfl
@[simp] theorem Ctx.writeS_ginfo (c : Ctx) (r : SReg) (v : Word) : (c.writeS r v).ginfo = c.ginfo := by
  unfold Ctx.writeS; split <;> rfl
@[simp] theorem Ctx.writeS_arg (c : Ctx) (r : SReg) (v : Word) : (c.writeS r v).arg = c.arg := by
  unfold Ctx.writeS; split <;> rfl
@[simp] theorem Ctx.writeS_grank (c : Ctx) (r : SReg) (v : Word) : (c.writeS r v).grank = c.grank := by
  unfold Ctx.writeS; split <;> rfl
@[simp] theorem Ctx.writeS_meter (c : Ctx) (r : SReg) (v : Word) : (c.writeS r v).meter = c.meter := by
  unfold Ctx.writeS; split <;> rfl
@[simp] theorem Ctx.writeS_phase (c : Ctx) (r : SReg) (v : Word) : (c.writeS r v).phase = c.phase := by
  unfold Ctx.writeS; split <;> rfl
@[simp] theorem Ctx.writeS_waitEntries (c : Ctx) (r : SReg) (v : Word) : (c.writeS r v).waitEntries = c.waitEntries := by
  unfold Ctx.writeS; split <;> rfl
@[simp] theorem Ctx.writeS_owed (c : Ctx) (r : SReg) (v : Word) : (c.writeS r v).owed = c.owed := by
  unfold Ctx.writeS; split <;> rfl
@[simp] theorem Ctx.writeS_waitSubs (c : Ctx) (r : SReg) (v : Word) : (c.writeS r v).waitSubs = c.waitSubs := by
  unfold Ctx.writeS; split <;> rfl
@[simp] theorem Ctx.writeS_released (c : Ctx) (r : SReg) (v : Word) : (c.writeS r v).released = c.released := by
  unfold Ctx.writeS; split <;> rfl
@[simp] theorem Ctx.writeS_demandFault (c : Ctx) (r : SReg) (v : Word) : (c.writeS r v).demandFault = c.demandFault := by
  unfold Ctx.writeS; split <;> rfl
@[simp] theorem Ctx.writeS_demandAge (c : Ctx) (r : SReg) (v : Word) : (c.writeS r v).demandAge = c.demandAge := by
  unfold Ctx.writeS; split <;> rfl
@[simp] theorem Ctx.writeS_demandId (c : Ctx) (r : SReg) (v : Word) : (c.writeS r v).demandId = c.demandId := by
  unfold Ctx.writeS; split <;> rfl
@[simp] theorem Ctx.writeS_forcing (c : Ctx) (r : SReg) (v : Word) : (c.writeS r v).forcing = c.forcing := by
  unfold Ctx.writeS; split <;> rfl
@[simp] theorem Ctx.writeS_lates (c : Ctx) (r : SReg) (v : Word) : (c.writeS r v).lates = c.lates := by
  unfold Ctx.writeS; split <;> rfl
@[simp] theorem Ctx.writeS_limitAt (c : Ctx) (r : SReg) (v : Word) : (c.writeS r v).limitAt = c.limitAt := by
  unfold Ctx.writeS; split <;> rfl
@[simp] theorem Ctx.writeS_rank (c : Ctx) (r : SReg) (v : Word) : (c.writeS r v).rank = c.rank := by
  unfold Ctx.writeS; split <;> rfl
@[simp] theorem Ctx.writeS_handles (c : Ctx) (r : SReg) (v : Word) : (c.writeS r v).handles = c.handles := by
  unfold Ctx.writeS; split <;> rfl
@[simp] theorem Ctx.writeS_pulse (c : Ctx) (r : SReg) (v : Word) : (c.writeS r v).pulse = c.pulse := by
  unfold Ctx.writeS; split <;> rfl
@[simp] theorem Ctx.writeS_cipend (c : Ctx) (r : SReg) (v : Word) : (c.writeS r v).cipend = c.cipend := by
  unfold Ctx.writeS; split <;> rfl
@[simp] theorem Ctx.writeS_cien (c : Ctx) (r : SReg) (v : Word) : (c.writeS r v).cien = c.cien := by
  unfold Ctx.writeS; split <;> rfl
@[simp] theorem Ctx.writeS_civec (c : Ctx) (r : SReg) (v : Word) : (c.writeS r v).civec = c.civec := by
  unfold Ctx.writeS; split <;> rfl
@[simp] theorem Ctx.writeS_ciret (c : Ctx) (r : SReg) (v : Word) : (c.writeS r v).ciret = c.ciret := by
  unfold Ctx.writeS; split <;> rfl
@[simp] theorem Ctx.writeS_cfault (c : Ctx) (r : SReg) (v : Word) : (c.writeS r v).cfault = c.cfault := by
  unfold Ctx.writeS; split <;> rfl
@[simp] theorem Ctx.writeS_cfaddr (c : Ctx) (r : SReg) (v : Word) : (c.writeS r v).cfaddr = c.cfaddr := by
  unfold Ctx.writeS; split <;> rfl
@[simp] theorem Ctx.writeS_cfinfo (c : Ctx) (r : SReg) (v : Word) : (c.writeS r v).cfinfo = c.cfinfo := by
  unfold Ctx.writeS; split <;> rfl
@[simp] theorem Ctx.writeS_waiting (c : Ctx) (r : SReg) (v : Word) : (c.writeS r v).waiting = c.waiting := by
  unfold Ctx.writeS; split <;> rfl

/-! ## writePos, setMask -/

@[simp] theorem Ctx.writePos_kind (c : Ctx) (p : Nat) (v : Word) : (c.writePos p v).kind = c.kind := rfl
@[simp] theorem Ctx.writePos_run (c : Ctx) (p : Nat) (v : Word) : (c.writePos p v).run = c.run := rfl
@[simp] theorem Ctx.writePos_world (c : Ctx) (p : Nat) (v : Word) : (c.writePos p v).world = c.world := rfl
@[simp] theorem Ctx.writePos_die (c : Ctx) (p : Nat) (v : Word) : (c.writePos p v).die = c.die := rfl
@[simp] theorem Ctx.writePos_cluster (c : Ctx) (p : Nat) (v : Word) : (c.writePos p v).cluster = c.cluster := rfl
@[simp] theorem Ctx.writePos_core (c : Ctx) (p : Nat) (v : Word) : (c.writePos p v).core = c.core := rfl
@[simp] theorem Ctx.writePos_slot (c : Ctx) (p : Nat) (v : Word) : (c.writePos p v).slot = c.slot := rfl
@[simp] theorem Ctx.writePos_pc (c : Ctx) (p : Nat) (v : Word) : (c.writePos p v).pc = c.pc := rfl
@[simp] theorem Ctx.writePos_priv (c : Ctx) (p : Nat) (v : Word) : (c.writePos p v).priv = c.priv := rfl
@[simp] theorem Ctx.writePos_fb (c : Ctx) (p : Nat) (v : Word) : (c.writePos p v).fb = c.fb := rfl
@[simp] theorem Ctx.writePos_wlow (c : Ctx) (p : Nat) (v : Word) : (c.writePos p v).wlow = c.wlow := rfl
@[simp] theorem Ctx.writePos_bsp (c : Ctx) (p : Nat) (v : Word) : (c.writePos p v).bsp = c.bsp := rfl
@[simp] theorem Ctx.writePos_bsl (c : Ctx) (p : Nat) (v : Word) : (c.writePos p v).bsl = c.bsl := rfl
@[simp] theorem Ctx.writePos_ba (c : Ctx) (p : Nat) (v : Word) : (c.writePos p v).ba = c.ba := rfl
@[simp] theorem Ctx.writePos_masks (c : Ctx) (p : Nat) (v : Word) : (c.writePos p v).masks = c.masks := rfl
@[simp] theorem Ctx.writePos_loads (c : Ctx) (p : Nat) (v : Word) : (c.writePos p v).loads = c.loads := rfl
@[simp] theorem Ctx.writePos_stores (c : Ctx) (p : Nat) (v : Word) : (c.writePos p v).stores = c.stores := rfl
@[simp] theorem Ctx.writePos_copies (c : Ctx) (p : Nat) (v : Word) : (c.writePos p v).copies = c.copies := rfl
@[simp] theorem Ctx.writePos_tiles (c : Ctx) (p : Nat) (v : Word) : (c.writePos p v).tiles = c.tiles := rfl
@[simp] theorem Ctx.writePos_ast (c : Ctx) (p : Nat) (v : Word) : (c.writePos p v).ast = c.ast := rfl
@[simp] theorem Ctx.writePos_hgrant (c : Ctx) (p : Nat) (v : Word) : (c.writePos p v).hgrant = c.hgrant := rfl
@[simp] theorem Ctx.writePos_planes (c : Ctx) (p : Nat) (v : Word) : (c.writePos p v).planes = c.planes := rfl
@[simp] theorem Ctx.writePos_rows (c : Ctx) (p : Nat) (v : Word) : (c.writePos p v).rows = c.rows := rfl
@[simp] theorem Ctx.writePos_cols (c : Ctx) (p : Nat) (v : Word) : (c.writePos p v).cols = c.cols := rfl
@[simp] theorem Ctx.writePos_trap (c : Ctx) (p : Nat) (v : Word) : (c.writePos p v).trap = c.trap := rfl
@[simp] theorem Ctx.writePos_pending (c : Ctx) (p : Nat) (v : Word) : (c.writePos p v).pending = c.pending := rfl
@[simp] theorem Ctx.writePos_holdBack (c : Ctx) (p : Nat) (v : Word) : (c.writePos p v).holdBack = c.holdBack := rfl
@[simp] theorem Ctx.writePos_notices (c : Ctx) (p : Nat) (v : Word) : (c.writePos p v).notices = c.notices := rfl
@[simp] theorem Ctx.writePos_notqOvf (c : Ctx) (p : Nat) (v : Word) : (c.writePos p v).notqOvf = c.notqOvf := rfl
@[simp] theorem Ctx.writePos_pnote (c : Ctx) (p : Nat) (v : Word) : (c.writePos p v).pnote = c.pnote := rfl
@[simp] theorem Ctx.writePos_preq (c : Ctx) (p : Nat) (v : Word) : (c.writePos p v).preq = c.preq := rfl
@[simp] theorem Ctx.writePos_pdeadAt (c : Ctx) (p : Nat) (v : Word) : (c.writePos p v).pdeadAt = c.pdeadAt := rfl
@[simp] theorem Ctx.writePos_restored (c : Ctx) (p : Nat) (v : Word) : (c.writePos p v).restored = c.restored := rfl
@[simp] theorem Ctx.writePos_exitValue (c : Ctx) (p : Nat) (v : Word) : (c.writePos p v).exitValue = c.exitValue := rfl
@[simp] theorem Ctx.writePos_exitReason (c : Ctx) (p : Nat) (v : Word) : (c.writePos p v).exitReason = c.exitReason := rfl
@[simp] theorem Ctx.writePos_arrivals (c : Ctx) (p : Nat) (v : Word) : (c.writePos p v).arrivals = c.arrivals := rfl
@[simp] theorem Ctx.writePos_fetched (c : Ctx) (p : Nat) (v : Word) : (c.writePos p v).fetched = c.fetched := rfl
@[simp] theorem Ctx.writePos_fetching (c : Ctx) (p : Nat) (v : Word) : (c.writePos p v).fetching = c.fetching := rfl
@[simp] theorem Ctx.writePos_fetchAt (c : Ctx) (p : Nat) (v : Word) : (c.writePos p v).fetchAt = c.fetchAt := rfl
@[simp] theorem Ctx.writePos_slipFrozen (c : Ctx) (p : Nat) (v : Word) : (c.writePos p v).slipFrozen = c.slipFrozen := rfl
@[simp] theorem Ctx.writePos_slipEvents (c : Ctx) (p : Nat) (v : Word) : (c.writePos p v).slipEvents = c.slipEvents := rfl
@[simp] theorem Ctx.writePos_gidx (c : Ctx) (p : Nat) (v : Word) : (c.writePos p v).gidx = c.gidx := rfl
@[simp] theorem Ctx.writePos_ginfo (c : Ctx) (p : Nat) (v : Word) : (c.writePos p v).ginfo = c.ginfo := rfl
@[simp] theorem Ctx.writePos_arg (c : Ctx) (p : Nat) (v : Word) : (c.writePos p v).arg = c.arg := rfl
@[simp] theorem Ctx.writePos_grank (c : Ctx) (p : Nat) (v : Word) : (c.writePos p v).grank = c.grank := rfl
@[simp] theorem Ctx.writePos_meter (c : Ctx) (p : Nat) (v : Word) : (c.writePos p v).meter = c.meter := rfl
@[simp] theorem Ctx.writePos_phase (c : Ctx) (p : Nat) (v : Word) : (c.writePos p v).phase = c.phase := rfl
@[simp] theorem Ctx.writePos_waitEntries (c : Ctx) (p : Nat) (v : Word) : (c.writePos p v).waitEntries = c.waitEntries := rfl
@[simp] theorem Ctx.writePos_owed (c : Ctx) (p : Nat) (v : Word) : (c.writePos p v).owed = c.owed := rfl
@[simp] theorem Ctx.writePos_waitSubs (c : Ctx) (p : Nat) (v : Word) : (c.writePos p v).waitSubs = c.waitSubs := rfl
@[simp] theorem Ctx.writePos_released (c : Ctx) (p : Nat) (v : Word) : (c.writePos p v).released = c.released := rfl
@[simp] theorem Ctx.writePos_demandFault (c : Ctx) (p : Nat) (v : Word) : (c.writePos p v).demandFault = c.demandFault := rfl
@[simp] theorem Ctx.writePos_demandAge (c : Ctx) (p : Nat) (v : Word) : (c.writePos p v).demandAge = c.demandAge := rfl
@[simp] theorem Ctx.writePos_demandId (c : Ctx) (p : Nat) (v : Word) : (c.writePos p v).demandId = c.demandId := rfl
@[simp] theorem Ctx.writePos_forcing (c : Ctx) (p : Nat) (v : Word) : (c.writePos p v).forcing = c.forcing := rfl
@[simp] theorem Ctx.writePos_lates (c : Ctx) (p : Nat) (v : Word) : (c.writePos p v).lates = c.lates := rfl
@[simp] theorem Ctx.writePos_limitAt (c : Ctx) (p : Nat) (v : Word) : (c.writePos p v).limitAt = c.limitAt := rfl
@[simp] theorem Ctx.writePos_rank (c : Ctx) (p : Nat) (v : Word) : (c.writePos p v).rank = c.rank := rfl
@[simp] theorem Ctx.writePos_handles (c : Ctx) (p : Nat) (v : Word) : (c.writePos p v).handles = c.handles := rfl
@[simp] theorem Ctx.writePos_pulse (c : Ctx) (p : Nat) (v : Word) : (c.writePos p v).pulse = c.pulse := rfl
@[simp] theorem Ctx.writePos_cipend (c : Ctx) (p : Nat) (v : Word) : (c.writePos p v).cipend = c.cipend := rfl
@[simp] theorem Ctx.writePos_cien (c : Ctx) (p : Nat) (v : Word) : (c.writePos p v).cien = c.cien := rfl
@[simp] theorem Ctx.writePos_civec (c : Ctx) (p : Nat) (v : Word) : (c.writePos p v).civec = c.civec := rfl
@[simp] theorem Ctx.writePos_ciret (c : Ctx) (p : Nat) (v : Word) : (c.writePos p v).ciret = c.ciret := rfl
@[simp] theorem Ctx.writePos_cfault (c : Ctx) (p : Nat) (v : Word) : (c.writePos p v).cfault = c.cfault := rfl
@[simp] theorem Ctx.writePos_cfaddr (c : Ctx) (p : Nat) (v : Word) : (c.writePos p v).cfaddr = c.cfaddr := rfl
@[simp] theorem Ctx.writePos_cfinfo (c : Ctx) (p : Nat) (v : Word) : (c.writePos p v).cfinfo = c.cfinfo := rfl
@[simp] theorem Ctx.writePos_waiting (c : Ctx) (p : Nat) (v : Word) : (c.writePos p v).waiting = c.waiting := rfl

@[simp] theorem Ctx.setMask_kind (c : Ctx) (k : Nat) (m : BitVec 4096) : (c.setMask k m).kind = c.kind := by
  unfold Ctx.setMask; split <;> rfl
@[simp] theorem Ctx.setMask_run (c : Ctx) (k : Nat) (m : BitVec 4096) : (c.setMask k m).run = c.run := by
  unfold Ctx.setMask; split <;> rfl
@[simp] theorem Ctx.setMask_world (c : Ctx) (k : Nat) (m : BitVec 4096) : (c.setMask k m).world = c.world := by
  unfold Ctx.setMask; split <;> rfl
@[simp] theorem Ctx.setMask_die (c : Ctx) (k : Nat) (m : BitVec 4096) : (c.setMask k m).die = c.die := by
  unfold Ctx.setMask; split <;> rfl
@[simp] theorem Ctx.setMask_cluster (c : Ctx) (k : Nat) (m : BitVec 4096) : (c.setMask k m).cluster = c.cluster := by
  unfold Ctx.setMask; split <;> rfl
@[simp] theorem Ctx.setMask_core (c : Ctx) (k : Nat) (m : BitVec 4096) : (c.setMask k m).core = c.core := by
  unfold Ctx.setMask; split <;> rfl
@[simp] theorem Ctx.setMask_slot (c : Ctx) (k : Nat) (m : BitVec 4096) : (c.setMask k m).slot = c.slot := by
  unfold Ctx.setMask; split <;> rfl
@[simp] theorem Ctx.setMask_pc (c : Ctx) (k : Nat) (m : BitVec 4096) : (c.setMask k m).pc = c.pc := by
  unfold Ctx.setMask; split <;> rfl
@[simp] theorem Ctx.setMask_priv (c : Ctx) (k : Nat) (m : BitVec 4096) : (c.setMask k m).priv = c.priv := by
  unfold Ctx.setMask; split <;> rfl
@[simp] theorem Ctx.setMask_regs (c : Ctx) (k : Nat) (m : BitVec 4096) : (c.setMask k m).regs = c.regs := by
  unfold Ctx.setMask; split <;> rfl
@[simp] theorem Ctx.setMask_fb (c : Ctx) (k : Nat) (m : BitVec 4096) : (c.setMask k m).fb = c.fb := by
  unfold Ctx.setMask; split <;> rfl
@[simp] theorem Ctx.setMask_wlow (c : Ctx) (k : Nat) (m : BitVec 4096) : (c.setMask k m).wlow = c.wlow := by
  unfold Ctx.setMask; split <;> rfl
@[simp] theorem Ctx.setMask_bsp (c : Ctx) (k : Nat) (m : BitVec 4096) : (c.setMask k m).bsp = c.bsp := by
  unfold Ctx.setMask; split <;> rfl
@[simp] theorem Ctx.setMask_bsl (c : Ctx) (k : Nat) (m : BitVec 4096) : (c.setMask k m).bsl = c.bsl := by
  unfold Ctx.setMask; split <;> rfl
@[simp] theorem Ctx.setMask_ba (c : Ctx) (k : Nat) (m : BitVec 4096) : (c.setMask k m).ba = c.ba := by
  unfold Ctx.setMask; split <;> rfl
@[simp] theorem Ctx.setMask_loads (c : Ctx) (k : Nat) (m : BitVec 4096) : (c.setMask k m).loads = c.loads := by
  unfold Ctx.setMask; split <;> rfl
@[simp] theorem Ctx.setMask_stores (c : Ctx) (k : Nat) (m : BitVec 4096) : (c.setMask k m).stores = c.stores := by
  unfold Ctx.setMask; split <;> rfl
@[simp] theorem Ctx.setMask_copies (c : Ctx) (k : Nat) (m : BitVec 4096) : (c.setMask k m).copies = c.copies := by
  unfold Ctx.setMask; split <;> rfl
@[simp] theorem Ctx.setMask_tiles (c : Ctx) (k : Nat) (m : BitVec 4096) : (c.setMask k m).tiles = c.tiles := by
  unfold Ctx.setMask; split <;> rfl
@[simp] theorem Ctx.setMask_ast (c : Ctx) (k : Nat) (m : BitVec 4096) : (c.setMask k m).ast = c.ast := by
  unfold Ctx.setMask; split <;> rfl
@[simp] theorem Ctx.setMask_hgrant (c : Ctx) (k : Nat) (m : BitVec 4096) : (c.setMask k m).hgrant = c.hgrant := by
  unfold Ctx.setMask; split <;> rfl
@[simp] theorem Ctx.setMask_planes (c : Ctx) (k : Nat) (m : BitVec 4096) : (c.setMask k m).planes = c.planes := by
  unfold Ctx.setMask; split <;> rfl
@[simp] theorem Ctx.setMask_rows (c : Ctx) (k : Nat) (m : BitVec 4096) : (c.setMask k m).rows = c.rows := by
  unfold Ctx.setMask; split <;> rfl
@[simp] theorem Ctx.setMask_cols (c : Ctx) (k : Nat) (m : BitVec 4096) : (c.setMask k m).cols = c.cols := by
  unfold Ctx.setMask; split <;> rfl
@[simp] theorem Ctx.setMask_trap (c : Ctx) (k : Nat) (m : BitVec 4096) : (c.setMask k m).trap = c.trap := by
  unfold Ctx.setMask; split <;> rfl
@[simp] theorem Ctx.setMask_pending (c : Ctx) (k : Nat) (m : BitVec 4096) : (c.setMask k m).pending = c.pending := by
  unfold Ctx.setMask; split <;> rfl
@[simp] theorem Ctx.setMask_holdBack (c : Ctx) (k : Nat) (m : BitVec 4096) : (c.setMask k m).holdBack = c.holdBack := by
  unfold Ctx.setMask; split <;> rfl
@[simp] theorem Ctx.setMask_notices (c : Ctx) (k : Nat) (m : BitVec 4096) : (c.setMask k m).notices = c.notices := by
  unfold Ctx.setMask; split <;> rfl
@[simp] theorem Ctx.setMask_notqOvf (c : Ctx) (k : Nat) (m : BitVec 4096) : (c.setMask k m).notqOvf = c.notqOvf := by
  unfold Ctx.setMask; split <;> rfl
@[simp] theorem Ctx.setMask_pnote (c : Ctx) (k : Nat) (m : BitVec 4096) : (c.setMask k m).pnote = c.pnote := by
  unfold Ctx.setMask; split <;> rfl
@[simp] theorem Ctx.setMask_preq (c : Ctx) (k : Nat) (m : BitVec 4096) : (c.setMask k m).preq = c.preq := by
  unfold Ctx.setMask; split <;> rfl
@[simp] theorem Ctx.setMask_pdeadAt (c : Ctx) (k : Nat) (m : BitVec 4096) : (c.setMask k m).pdeadAt = c.pdeadAt := by
  unfold Ctx.setMask; split <;> rfl
@[simp] theorem Ctx.setMask_restored (c : Ctx) (k : Nat) (m : BitVec 4096) : (c.setMask k m).restored = c.restored := by
  unfold Ctx.setMask; split <;> rfl
@[simp] theorem Ctx.setMask_exitValue (c : Ctx) (k : Nat) (m : BitVec 4096) : (c.setMask k m).exitValue = c.exitValue := by
  unfold Ctx.setMask; split <;> rfl
@[simp] theorem Ctx.setMask_exitReason (c : Ctx) (k : Nat) (m : BitVec 4096) : (c.setMask k m).exitReason = c.exitReason := by
  unfold Ctx.setMask; split <;> rfl
@[simp] theorem Ctx.setMask_arrivals (c : Ctx) (k : Nat) (m : BitVec 4096) : (c.setMask k m).arrivals = c.arrivals := by
  unfold Ctx.setMask; split <;> rfl
@[simp] theorem Ctx.setMask_fetched (c : Ctx) (k : Nat) (m : BitVec 4096) : (c.setMask k m).fetched = c.fetched := by
  unfold Ctx.setMask; split <;> rfl
@[simp] theorem Ctx.setMask_fetching (c : Ctx) (k : Nat) (m : BitVec 4096) : (c.setMask k m).fetching = c.fetching := by
  unfold Ctx.setMask; split <;> rfl
@[simp] theorem Ctx.setMask_fetchAt (c : Ctx) (k : Nat) (m : BitVec 4096) : (c.setMask k m).fetchAt = c.fetchAt := by
  unfold Ctx.setMask; split <;> rfl
@[simp] theorem Ctx.setMask_slipFrozen (c : Ctx) (k : Nat) (m : BitVec 4096) : (c.setMask k m).slipFrozen = c.slipFrozen := by
  unfold Ctx.setMask; split <;> rfl
@[simp] theorem Ctx.setMask_slipEvents (c : Ctx) (k : Nat) (m : BitVec 4096) : (c.setMask k m).slipEvents = c.slipEvents := by
  unfold Ctx.setMask; split <;> rfl
@[simp] theorem Ctx.setMask_gidx (c : Ctx) (k : Nat) (m : BitVec 4096) : (c.setMask k m).gidx = c.gidx := by
  unfold Ctx.setMask; split <;> rfl
@[simp] theorem Ctx.setMask_ginfo (c : Ctx) (k : Nat) (m : BitVec 4096) : (c.setMask k m).ginfo = c.ginfo := by
  unfold Ctx.setMask; split <;> rfl
@[simp] theorem Ctx.setMask_arg (c : Ctx) (k : Nat) (m : BitVec 4096) : (c.setMask k m).arg = c.arg := by
  unfold Ctx.setMask; split <;> rfl
@[simp] theorem Ctx.setMask_grank (c : Ctx) (k : Nat) (m : BitVec 4096) : (c.setMask k m).grank = c.grank := by
  unfold Ctx.setMask; split <;> rfl
@[simp] theorem Ctx.setMask_meter (c : Ctx) (k : Nat) (m : BitVec 4096) : (c.setMask k m).meter = c.meter := by
  unfold Ctx.setMask; split <;> rfl
@[simp] theorem Ctx.setMask_phase (c : Ctx) (k : Nat) (m : BitVec 4096) : (c.setMask k m).phase = c.phase := by
  unfold Ctx.setMask; split <;> rfl
@[simp] theorem Ctx.setMask_waitEntries (c : Ctx) (k : Nat) (m : BitVec 4096) : (c.setMask k m).waitEntries = c.waitEntries := by
  unfold Ctx.setMask; split <;> rfl
@[simp] theorem Ctx.setMask_owed (c : Ctx) (k : Nat) (m : BitVec 4096) : (c.setMask k m).owed = c.owed := by
  unfold Ctx.setMask; split <;> rfl
@[simp] theorem Ctx.setMask_waitSubs (c : Ctx) (k : Nat) (m : BitVec 4096) : (c.setMask k m).waitSubs = c.waitSubs := by
  unfold Ctx.setMask; split <;> rfl
@[simp] theorem Ctx.setMask_released (c : Ctx) (k : Nat) (m : BitVec 4096) : (c.setMask k m).released = c.released := by
  unfold Ctx.setMask; split <;> rfl
@[simp] theorem Ctx.setMask_demandFault (c : Ctx) (k : Nat) (m : BitVec 4096) : (c.setMask k m).demandFault = c.demandFault := by
  unfold Ctx.setMask; split <;> rfl
@[simp] theorem Ctx.setMask_demandAge (c : Ctx) (k : Nat) (m : BitVec 4096) : (c.setMask k m).demandAge = c.demandAge := by
  unfold Ctx.setMask; split <;> rfl
@[simp] theorem Ctx.setMask_demandId (c : Ctx) (k : Nat) (m : BitVec 4096) : (c.setMask k m).demandId = c.demandId := by
  unfold Ctx.setMask; split <;> rfl
@[simp] theorem Ctx.setMask_forcing (c : Ctx) (k : Nat) (m : BitVec 4096) : (c.setMask k m).forcing = c.forcing := by
  unfold Ctx.setMask; split <;> rfl
@[simp] theorem Ctx.setMask_lates (c : Ctx) (k : Nat) (m : BitVec 4096) : (c.setMask k m).lates = c.lates := by
  unfold Ctx.setMask; split <;> rfl
@[simp] theorem Ctx.setMask_limitAt (c : Ctx) (k : Nat) (m : BitVec 4096) : (c.setMask k m).limitAt = c.limitAt := by
  unfold Ctx.setMask; split <;> rfl
@[simp] theorem Ctx.setMask_rank (c : Ctx) (k : Nat) (m : BitVec 4096) : (c.setMask k m).rank = c.rank := by
  unfold Ctx.setMask; split <;> rfl
@[simp] theorem Ctx.setMask_handles (c : Ctx) (k : Nat) (m : BitVec 4096) : (c.setMask k m).handles = c.handles := by
  unfold Ctx.setMask; split <;> rfl
@[simp] theorem Ctx.setMask_pulse (c : Ctx) (k : Nat) (m : BitVec 4096) : (c.setMask k m).pulse = c.pulse := by
  unfold Ctx.setMask; split <;> rfl
@[simp] theorem Ctx.setMask_cipend (c : Ctx) (k : Nat) (m : BitVec 4096) : (c.setMask k m).cipend = c.cipend := by
  unfold Ctx.setMask; split <;> rfl
@[simp] theorem Ctx.setMask_cien (c : Ctx) (k : Nat) (m : BitVec 4096) : (c.setMask k m).cien = c.cien := by
  unfold Ctx.setMask; split <;> rfl
@[simp] theorem Ctx.setMask_civec (c : Ctx) (k : Nat) (m : BitVec 4096) : (c.setMask k m).civec = c.civec := by
  unfold Ctx.setMask; split <;> rfl
@[simp] theorem Ctx.setMask_ciret (c : Ctx) (k : Nat) (m : BitVec 4096) : (c.setMask k m).ciret = c.ciret := by
  unfold Ctx.setMask; split <;> rfl
@[simp] theorem Ctx.setMask_cfault (c : Ctx) (k : Nat) (m : BitVec 4096) : (c.setMask k m).cfault = c.cfault := by
  unfold Ctx.setMask; split <;> rfl
@[simp] theorem Ctx.setMask_cfaddr (c : Ctx) (k : Nat) (m : BitVec 4096) : (c.setMask k m).cfaddr = c.cfaddr := by
  unfold Ctx.setMask; split <;> rfl
@[simp] theorem Ctx.setMask_cfinfo (c : Ctx) (k : Nat) (m : BitVec 4096) : (c.setMask k m).cfinfo = c.cfinfo := by
  unfold Ctx.setMask; split <;> rfl
@[simp] theorem Ctx.setMask_waiting (c : Ctx) (k : Nat) (m : BitVec 4096) : (c.setMask k m).waiting = c.waiting := by
  unfold Ctx.setMask; split <;> rfl

/-! ## clearWait -/

@[simp] theorem Ctx.clearWait_kind (c : Ctx) : c.clearWait.kind = c.kind := rfl
@[simp] theorem Ctx.clearWait_run (c : Ctx) : c.clearWait.run = c.run := rfl
@[simp] theorem Ctx.clearWait_world (c : Ctx) : c.clearWait.world = c.world := rfl
@[simp] theorem Ctx.clearWait_die (c : Ctx) : c.clearWait.die = c.die := rfl
@[simp] theorem Ctx.clearWait_cluster (c : Ctx) : c.clearWait.cluster = c.cluster := rfl
@[simp] theorem Ctx.clearWait_core (c : Ctx) : c.clearWait.core = c.core := rfl
@[simp] theorem Ctx.clearWait_slot (c : Ctx) : c.clearWait.slot = c.slot := rfl
@[simp] theorem Ctx.clearWait_pc (c : Ctx) : c.clearWait.pc = c.pc := rfl
@[simp] theorem Ctx.clearWait_priv (c : Ctx) : c.clearWait.priv = c.priv := rfl
@[simp] theorem Ctx.clearWait_regs (c : Ctx) : c.clearWait.regs = c.regs := rfl
@[simp] theorem Ctx.clearWait_fb (c : Ctx) : c.clearWait.fb = c.fb := rfl
@[simp] theorem Ctx.clearWait_wlow (c : Ctx) : c.clearWait.wlow = c.wlow := rfl
@[simp] theorem Ctx.clearWait_bsp (c : Ctx) : c.clearWait.bsp = c.bsp := rfl
@[simp] theorem Ctx.clearWait_bsl (c : Ctx) : c.clearWait.bsl = c.bsl := rfl
@[simp] theorem Ctx.clearWait_ba (c : Ctx) : c.clearWait.ba = c.ba := rfl
@[simp] theorem Ctx.clearWait_masks (c : Ctx) : c.clearWait.masks = c.masks := rfl
@[simp] theorem Ctx.clearWait_loads (c : Ctx) : c.clearWait.loads = c.loads := rfl
@[simp] theorem Ctx.clearWait_stores (c : Ctx) : c.clearWait.stores = c.stores := rfl
@[simp] theorem Ctx.clearWait_copies (c : Ctx) : c.clearWait.copies = c.copies := rfl
@[simp] theorem Ctx.clearWait_tiles (c : Ctx) : c.clearWait.tiles = c.tiles := rfl
@[simp] theorem Ctx.clearWait_ast (c : Ctx) : c.clearWait.ast = c.ast := rfl
@[simp] theorem Ctx.clearWait_hgrant (c : Ctx) : c.clearWait.hgrant = c.hgrant := rfl
@[simp] theorem Ctx.clearWait_planes (c : Ctx) : c.clearWait.planes = c.planes := rfl
@[simp] theorem Ctx.clearWait_rows (c : Ctx) : c.clearWait.rows = c.rows := rfl
@[simp] theorem Ctx.clearWait_cols (c : Ctx) : c.clearWait.cols = c.cols := rfl
@[simp] theorem Ctx.clearWait_trap (c : Ctx) : c.clearWait.trap = c.trap := rfl
@[simp] theorem Ctx.clearWait_pending (c : Ctx) : c.clearWait.pending = c.pending := rfl
@[simp] theorem Ctx.clearWait_holdBack (c : Ctx) : c.clearWait.holdBack = c.holdBack := rfl
@[simp] theorem Ctx.clearWait_notices (c : Ctx) : c.clearWait.notices = c.notices := rfl
@[simp] theorem Ctx.clearWait_notqOvf (c : Ctx) : c.clearWait.notqOvf = c.notqOvf := rfl
@[simp] theorem Ctx.clearWait_pnote (c : Ctx) : c.clearWait.pnote = c.pnote := rfl
@[simp] theorem Ctx.clearWait_preq (c : Ctx) : c.clearWait.preq = c.preq := rfl
@[simp] theorem Ctx.clearWait_pdeadAt (c : Ctx) : c.clearWait.pdeadAt = c.pdeadAt := rfl
@[simp] theorem Ctx.clearWait_restored (c : Ctx) : c.clearWait.restored = c.restored := rfl
@[simp] theorem Ctx.clearWait_exitValue (c : Ctx) : c.clearWait.exitValue = c.exitValue := rfl
@[simp] theorem Ctx.clearWait_exitReason (c : Ctx) : c.clearWait.exitReason = c.exitReason := rfl
@[simp] theorem Ctx.clearWait_arrivals (c : Ctx) : c.clearWait.arrivals = c.arrivals := rfl
@[simp] theorem Ctx.clearWait_fetched (c : Ctx) : c.clearWait.fetched = c.fetched := rfl
@[simp] theorem Ctx.clearWait_fetching (c : Ctx) : c.clearWait.fetching = c.fetching := rfl
@[simp] theorem Ctx.clearWait_fetchAt (c : Ctx) : c.clearWait.fetchAt = c.fetchAt := rfl
@[simp] theorem Ctx.clearWait_slipFrozen (c : Ctx) : c.clearWait.slipFrozen = c.slipFrozen := rfl
@[simp] theorem Ctx.clearWait_slipEvents (c : Ctx) : c.clearWait.slipEvents = c.slipEvents := rfl
@[simp] theorem Ctx.clearWait_gidx (c : Ctx) : c.clearWait.gidx = c.gidx := rfl
@[simp] theorem Ctx.clearWait_ginfo (c : Ctx) : c.clearWait.ginfo = c.ginfo := rfl
@[simp] theorem Ctx.clearWait_arg (c : Ctx) : c.clearWait.arg = c.arg := rfl
@[simp] theorem Ctx.clearWait_grank (c : Ctx) : c.clearWait.grank = c.grank := rfl
@[simp] theorem Ctx.clearWait_meter (c : Ctx) : c.clearWait.meter = c.meter := rfl
@[simp] theorem Ctx.clearWait_phase (c : Ctx) : c.clearWait.phase = 0 := rfl
@[simp] theorem Ctx.clearWait_waitEntries (c : Ctx) : c.clearWait.waitEntries = [] := rfl
@[simp] theorem Ctx.clearWait_owed (c : Ctx) : c.clearWait.owed = c.owed := rfl
@[simp] theorem Ctx.clearWait_waitSubs (c : Ctx) : c.clearWait.waitSubs = [] := rfl
@[simp] theorem Ctx.clearWait_released (c : Ctx) : c.clearWait.released = 0 := rfl
@[simp] theorem Ctx.clearWait_demandFault (c : Ctx) : c.clearWait.demandFault = false := rfl
@[simp] theorem Ctx.clearWait_demandAge (c : Ctx) : c.clearWait.demandAge = none := rfl
@[simp] theorem Ctx.clearWait_demandId (c : Ctx) : c.clearWait.demandId = c.demandId := rfl
@[simp] theorem Ctx.clearWait_forcing (c : Ctx) : c.clearWait.forcing = [] := rfl
@[simp] theorem Ctx.clearWait_limitAt (c : Ctx) : c.clearWait.limitAt = none := rfl
@[simp] theorem Ctx.clearWait_lates (c : Ctx) : c.clearWait.lates = c.lates := rfl
@[simp] theorem Ctx.clearWait_rank (c : Ctx) : c.clearWait.rank = c.rank := rfl
@[simp] theorem Ctx.clearWait_handles (c : Ctx) : c.clearWait.handles = c.handles := rfl
@[simp] theorem Ctx.clearWait_pulse (c : Ctx) : c.clearWait.pulse = c.pulse := rfl
@[simp] theorem Ctx.clearWait_cipend (c : Ctx) : c.clearWait.cipend = c.cipend := rfl
@[simp] theorem Ctx.clearWait_cien (c : Ctx) : c.clearWait.cien = c.cien := rfl
@[simp] theorem Ctx.clearWait_civec (c : Ctx) : c.clearWait.civec = c.civec := rfl
@[simp] theorem Ctx.clearWait_ciret (c : Ctx) : c.clearWait.ciret = c.ciret := rfl
@[simp] theorem Ctx.clearWait_cfault (c : Ctx) : c.clearWait.cfault = c.cfault := rfl
@[simp] theorem Ctx.clearWait_cfaddr (c : Ctx) : c.clearWait.cfaddr = c.cfaddr := rfl
@[simp] theorem Ctx.clearWait_cfinfo (c : Ctx) : c.clearWait.cfinfo = c.cfinfo := rfl
@[simp] theorem Ctx.clearWait_waiting (c : Ctx) : c.clearWait.waiting = c.waiting := rfl

end Sys2Proof.Machine
end

