-- ==== Sys2Proof/Laws/Issue.lean ====
section
/-!
SUPPORT. Laws of the turns and of the arbiter: no turn of a clk is lost or invented, and what a turn of a context may become.
-/
namespace Sys2Proof.Machine

@[simp] theorem advance_zero (s : State) : advance s 0 = s.tick 0 := by simp [advance]

/-- With no turn listed the current context issues after one clk. -/
theorem nextTurn_nil {s : State} (h : s.turns = []) : nextTurn s = (.ctx s.cur, advance s 1) := by simp [nextTurn, h]

/-- The first agent of a clk and the others are the agents that stood there. -/
theorem firstAgent_perm (s : State) (a : Agent) (l : List Agent) :
    ((firstAgent s a l).1 :: (firstAgent s a l).2).Perm (a :: l) := by
  induction l generalizing a with
  | nil => exact .refl _
  | cons b l ih =>
    have hb := ih b
    simp only [firstAgent]
    split
    · exact (List.Perm.swap a _ _).trans (hb.cons a)
    · exact .refl _

theorem firstAgent_length (s : State) (a : Agent) (l : List Agent) : (firstAgent s a l).2.length = l.length := by
  simpa using (firstAgent_perm s a l).length_eq

/-- A context that is not ready keeps its turn. -/
theorem arbitrate_of_not_ready {s : State} {k : Nat} (h : readyPipe s k = none) : arbitrate s k = some { s with cur := k } := by
  simp [arbitrate, h]

/-- What the arbiter picks: a slot that has not issued in this clk, of a context ready on the pipe, which has not issued either. -/
theorem issuer_some {s : State} {core slot n : Nat} {p : Bool} (h : issuer s core slot p = some n) :
    pipeUsed s core p = false ∧ slotUsed s core n = false ∧ readyPipe s (core * 16 + n) = some p := by
  unfold issuer at h
  by_cases hu : pipeUsed s core p
  · simp [hu] at h
  · rw [if_neg hu] at h
    have hq := List.find?_some h
    simp only [Bool.and_eq_true, Bool.not_eq_true', decide_eq_true_eq] at hq
    exact ⟨by simpa using hu, hq⟩

/-- A turn stays with its context, which was not ready, or goes to a context of its core that is ready on the same pipe, where
neither the pipe nor the slot has issued in this clk (R144). -/
theorem arbitrate_cases {s s' : State} {k : Nat} (h : arbitrate s k = some s') :
    (readyPipe s k = none ∧ s' = { s with cur := k }) ∨
      ∃ p n, readyPipe s k = some p ∧ pipeUsed s (k / 16) p = false ∧ slotUsed s (k / 16) n = false ∧
        readyPipe s (k / 16 * 16 + n) = some p ∧ s' = { noteIssue s (k / 16) p n with cur := k / 16 * 16 + n } := by
  unfold arbitrate at h
  cases hp : readyPipe s k with
  | none => simp only [hp, Option.some.injEq] at h; exact .inl ⟨rfl, h.symm⟩
  | some p =>
    simp only [hp, Option.map_eq_some_iff] at h
    obtain ⟨n, hn, rfl⟩ := h
    obtain ⟨hu, hs, hr⟩ := issuer_some hn
    exact .inr ⟨p, n, rfl, hu, hs, hr, rfl⟩

/-- A turn that the arbiter gives to a context stands at the place of that one's next instruction within the clk. -/
theorem ctxPlace_of_issuer {s : State} {k n : Nat} {p : Bool} (h : readyPipe s k = some p)
    (hn : issuer s (k / 16) (k % 16) p = some n) : ctxPlace s k = ownPlace s (k / 16 * 16 + n) := by
  simp [ctxPlace, h, hn]

end Sys2Proof.Machine
end

