-- ==== Sys2Proof/Laws/Ops.lean ====
section
/-!
SUPPORT. Laws of the shared operations: units read after an update, the gate, retiring.
-/
namespace Sys2Proof.Machine

/-! ## Units read after an update -/

@[simp] theorem State.ctx_setCtx (s : State) (k : Nat) (c : Ctx) (j : Nat) :
    (s.setCtx k c).ctx j = if j = k then c else s.ctx j := by simp [State.ctx, State.setCtx]
@[simp] theorem State.ctx_modCtx (s : State) (k : Nat) (f : Ctx → Ctx) (j : Nat) :
    (s.modCtx k f).ctx j = if j = k then f (s.ctx k) else s.ctx j := by simp [State.modCtx]
@[simp] theorem State.ctx_modCx (s : State) (f : Ctx → Ctx) (j : Nat) :
    (s.modCx f).ctx j = if j = s.cur then f s.cx else s.ctx j := by simp [State.modCx, State.cx]
@[simp] theorem State.cx_modCx (s : State) (f : Ctx → Ctx) : (s.modCx f).cx = f s.cx := by
  simp [State.cx, State.modCx]
@[simp] theorem State.ctx_modCore (s : State) (k : Nat) (f : Core → Core) (j : Nat) : (s.modCore k f).ctx j = s.ctx j := rfl
@[simp] theorem State.cx_modCore (s : State) (k : Nat) (f : Core → Core) : (s.modCore k f).cx = s.cx := rfl
@[simp] theorem State.cx_setByte (s : State) (a : Nat) (b : Byte) : (s.setByte a b).cx = s.cx := rfl
@[simp] theorem State.core_modCore (s : State) (k : Nat) (f : Core → Core) (j : Nat) :
    (s.modCore k f).core j = if j = k then f (s.core k) else s.core j := by simp [State.core, State.modCore]
@[simp] theorem State.cluster_modCluster (s : State) (k : Nat) (f : Cluster → Cluster) (j : Nat) :
    (s.modCluster k f).cluster j = if j = k then f (s.cluster k) else s.cluster j := by simp [State.cluster, State.modCluster]
@[simp] theorem State.group_modGroup (s : State) (k : Nat) (f : Group → Group) (j : Nat) :
    (s.modGroup k f).group j = if j = k then f (s.group k) else s.group j := by simp [State.group, State.modGroup]
@[simp] theorem State.core_modCx (s : State) (f : Ctx → Ctx) (j : Nat) : (s.modCx f).core j = s.core j := rfl
@[simp] theorem State.cluster_modCx (s : State) (f : Ctx → Ctx) (j : Nat) : (s.modCx f).cluster j = s.cluster j := rfl
@[simp] theorem State.group_modCx (s : State) (f : Ctx → Ctx) (j : Nat) : (s.modCx f).group j = s.group j := rfl
@[simp] theorem State.byte_modCx (s : State) (f : Ctx → Ctx) (a : Nat) : (s.modCx f).byte a = s.byte a := rfl
@[simp] theorem State.byte_modCtx (s : State) (k : Nat) (f : Ctx → Ctx) (a : Nat) : (s.modCtx k f).byte a = s.byte a := rfl
@[simp] theorem State.byte_modCore (s : State) (k : Nat) (f : Core → Core) (a : Nat) : (s.modCore k f).byte a = s.byte a := rfl

/-- Two updates that agree on the issuing context are one. -/
theorem State.modCx_congr {s : State} {f g : Ctx → Ctx} (h : f s.cx = g s.cx) : s.modCx f = s.modCx g :=
  congrArg (fun c => s.setCtx s.cur c) h

theorem OnlyContext.modCx (s : State) (f : Ctx → Ctx) : OnlyContext s (s.modCx f) :=
  ⟨rfl, fun k hk => by simp [hk]⟩

/-! ## Registers -/

/-- Two window registers of a context have different places. -/
theorem Ctx.posOf_ne (c : Ctx) (r d : SReg) (h : r ≠ d) : c.posOf r % 64 ≠ c.posOf d % 64 := by
  unfold Ctx.posOf
  have h1 : r.toNat < 32 := r.isLt
  have h2 : d.toNat < 32 := d.isLt
  have h3 : r.toNat ≠ d.toNat := fun e => h (BitVec.eq_of_toNat_eq e)
  omega

@[simp] theorem Ctx.readS_zero (c : Ctx) : c.readS 0 = 0 := by simp [Ctx.readS]

theorem Ctx.readS_pos (c : Ctx) (r : SReg) (h : r ≠ 0) : c.readS r = Tbl.get 0 c.regs (c.posOf r % 64) := by
  unfold Ctx.readS Ctx.readPos; rw [if_neg h]

theorem Ctx.writeS_regs (c : Ctx) (d : SReg) (v : Word) (h : d ≠ 0) :
    (c.writeS d v).regs = Tbl.put 0 c.regs (c.posOf d % 64) v := by
  unfold Ctx.writeS; rw [if_neg h]; rfl

theorem Ctx.readS_writeS (c : Ctx) (d r : SReg) (v : Word) :
    (c.writeS d v).readS r = if r = d then written d v else c.readS r := by
  by_cases h0 : r = 0
  · subst h0
    rw [Ctx.readS_zero, Ctx.readS_zero]
    by_cases hd : 0 = d
    · rw [if_pos hd, written, if_pos hd.symm]
    · rw [if_neg hd]
  · by_cases hd : d = 0
    · have : r ≠ d := by rw [hd]; exact h0
      rw [if_neg this, Ctx.writeS, if_pos hd]
    · have hp : (c.writeS d v).posOf r = c.posOf r := by simp [Ctx.posOf]
      rw [Ctx.readS_pos _ _ h0, Ctx.writeS_regs _ _ _ hd, hp, Tbl.get_put]
      by_cases hr : r = d
      · rw [hr, if_pos rfl, if_pos rfl, written, if_neg hd]
      · rw [if_neg (Ctx.posOf_ne c r d hr), if_neg hr, Ctx.readS_pos _ _ h0]

/-! ## The gate -/

theorem gate_ready {s : State} {i : Instr} (h : Ready s i) : gate s i = .go := by
  unfold gate
  simp only [h.live, ne_eq, not_true_eq_false, if_false]
  rw [if_neg h.meter, h.checks]
  simp [h.free]

/-- AN INSTRUCTION THAT IS READY ACTS. -/
theorem issue_ready {s : State} {i : Instr} (h : Ready s i) (act : State → State) : issue s i act = .next (act s) := by
  unfold issue
  simp [h.power, gate_ready h]

/-- A unit's step acts while there is a supply. -/
theorem event_powered {s : State} (h : s.power = true) (act : State → State) : event s act = .next (act s) := by
  unfold event
  simp [h]

/-! ## Retiring -/

theorem afterRetire_fresh (s : State) (h : Fresh s) :
    afterRetire s = s.modCx (fun c =>
      { c.clearWait with lates := [], holdBack := false, pulse := s.clk,
                         meter := if c.kind = .translator then { c.meter with meter := c.meter.meter + 1 } else c.meter }) := by
  unfold Fresh at h
  simp only [afterRetire, h, List.filter_nil, List.foldl_nil]
  exact State.modCx_congr (by simp [h])

/-- Without late reports nothing becomes pending. -/
theorem flushLates_fresh {s : State} {k : Nat} (h : (s.ctx k).lates = []) : flushLates s k = s := by
  simp [flushLates, h]

/-- What a retirement leaves of the issuing context. -/
theorem cx_retire (s : State) (n : Nat) (h : Fresh s) :
    (retire s n).cx =
      { s.cx.clearWait with
        pc := s.cx.pc + BitVec.ofNat 48 n, fetched := s.cx.fetched.drop (n / 4), lates := [], holdBack := false,
        pulse := s.clk,
        meter := if s.cx.kind = .translator then { s.cx.meter with meter := s.cx.meter.meter + 1 } else s.cx.meter } := by
  unfold retire
  rw [afterRetire_fresh _ (by simpa [Fresh] using h)]
  simp [Ctx.clearWait]

theorem retire_only (s : State) (n : Nat) (h : Fresh s) : OnlyContext s (retire s n) := by
  unfold retire
  rw [afterRetire_fresh _ (by simpa [Fresh] using h)]
  exact ⟨rfl, fun k hk => by simp [hk]⟩

theorem fresh_wS (s : State) (d : SReg) (v : Word) (h : Fresh s) : Fresh (s.wS d v) := by
  simpa [Fresh, State.wS] using h

/-- A register result and a retirement: the register frame. -/
theorem retire_wS_frame (s : State) (d : SReg) (v : Word) (n : Nat) (h : Fresh s) :
    (retire (s.wS d v) n).rS d = written d v ∧ RegisterFrame s (retire (s.wS d v) n) d n := by
  have hc := cx_retire _ n (fresh_wS s d v h)
  have hw : (s.wS d v).cx = s.cx.writeS d v := by simp [State.wS]
  rw [hw] at hc
  have hr : ∀ r, (retire (s.wS d v) n).rS r = (s.cx.writeS d v).readS r := by
    intro r
    unfold State.rS
    rw [hc]
    rfl
  refine ⟨?_, ?_, ?_, ?_, ?_, ?_⟩
  · rw [hr, Ctx.readS_writeS, if_pos rfl]
  · have ho := retire_only _ n (fresh_wS s d v h)
    refine ⟨?_, fun k hk => ?_⟩
    · rw [ho.rest]; rfl
    · rw [ho.others k hk]
      have : k ≠ s.cur := hk
      simp [State.wS, this]
  · rw [hc]; simp
  · exact (hr 0).trans (Ctx.readS_zero _)
  · intro r hr'
    rw [hr, Ctx.readS_writeS, if_neg hr']; rfl
  · constructor <;> simp [hc]

/-- A register instruction that is ready writes its register and nothing else. -/
theorem setS_writes {s : State} {i : Instr} (h : Ready s i) (f : Fresh s) (d : SReg) (v : Word) (n : Nat) :
    ∃ t, setS s i d v n = .next t ∧ t.rS d = written d v ∧ RegisterFrame s t d n :=
  ⟨_, issue_ready h _, retire_wS_frame s d v n f⟩

end Sys2Proof.Machine
end

