-- ==== Sys2Proof/Tests/Slice0.lean ====
section
/-!
SUPPORT. Tests: words written out from the spec's encodings, ill-formed terms refused, results worked out from the spec by
hand, and states that meet the hypotheses of each statement.
-/
-- One test after the other.
set_option Elab.async false

namespace Sys2Proof.Tests
open Sys2Proof Sys2Proof.Machine

/-! ## Helpers -/

/-- Registers by stack position. -/
def regsOf (l : List (Nat × Word)) : Tbl Word := l.foldl (fun t p => Tbl.put 0 t p.1 p.2) []

/-- A control context in S on core 0, with the planes granted and a shape of two rows and two columns. -/
def ctx0 : Ctx :=
  { Ctx.empty with run := .live, priv := true, pc := 0x1000, planes := 0xFFFF, rows := 2, cols := 2 }

/-- A state in which a context issues; world 0 runs. -/
def stOf (k : Nat) (c : Ctx) : State :=
  { State.reset with cur := k, ctxs := Tbl.put Ctx.empty State.reset.ctxs k c, worlds := [(0, { World.empty with tdisp := .run })] }

/-- The control context of core 0 issues; s1 to s4 hold four values. -/
def st (v1 v2 v3 v4 : Word) : State := stOf 0 { ctx0 with regs := regsOf [(1, v1), (2, v2), (3, v3), (4, v4)] }

/-- Offset n of the unit memory of core 0. -/
def um (n : Nat) : Word := BitVec.ofNat 64 (0xFFFD000000000000 + n)

def readyB (s : State) (i : Instr) : Bool :=
  s.power && decide (s.cx.run = .live) && !(decide (s.cx.kind = .translator) && decide (s.cx.meter.meter = s.cx.meter.lim)) &&
    (firstCause s s.cx i).isNone && !held s i

theorem ready_of {s : State} {i : Instr} (h : readyB s i = true) : Ready s i := by
  simp only [readyB, Bool.and_eq_true, decide_eq_true_eq, Bool.not_eq_true', Bool.and_eq_false_iff,
    decide_eq_false_iff_not, Option.isNone_iff_eq_none] at h
  obtain ⟨⟨⟨⟨hp, hl⟩, hm⟩, hc⟩, hf⟩ := h
  exact ⟨hp, hl, fun x => hm.elim (· x.1) (· x.2), hc, hf⟩

theorem ready_all {s : State} {l : List Instr} (h : l.all (readyB s) = true) : ∀ i ∈ l, Ready s i :=
  fun i hi => ready_of (List.all_eq_true.mp h i hi)

theorem get_all {α : Type} (d : α) (P : α → Prop) (t : Tbl α) (hd : P d) (ht : ∀ p ∈ t, P p.2) (k : Nat) :
    P (Tbl.get d t k) := by
  induction t with
  | nil => simpa [Tbl.get] using hd
  | cons p t ih =>
    simp only [Tbl.get]
    split
    · exact ht p (by simp)
    · exact ih (fun q hq => ht q (by simp [hq]))

theorem sound_of {s : State} (h : s.ues = [] ∧ s.flips = [] ∧ ∀ p ∈ s.wds, p.2.armed = []) : SoundMemory s :=
  ⟨h.1, h.2.1, fun w d => get_all WorldDie.empty (fun x => x.armed = []) s.wds rfl h.2.2 (w * 4 + d)⟩

/-- The next state of an outcome. -/
def got (o : Host.Outcome State Fault Refusal) : State :=
  match o with
  | .next t => t
  | _ => State.reset

def goes (o : Host.Outcome State Fault Refusal) : Bool :=
  match o with
  | .next _ => true
  | _ => false

theorem got_of {o : Host.Outcome State Fault Refusal} (h : goes o = true) : o = .next (got o) := by
  cases o <;> simp_all [goes, got]

/-- The SCTL issues, with a word w at its mailbox's first word and registers. -/
def sctl (l : List (Nat × Word)) : State :=
  let c := State.reset.cx
  { stOf 65536 { c with regs := regsOf l } with worlds := [] }

/-- A translator that has ten instructions left, in a section of 4 KiB at 0. -/
def tra : State :=
  stOf 14 { ctx0 with kind := .translator, slot := 14, priv := false, meter := { MeterRegs.zero with lim := 10, xwLim := 0x2000 } }

theorem clear_of {s : State} {va : Word} {n : Nat} (h : s.cx.forcing = [] ∧
    copyMeets s s.cx.coreKey (accessFoot s va n) = false ∧
    ∀ x ∈ (s.core s.cx.coreKey).siding, nodeMeets s s.cx.coreKey x (accessFoot s va n) = false) : StoreClear s va n := h

theorem super_of {s : State} {n : Nat} (h : (s.core n).snap.isOpen = false ∧ (s.core n).older = none) : NoSuperstep s n := h

/-! ## Words written out from the spec's encodings -/

/-- Words of the register family, from the strips and layouts of R28 to R36. -/
theorem test_decode_register :
    decode 0x027D2000#32 0 = .ok (.add 3 14 9) ∧ decode 0x027D2100#32 0 = .ok (.sub 3 14 9) ∧
    decode 0x027D2200#32 0 = .ok (.and 3 14 9) ∧ decode 0x027D2300#32 0 = .ok (.or 3 14 9) ∧
    decode 0x027D2400#32 0 = .ok (.xor 3 14 9) ∧ decode 0x027D2500#32 0 = .ok (.shl 3 14 9) ∧
    decode 0x027D2600#32 0 = .ok (.shr 3 14 9) ∧ decode 0x027D2700#32 0 = .ok (.sar 3 14 9) ∧
    decode 0x027D2800#32 0 = .ok (.mul 3 14 9) ∧ decode 0x027D2900#32 0 = .ok (.mulh 3 14 9) ∧
    decode 0x027D2A00#32 0 = .ok (.mulhz 3 14 9) ∧ decode 0x027D2B00#32 0 = .ok (.div 3 14 9) ∧
    decode 0x027D2C00#32 0 = .ok (.divz 3 14 9) ∧ decode 0x027D2D00#32 0 = .ok (.rem 3 14 9) ∧
    decode 0x027D2E00#32 0 = .ok (.remz 3 14 9) ∧ decode 0x027D2F00#32 0 = .ok (.slt 3 14 9) ∧
    decode 0x027D3000#32 0 = .ok (.sltz 3 14 9) := by decide

/-- Words of the immediate family, from the strips and layouts of R28 to R36. -/
theorem test_decode_immediate :
    decode 0x04D7FFFE#32 0 = .ok (.addi 6 11 (-2)) ∧ decode 0x06D7FFFE#32 0 = .ok (.andi 6 11 (-2)) ∧
    decode 0x08D7FFFE#32 0 = .ok (.ori 6 11 (-2)) ∧ decode 0x0AD7FFFE#32 0 = .ok (.xori 6 11 (-2)) ∧
    decode 0x0ED7FFFE#32 0 = .ok (.slti 6 11 (-2)) ∧ decode 0x10D7FFFE#32 0 = .ok (.sltzi 6 11 (-2)) ∧
    decode 0x0CD6002D#32 0 = .ok (.shli 6 11 45) ∧ decode 0x0CD6006D#32 0 = .ok (.shri 6 11 45) ∧
    decode 0x0CD600AD#32 0 = .ok (.sari 6 11 45) ∧ decode 0x13BFFFFD#32 0 = .ok (.liu 13 (-3)) := by decide

/-- Words of the memory family, from the strips and layouts of R28 to R36. -/
theorem test_decode_memory :
    decode 0x14843FF8#32 0 = .ok (.ld8s 4 2 (-8)) ∧ decode 0x14847FF8#32 0 = .ok (.ld8z 4 2 (-8)) ∧
    decode 0x1484BFF8#32 0 = .ok (.ld16s 4 2 (-8)) ∧ decode 0x1484FFF8#32 0 = .ok (.ld16z 4 2 (-8)) ∧
    decode 0x14853FF8#32 0 = .ok (.ld32s 4 2 (-8)) ∧ decode 0x14857FF8#32 0 = .ok (.ld32z 4 2 (-8)) ∧
    decode 0x1485BFF8#32 0 = .ok (.ld64 4 2 (-8)) ∧ decode 0x16841FFF#32 0 = .ok (.st8 4 2 0x1FFF) ∧
    decode 0x16849FFF#32 0 = .ok (.st16 4 2 0x1FFF) ∧ decode 0x16851FFF#32 0 = .ok (.st32 4 2 0x1FFF) ∧
    decode 0x16859FFF#32 0 = .ok (.st64 4 2 0x1FFF) := by decide

/-- Words of the transfer family, from the strips and layouts of R28 to R36. -/
theorem test_decode_transfer :
    decode 0x18383FFD#32 0 = .ok (.beq 1 12 (-3)) ∧ decode 0x18387FFD#32 0 = .ok (.bne 1 12 (-3)) ∧
    decode 0x1838BFFD#32 0 = .ok (.blt 1 12 (-3)) ∧ decode 0x1838FFFD#32 0 = .ok (.bge 1 12 (-3)) ∧
    decode 0x18393FFD#32 0 = .ok (.bbl 1 12 (-3)) ∧ decode 0x18397FFD#32 0 = .ok (.bae 1 12 (-3)) ∧
    decode 0x1BFFFFFB#32 0 = .ok (.jal 15 (-5)) ∧ decode 0x1DE5FFFC#32 0 = .ok (.jalr 15 2 (-4)) := by decide

/-- Words of the system family, from the strips and layouts of R28 to R36. -/
theorem test_decode_system :
    decode 0x1EF40001#32 0 = .ok (.sysCtrd 7 10) ∧ decode 0x1EF40002#32 0 = .ok (.sysEntropy 7 10) ∧
    decode 0x1EF40003#32 0 = .ok (.sysWfi 7 10) ∧ decode 0x1E000004#32 0 = .ok (.sysCret) ∧
    decode 0x1EE01086#32 0 = .ok (.getx 7 0x086) ∧ decode 0x1E142340#32 0 = .ok (.putx 10 0x340) ∧
    decode 0x1E003000#32 0 = .ok (.ordr) ∧ decode 0x1E004000#32 0 = .ok (.halt) ∧
    decode 0x1E005ABC#32 0 = .ok (.brk 0xABC) := by decide

/-- Words of the scalar family, from the strips and layouts of R28 to R36. -/
theorem test_decode_scalar :
    decode 0x211F0000#32 0 = .ok (.clz 17 30) ∧ decode 0x211F0001#32 0 = .ok (.ctz 17 30) ∧
    decode 0x211F0002#32 0 = .ok (.popc 17 30) ∧ decode 0x211F0003#32 0 = .ok (.bitrev 17 30) ∧
    decode 0x211F0004#32 0 = .ok (.bswap 17 30) ∧ decode 0x211F5405#32 0 = .ok (.sel 17 30 21) ∧
    decode 0x211F5406#32 0 = .ok (.mkva 17 30 21) ∧ decode 0x211F5408#32 0 = .ok (.addva 17 30 21) ∧
    decode 0x211F0007#32 0 = .ok (.dieof 17 30) ∧ decode 0x231F0A17#32 0 = .ok (.bfx 17 30 40 23) ∧
    decode 0x231F4A17#32 0 = .ok (.bfi 17 30 40 23) := by decide

/-- Words of the calls family, from the strips and layouts of R28 to R36. -/
theorem test_decode_calls :
    decode 0x253FFFF9#32 0 = .ok (.call 19 (-7)) ∧ decode 0xA5300000#32 0x89ABCDEF#32 = .ok (.callFar 19 0x89ABCDEF) ∧
    decode 0x273F0000#32 0 = .ok (.callr 19 30) ∧ decode 0x26000001#32 0 = .ok (.ret) ∧
    decode 0xA9500000#32 0x12345678#32 = .ok (.ldk 21 0x12345678) ∧
    decode 0xA9502000#32 0x12345678#32 = .ok (.ldkZ 21 0x12345678) ∧
    decode 0xA9504000#32 0x12345678#32 = .ok (.ldkHi 21 0x12345678) := by decide

/-- Words of the bits family, from the strips and layouts of R28 to R36. -/
theorem test_decode_bits :
    decode 0x2A0F0000#32 0 = .ok (.setba 30) ∧ decode 0x2B103012#32 0 = .ok (.ldbits 17 1 18) ∧
    decode 0x2A0F4012#32 0 = .ok (.stbits 30 18) ∧ decode 0x2C3DEC00#32 0 = .ok (.waitc 1 14 15 6) ∧
    decode 0x2D110001#32 0 = .ok (.rdctr 17 2) := by decide

/-- Words of the contexts family, from the strips and layouts of R28 to R36. -/
theorem test_decode_contexts :
    decode 0x2D1F5402#32 0 = .ok (.hstart 17 30 21) ∧ decode 0x2D1F0003#32 0 = .ok (.hjoin 17 30) ∧
    decode 0x2C0F0004#32 0 = .ok (.hquit 30) ∧ decode 0x2D1F0005#32 0 = .ok (.hstat 17 30) := by decide

/-- Words of the core family, from the strips and layouts of R28 to R36. -/
theorem test_decode_core :
    decode 0x2E0F0000#32 0 = .ok (.trap 30) ∧ decode 0x2E000001#32 0 = .ok (.eret) ∧
    decode 0x2F100002#32 0 = .ok (.yield 17) ∧ decode 0x2F1F0003#32 0 = .ok (.query 17 30) ∧
    decode 0x2F100004#32 0 = .ok (.pend 17) ∧ decode 0x2F1F0005#32 0 = .ok (.xlat 17 30) ∧
    decode 0x2E0F5406#32 0 = .ok (.iinv 30 21) ∧ decode 0x2E0F5407#32 0 = .ok (.iprf 30 21) ∧
    decode 0x2E0F0008#32 0 = .ok (.sdone 30) := by decide

/-- Words of the atomics family, from the strips and layouts of R28 to R36. -/
theorem test_decode_atomics :
    decode 0x311F545C#32 0 = .ok (.amo 17 30 21 5 1 4) ∧ decode 0x311F5489#32 0 = .ok (.cas 17 30 21 1 1) ∧
    decode 0x311F0108#32 0 = .ok (.ldsc 17 30 1) ∧ decode 0x300F5588#32 0 = .ok (.stsc 30 21 1) ∧
    decode 0x311F5660#32 0 = .ok (.amosc 17 30 21 6 0) := by decide

/-- Words of the sync family, from the strips and layouts of R28 to R36. -/
theorem test_decode_sync :
    decode 0x33102980#32 0 = .ok (.arrive 17 2 9 1) ∧ decode 0x33103901#32 0 = .ok (.wait 17 3 9) ∧
    decode 0x32004002#32 0 = .ok (.publish 4) ∧ decode 0x331F2903#32 0 = .ok (.bmask 17 30 2 9) ∧
    decode 0x331F1304#32 0 = .ok (.bstep 17 30 1 3) ∧ decode 0x351F0000#32 0 = .ok (.ffill 17 30) ∧
    decode 0x351F0001#32 0 = .ok (.fwait 17 30) ∧ decode 0x351F0002#32 0 = .ok (.fpoll 17 30) := by decide

/-- Words of the fabric family, from the strips and layouts of R28 to R36. -/
theorem test_decode_fabric :
    decode 0x371F5414#32 0 = .ok (.send 17 30 21 5) ∧ decode 0x371F5401#32 0 = .ok (.recv 17 30 21) ∧
    decode 0x371F5402#32 0 = .ok (.rankset 17 30 21) ∧ decode 0x371F5403#32 0 = .ok (.rankmv 17 30 21) ∧
    decode 0x391F0000#32 0 = .ok (.coll 17 30) ∧ decode 0x391F0001#32 0 = .ok (.cwait 17 30) ∧
    decode 0x391F0002#32 0 = .ok (.view 17 30) ∧ decode 0x391F0003#32 0 = .ok (.vack 17 30) := by decide

/-- Words of the plane arithmetic family, from the strips and layouts of R28 to R36. -/
theorem test_decode_plane_arithmetic :
    decode 0x413C7500#32 0 = .ok (.vadd 9 14 3 5 1 0) ∧
    decode 0xC13C1420#32 0xCAFE0123#32 = .ok (.vaddImm 9 14 5 0 2 0xCAFE0123) ∧
    decode 0x413C7501#32 0 = .ok (.vsub 9 14 3 5 1 0) ∧
    decode 0xC13C1421#32 0xCAFE0123#32 = .ok (.vsubImm 9 14 5 0 2 0xCAFE0123) ∧
    decode 0x413C7502#32 0 = .ok (.vmul 9 14 3 5 1 0) ∧
    decode 0xC13C1422#32 0xCAFE0123#32 = .ok (.vmulImm 9 14 5 0 2 0xCAFE0123) ∧
    decode 0x413C7453#32 0 = .ok (.vmulh 9 14 3 5 0 5) ∧
    decode 0xC13C1423#32 0xCAFE0123#32 = .ok (.vmulhImm 9 14 5 0 2 0xCAFE0123) ∧
    decode 0x413C7504#32 0 = .ok (.vfma 9 14 3 5 1 0) ∧ decode 0x413C7505#32 0 = .ok (.vmin 9 14 3 5 1 0) ∧
    decode 0xC13C1425#32 0xCAFE0123#32 = .ok (.vminImm 9 14 5 0 2 0xCAFE0123) ∧
    decode 0x413C7506#32 0 = .ok (.vmax 9 14 3 5 1 0) ∧
    decode 0xC13C1426#32 0xCAFE0123#32 = .ok (.vmaxImm 9 14 5 0 2 0xCAFE0123) ∧
    decode 0x413C1507#32 0 = .ok (.vabs 9 14 5 1 0) ∧ decode 0x413C1508#32 0 = .ok (.vneg 9 14 5 1 0) ∧
    decode 0x413C7509#32 0 = .ok (.vdiv 9 14 3 5 1 0) ∧
    decode 0xC13C1429#32 0xCAFE0123#32 = .ok (.vdivImm 9 14 5 0 2 0xCAFE0123) ∧
    decode 0x413C150A#32 0 = .ok (.vsqrt 9 14 5 1 0) := by decide

/-- Words of the plane bits family, from the strips and layouts of R28 to R36. -/
theorem test_decode_plane_bits :
    decode 0x433C7410#32 0 = .ok (.vand 9 14 3 5 1) ∧
    decode 0xC33C1420#32 0xCAFE0123#32 = .ok (.vandImm 9 14 5 2 0xCAFE0123) ∧
    decode 0x433C7411#32 0 = .ok (.vor 9 14 3 5 1) ∧ decode 0xC33C1421#32 0xCAFE0123#32 = .ok (.vorImm 9 14 5 2 0xCAFE0123) ∧
    decode 0x433C7412#32 0 = .ok (.vxor 9 14 3 5 1) ∧
    decode 0xC33C1422#32 0xCAFE0123#32 = .ok (.vxorImm 9 14 5 2 0xCAFE0123) ∧
    decode 0x433C7413#32 0 = .ok (.vshl 9 14 3 5 1) ∧
    decode 0xC33C1423#32 0xCAFE0123#32 = .ok (.vshlImm 9 14 5 2 0xCAFE0123) ∧
    decode 0x433C7414#32 0 = .ok (.vshr 9 14 3 5 1) ∧
    decode 0xC33C1424#32 0xCAFE0123#32 = .ok (.vshrImm 9 14 5 2 0xCAFE0123) ∧
    decode 0x433C7415#32 0 = .ok (.vsar 9 14 3 5 1) ∧
    decode 0xC33C1425#32 0xCAFE0123#32 = .ok (.vsarImm 9 14 5 2 0xCAFE0123) ∧
    decode 0x433C1456#32 0 = .ok (.vpopc 9 14 5 5) ∧ decode 0x433C1457#32 0 = .ok (.vclz 9 14 5 5) := by decide

/-- Words of the plane movement family, from the strips and layouts of R28 to R36. -/
theorem test_decode_plane_movement :
    decode 0x45DC7510#32 0 = .ok (.vcmp 1 6 14 3 5 1 1) ∧
    decode 0xC4DC1720#32 0xCAFE0123#32 = .ok (.vcmpImm 0 6 14 5 3 2 0xCAFE0123) ∧
    decode 0x453C7461#32 0 = .ok (.vsel 9 14 3 5 6) ∧ decode 0x453E1432#32 0 = .ok (.vbcast 9 30 5 3) ∧
    decode 0xC5201442#32 0xCAFE0123#32 = .ok (.vbcastImm 9 5 4 0xCAFE0123) ∧ decode 0x45201423#32 0 = .ok (.vidx 9 5 2) ∧
    decode 0x453D1604#32 0 = .ok (.vred 9 14 1 0 5 2 0) ∧ decode 0x453D1605#32 0 = .ok (.vscan 9 14 1 0 5 2 0) ∧
    decode 0x453C1416#32 0 = .ok (.vtrans 9 14 5 1) ∧ decode 0x453C7417#32 0 = .ok (.vperm 9 14 3 5 1) ∧
    decode 0x473C5701#32 0 = .ok (.vcvtTo 9 14 2 5 3 0 1) ∧
    decode 0x473D1702#32 0 = .ok (.vcvtFrom 9 14 8 5 3 0 0) := by decide

/-- Words of the masks family, from the strips and layouts of R28 to R36. -/
theorem test_decode_masks :
    decode 0x491F5400#32 0 = .ok (.shape 17 30 21) ∧ decode 0x49100001#32 0 = .ok (.shapeq 17) ∧
    decode 0x48719802#32 0 = .ok (.kand 7 3 6) ∧ decode 0x48719803#32 0 = .ok (.kor 7 3 6) ∧
    decode 0x48719804#32 0 = .ok (.kxor 7 3 6) ∧ decode 0x48718005#32 0 = .ok (.knot 7 3) ∧
    decode 0x48718006#32 0 = .ok (.kedge 7 3) ∧ decode 0x49118007#32 0 = .ok (.kpop 17 3) := by decide

/-- Words of the plane memory family, from the strips and layouts of R28 to R36. -/
theorem test_decode_plane_memory :
    decode 0x4B3EAD30#32 0 = .ok (.vld 9 30 21 5 3) ∧ decode 0x4B3EAD31#32 0 = .ok (.vst 9 30 21 5 3) ∧
    decode 0x4B3E7532#32 0 = .ok (.vldi 9 30 14 5 3) ∧ decode 0x4B3E7533#32 0 = .ok (.vsti 9 30 14 5 3) ∧
    decode 0x4B20AD24#32 0 = .ok (.vldb 9 21 5 2) ∧ decode 0x4B20AD25#32 0 = .ok (.vstb 9 21 5 2) ∧
    decode 0x4D3E7016#32 0 = .ok (.vamo 9 30 14 1 6) ∧ decode 0x4D3E702D#32 0 = .ok (.vrst 9 30 14 2 5) := by decide

/-- Words of the engine family, from the strips and layouts of R28 to R36. -/
theorem test_decode_engine :
    decode 0x611F5400#32 0 = .ok (.tdefDefine 17 30 21) ∧ decode 0x611F5401#32 0 = .ok (.ttypeDefine 17 30 21) ∧
    decode 0x611F5402#32 0 = .ok (.force 17 30 21) ∧ decode 0x611F5480#32 0 = .ok (.tmul 17 30 21) ∧
    decode 0x611F5500#32 0 = .ok (.tew 17 30 21) ∧ decode 0x611F5501#32 0 = .ok (.tred 17 30 21) ∧
    decode 0x611F5502#32 0 = .ok (.tcvt 17 30 21) ∧ decode 0x611F5580#32 0 = .ok (.tmove 17 30 21) ∧
    decode 0x611F5600#32 0 = .ok (.tgather 17 30 21) ∧ decode 0x611F0003#32 0 = .ok (.tdrop 17 30) ∧
    decode 0x611F0004#32 0 = .ok (.sidq 17 30) ∧ decode 0x611F0280#32 0 = .ok (.tenq 17 30) := by decide

/-! ## Witnesses: states that meet the hypotheses of the statements, clause by clause -/

theorem test_witness_ScalarResults : Fresh (st 5 3 0 0) ∧ ∀ i ∈ [Instr.add 3 1 2, .sub 3 1 2, .and 3 1 2, .or 3 1 2, .xor 3 1 2,
    .shl 3 1 2, .shr 3 1 2, .sar 3 1 2, .mul 3 1 2, .mulh 3 1 2, .mulhz 3 1 2, .slt 3 1 2, .sltz 3 1 2, .div 3 1 2, .divz 3 1 2,
    .rem 3 1 2, .remz 3 1 2, .div 3 1 0, .rem 3 1 0, .addi 0 1 5, .addi 3 1 5, .andi 3 1 5, .ori 3 1 5, .xori 3 1 5, .shli 3 1 63,
    .shri 3 1 63, .sari 3 1 63, .slti 3 1 5, .sltzi 3 1 5, .liu 3 5], Ready (st 5 3 0 0) i :=
  ⟨rfl, ready_all (by decide)⟩

theorem test_witness_BitAndFieldResults : Fresh (st 5 3 0 0) ∧ ∀ i ∈ [Instr.clz 3 1, .ctz 3 1, .popc 3 1, .bitrev 3 1, .bswap 3 1,
    .sel 3 1 2, .mkva 3 1 2, .dieof 3 1, .addva 3 1 2, .bfx 3 1 60 63, .bfi 3 1 60 63, .ldk 3 7, .ldkZ 3 7, .ldkHi 3 7],
    Ready (st 5 3 0 0) i :=
  ⟨rfl, ready_all (by decide)⟩

theorem test_witness_TransferResults : let s := st 0x2000 3 0 0
    Fresh s ∧ s.cx.pc.toNat % 4 = 0 ∧ s.cx.kind ≠ .translator ∧
    (∀ i ∈ [Instr.beq 1 2 (-3), .bne 1 2 (-3), .blt 1 2 (-3), .bge 1 2 (-3), .bbl 1 2 (-3), .bae 1 2 (-3), .jal 3 (-3), .jalr 3 1 4,
      .jalr 3 1 2], Ready s i) ∧
    ((s.rG 1 + BitVec.ofInt 64 (4 : BitVec 17).toInt).truncate 48 : BitVec 48).toNat % 4 = 0 ∧
    ((s.rG 1 + BitVec.ofInt 64 (2 : BitVec 17).toInt).truncate 48 : BitVec 48).toNat % 4 ≠ 0 :=
  ⟨rfl, by decide, by decide, ready_all (by decide), by decide, by decide⟩

theorem test_witness_TransferResults_translator : Fresh tra ∧ (∀ i ∈ [Instr.beq 1 2 (-3), .jal 3 (-3), .jalr 3 1 4], Ready tra i) ∧
    tra.cx.kind = .translator ∧ insideX tra.cx (relative tra (-3)) = true ∧ insideX tra.cx 4 = true :=
  ⟨rfl, ready_all (by decide), by decide, by decide, by decide⟩

/-- The window at 40 of a stack whose resident part begins at 0: s1 is the target of a `callr`. -/
def deep (n : Nat) : State := stOf 0 { ctx0 with fb := BitVec.ofNat 64 n, regs := regsOf [(n + 1, 0x2000)] }

theorem test_witness_CallResults : let s := deep 1
    Fresh s ∧ s.cx.fb.toNat + 62 < 2 ^ 64 ∧ s.cx.fb.toNat + (31 : BitVec 5).toNat + 31 ≤ s.cx.wlow.toNat + 63 ∧
    (∀ i ∈ [Instr.call 31 5, .callFar 31 5, .callr 31 1], Ready s i) ∧ (relative s 5).toNat % 4 = 0 ∧ s.cx.isCompute = true ∧
    ((s.rS 1).truncate 48 : BitVec 48).toNat % 4 = 0 :=
  ⟨rfl, by decide, by decide, ready_all (by decide), by decide, by decide, by decide⟩

theorem test_witness_CallResults_spill : let s := stOf 0 { (deep 40).cx with bsp := um 0x1000, bsl := 0x800 }
    Fresh s ∧ SoundMemory s ∧ NoSuperstep s s.cx.coreKey ∧ s.cx.isCompute = true ∧ s.cx.fb.toNat + 62 < 2 ^ 64 ∧
    s.cx.fb.toNat + (1 : BitVec 5).toNat + 31 ≤ s.cx.wlow.toNat + 63 + 8 * 2 ∧
    s.cx.wlow.toNat + 63 + 8 * 2 < s.cx.fb.toNat + (1 : BitVec 5).toNat + 39 ∧ badSlot s s.cx s.cx.wlow.toNat (8 * 2) = none ∧
    (∀ i ∈ [Instr.call 1 5, .callFar 1 5, .callr 1 1], Ready s i) ∧ (relative s 5).toNat % 4 = 0 ∧
    ((s.rS 1).truncate 48 : BitVec 48).toNat % 4 = 0 :=
  ⟨rfl, sound_of (by decide), ⟨by decide, by decide⟩, by decide, by decide, by decide, by decide, by decide +kernel,
   ready_all (by decide), by decide, by decide⟩

theorem test_witness_CallResults_unpermitted : let s := deep 40
    (∀ i ∈ [Instr.call 1 5, .callFar 1 5, .callr 1 1], Ready s i) ∧ s.cx.isCompute = true ∧ (relative s 5).toNat % 4 = 0 ∧
    ((s.rS 1).truncate 48 : BitVec 48).toNat % 4 = 0 ∧
    badSlot s s.cx s.cx.wlow.toNat (8 * spillsNeeded s.cx (1 : BitVec 5).toNat) = some 0 :=
  ⟨ready_all (by decide), by decide, by decide, by decide, by decide +kernel⟩

theorem test_witness_ReturnResults : let s := stOf 0 { ctx0 with fb := 4, regs := regsOf [(35, (4#64 <<< 59) ||| 0x2000)] }
    Fresh s ∧ Ready s .ret ∧ s.cx.isCompute = true ∧ (s.rS 31).toNat % 4 = 0 ∧ (s.cx.kind = .helper → s.rS 31 ≠ 0) ∧
    bits (s.rS 31) 63 59 ≤ s.cx.fb.toNat ∧ s.cx.wlow.toNat ≤ s.cx.fb.toNat - bits (s.rS 31) 63 59 :=
  ⟨rfl, ready_of (by decide), by decide, by decide, by decide, by decide, by decide⟩

theorem test_witness_ReturnResults_fill : let r := regsOf [(43, (6#64 <<< 59) ||| 0x2000)]
    let s := stOf 0 { ctx0 with fb := 12, wlow := 8, regs := r, bsp := um 0x1000, bsl := 0x800 }
    Fresh s ∧ Ready s .ret ∧ s.cx.isCompute = true ∧ (s.rS 31).toNat % 4 = 0 ∧ bits (s.rS 31) 63 59 = 6 ∧ s.cx.fb.toNat = 12 ∧
    s.cx.wlow.toNat = 8 ∧ SoundMemory s ∧ badSlot s s.cx (8 - 8 * 1) (8 * 1) = none ∧ s.cx.kind = .control :=
  ⟨rfl, ready_of (by decide), by decide, by decide, by decide, by decide, by decide, sound_of (by decide), by decide, by decide⟩

theorem test_witness_ReturnResults_helper : ∀ n ∈ [0, 1], let s := stOf 3 { ctx0 with kind := .helper, slot := 3, loads := n }
    Fresh s ∧ Ready s .ret ∧ s.cx.isCompute = true ∧ s.cx.kind = .helper ∧ s.rS 31 = 0 ∧ s.cur % 16 ≠ 0 ∧ s.cx.loads = n ∧ s.cx.stores = 0 := by
  intro n hn
  simp only [List.mem_cons, List.not_mem_nil, or_false] at hn
  rcases hn with rfl | rfl <;> exact ⟨rfl, ready_of (by decide), by decide⟩

theorem test_witness_ReturnResults_callr : let s := deep 1
    Fresh s ∧ Ready s (.callr 31 1) ∧ s.cx.kind = .control ∧ s.cx.pc.toNat % 4 = 0 ∧
    ((s.rS 1).truncate 48 : BitVec 48).toNat % 4 = 0 ∧ s.cx.fb.toNat + 62 < 2 ^ 64 ∧ s.cx.wlow.toNat ≤ s.cx.fb.toNat ∧
    s.cx.fb.toNat + (31 : BitVec 5).toNat + 31 ≤ s.cx.wlow.toNat + 63 ∧ ∃ t, exec (.callr 31 1) s = .next t ∧ Ready t .ret :=
  ⟨rfl, ready_of (by decide), by decide, by decide, by decide, by decide, by decide, by decide,
   got (exec (.callr 31 1) (deep 1)), got_of (by decide), ready_of (by decide)⟩

theorem test_witness_LoadResults : let s := st (um 0x108) 0x10000 (um 0x109) 0xC000000000000000
    Fresh s ∧ SoundMemory s ∧ s.cx.isCompute = true ∧ s.cx.loads < 63 ∧
    (∀ b ∈ [(1 : GReg), 2, 3, 4], ∀ i ∈ [Instr.ld8s 5 b 0, .ld8z 5 b 0, .ld16s 5 b 0, .ld16z 5 b 0, .ld32s 5 b 0, .ld32z 5 b 0,
      .ld64 5 b 0], Ready s i) ∧
    (∀ n ∈ [1, 2, 4, 8], checkVa (s.rG 1 + 0) n = none ∧ checkVa (s.rG 2 + 0) n = none) ∧ ownUM s s.cx (s.rG 1 + 0) = true ∧
    ownUM s s.cx (s.rG 2 + 0) = false ∧ (s.rG 3).toNat % 8 ≠ 0 ∧ (s.rG 4).toNat % 8 = 0 ∧ 0x6000 ≤ (s.rG 4).toNat / 2 ^ 49 ∧
    (s.rG 4).toNat / 2 ^ 49 ≤ 0x7FFD :=
  ⟨rfl, sound_of (by decide), by decide, by decide, fun b hb => ready_all ((by decide : ∀ b ∈ [(1 : GReg), 2, 3, 4],
     [Instr.ld8s 5 b 0, .ld8z 5 b 0, .ld16s 5 b 0, .ld16z 5 b 0, .ld32s 5 b 0, .ld32z 5 b 0, .ld64 5 b 0].all
       (readyB (st (um 0x108) 0x10000 (um 0x109) 0xC000000000000000)) = true) b hb),
   by decide, by decide, by decide, by decide, by decide, by decide, by decide⟩

/-- An address in each clause of the checks: misaligned; the first and the last reserved die; a virtual and a host address; level 3;
an offset beyond a unit, a cluster and a die memory; a core and a cluster beyond the die; the last core. -/
theorem test_witness_LoadResults_checks :
    (∀ v : Word, ∀ i ∈ [Instr.ld8s 5 1 0, .ld8z 5 1 0, .ld16s 5 1 0, .ld16z 5 1 0, .ld32s 5 1 0, .ld32z 5 1 0, .ld64 5 1 0],
      Ready (st v 0 0 0) i) ∧ (st 0xC000000000000000 0 0 0).rG 1 = 0xC000000000000000 ∧
    (0xFFFD800000000001 : Word).toNat % 2 ≠ 0 ∧ (0xC000000000000000 : Word).toNat / 2 ^ 49 = 0x6000 ∧
    (0xFFFA000000000000 : Word).toNat / 2 ^ 49 = 0x7FFD ∧ (0xBFFE000000000000 : Word).toNat / 2 ^ 49 = 0x5FFF ∧
    (0xFFFE000000000000 : Word).toNat / 2 ^ 49 = 0x7FFF ∧
    (0xFFFDC00000000000 : Word).extractLsb' 46 2 = 3#2 ∧ (0xFFFD000000100000 : Word).extractLsb' 46 2 = 0#2 ∧
    (0xFFFD400000400000 : Word).extractLsb' 46 2 = 1#2 ∧ (0xFFFD800004000000 : Word).extractLsb' 46 2 = 2#2 ∧
    (0xFFFD000000100000 : Word).extractLsb' 20 18 ≠ 0 ∧ (0xFFFD400000400000 : Word).extractLsb' 22 18 ≠ 0 ∧
    (0xFFFD800004000000 : Word).extractLsb' 26 20 ≠ 0 ∧ ((0xFFFD300000000000 : Word).extractLsb' 40 6).toNat = 48 ∧
    ((0xFFFD700000000000 : Word).extractLsb' 40 6).toNat = 48 ∧ ((0xFFFD2F0000000000 : Word).extractLsb' 40 6).toNat = 47 := by
  refine ⟨fun v i hi => ready_all (s := st v 0 0 0) (l := [Instr.ld8s 5 1 0, .ld8z 5 1 0, .ld16s 5 1 0, .ld16z 5 1 0, .ld32s 5 1 0,
    .ld32z 5 1 0, .ld64 5 1 0]) rfl i hi, ?_⟩
  decide

theorem test_witness_StoreResults : let s := st (um 0x108) 0x10000 7 0
    Fresh s ∧ SoundMemory s ∧ NoSuperstep s s.cx.coreKey ∧ s.cx.isCompute = true ∧
    (∀ i ∈ [Instr.st8 3 1 0, .st16 3 1 0, .st32 3 1 0, .st64 3 1 0, .st8 3 2 0, .st16 3 2 0, .st32 3 2 0, .st64 3 2 0], Ready s i) ∧
    (∀ n ∈ [1, 2, 4, 8], checkVa (s.rG 1 + 0) n = none ∧ checkVa (s.rG 2 + 0) n = none) ∧ ownUM s s.cx (s.rG 1 + 0) = true ∧
    ownUM s s.cx (s.rG 2 + 0) = false ∧ StoreClear s (s.rG 1 + 0) 8 ∧ StoreClear s (s.rG 2 + 0) 8 ∧ s.cur / 16 = s.cx.coreKey ∧
    (freeSlot (s.core s.cx.coreKey).journal 512).isSome = true :=
  ⟨rfl, sound_of (by decide), ⟨by decide, by decide⟩, by decide, ready_all (by decide), by decide, by decide, by decide,
   clear_of (by decide), clear_of (by decide), by decide, by decide +kernel⟩

theorem test_witness_SystemAndControllerResults : let s := st 1 0 0 0
    let c := sctl [(1, 0x108)]
    let p := stOf 65536 { c.cx with cien := 4, cipend := 4, ciret := 0x2001 }
    Fresh s ∧ Ready s (.sysCtrd 3 1) ∧ Ready s (.sysEntropy 3 1) ∧ Ready tra (.sysEntropy 3 1) ∧ tra.cx.kind = .translator ∧
    Fresh c ∧ c.cx.kind = .controller ∧ (∀ i ∈ [Instr.sysWfi 3 1, .sysCret, .ld64 2 1 8, .st64 2 1 8], Ready c i) ∧
    (cipendOf c c.cx &&& c.cx.cien) = 0 ∧ Ready p (.sysWfi 3 1) ∧ (cipendOf p p.cx &&& p.cx.cien) ≠ 0 ∧
    (c.rG 1 + BitVec.ofInt 64 (8 : BitVec 14).toInt).toNat % 8 = 0 ∧ (c.rG 1 + BitVec.ofInt 64 (8 : BitVec 14).toInt).toNat < 0x40000 :=
  ⟨rfl, ready_of (by decide), ready_of (by decide), ready_of (by decide), by decide, rfl, by decide, ready_all (by decide),
   by decide, ready_of (by decide), by decide, by decide, by decide⟩

theorem test_witness_SystemAndControllerResults_counters : let s := st 0 0 0 0
    let t := stOf 0 { ctx0 with loads := 2 }
    let c := sctl []
    Fresh s ∧ Ready c .ordr ∧ c.cx.kind = .controller ∧ c.cx.loads = 0 ∧ Fresh c ∧ s.cx.kind ≠ .controller ∧
    Ready s .ordr ∧ s.cx.loads = 0 ∧ Ready t .ordr ∧ t.cx.loads ≠ 0 ∧
    Ready s (.waitc 0 15 15 15) ∧ s.cx.loads ≤ (0 : BitVec 4).toNat ∧ Ready t (.waitc 0 15 15 15) ∧
    ¬ ((0 : BitVec 4) = 15 ∨ t.cx.loads ≤ (0 : BitVec 4).toNat) ∧ (∀ i ∈ [Instr.rdctr 1 0, .rdctr 1 1, .rdctr 1 2, .rdctr 1 3], Ready s i) :=
  ⟨rfl, ready_of (by decide), by decide, by decide, rfl, by decide, ready_of (by decide), by decide, ready_of (by decide), by decide,
   ready_of (by decide), by decide, ready_of (by decide), by decide, ready_all (by decide)⟩

theorem test_witness_BitAccessResults : let s := stOf 0 { ctx0 with ba := um 0x100 ||| 0x1800000000 }
    Fresh s ∧ SoundMemory s ∧ NoSuperstep s s.cx.coreKey ∧ (∀ i ∈ [Instr.setba 1, .ldbits 2 1 31, .stbits 2 31], Ready s i) ∧
    bitCause s s.cx 32 false = none ∧ bitCause s s.cx 32 true = none ∧ ownUM s s.cx (baVa s.cx.ba) = true ∧
    StoreClear s (baVa s.cx.ba) ((baBit s.cx.ba + 32 + 7) / 8) :=
  ⟨rfl, sound_of (by decide), ⟨by decide, by decide⟩, ready_all (by decide), by decide, by decide, by decide, clear_of (by decide)⟩

theorem test_witness_RegisterResults : let s := st 1 2 3 4
    Fresh s ∧ s.cx.isCompute = true ∧ ∀ i ∈ [Instr.getx 1 0x001, .getx 1 0x002, .getx 1 0x003, .getx 1 0x004, .getx 1 0x006, .getx 1 0x007,
      .getx 1 0x00A, .getx 1 0x00B, .getx 1 0x00F, .getx 1 0x010, .getx 1 0x011, .getx 1 0x012, .getx 1 0x080, .getx 1 0x081,
      .getx 1 0x082, .getx 1 0x084, .getx 1 0x085, .getx 1 0x086, .getx 1 0x100, .getx 1 0x101, .getx 1 0x102], Ready s i :=
  ⟨rfl, by decide, ready_all (by decide)⟩

theorem test_witness_RegisterResults_writes : let s := st 1 2 3 4
    Fresh s ∧ s.cx.isCompute = true ∧ ∀ i ∈ [Instr.putx 1 0x002, .putx 1 0x003, .putx 1 0x004, .putx 1 0x007, .putx 1 0x00A, .putx 1 0x010,
      .putx 1 0x082, .putx 1 0x083, .putx 1 0x084, .putx 1 0x085, .putx 1 0x086, .putx 1 0x000, .putx 1 0x001, .putx 1 0x006,
      .putx 1 0x00B, .putx 1 0x00C, .putx 1 0x00D, .putx 1 0x00E, .putx 1 0x00F, .putx 1 0x011, .putx 1 0x012, .putx 1 0x013,
      .putx 1 0x080, .putx 1 0x081, .putx 1 0x087, .putx 1 0x088, .putx 1 0x089, .putx 1 0x100], Ready s i :=
  ⟨rfl, by decide, ready_all (by decide)⟩

theorem test_witness_ChecksBeforeExecutionTrap : let s := st 1 2 3 4
    let u := stOf 0 { ctx0 with priv := false }
    (∀ v ∈ [s, u, tra], v.power = true ∧ v.cx.run = .live ∧ (v.core v.cx.coreKey).masked = 0) ∧ tra.cx.kind = .translator ∧
    tra.cx.meter.meter ≠ tra.cx.meter.lim ∧ (∀ n ∈ [0, 1, 2, 9, 10, 13], let c := stOf 65536 { State.reset.cx with core := n }
      c.power = true ∧ c.cx.run = .live ∧ c.cx.kind = .controller ∧ c.cx.core = n) ∧
    s.power = true ∧ s.cx.run = .live ∧ s.cx.isCompute = true ∧ u.cx.run = .live ∧ u.cx.isCompute = true ∧ u.cx.priv = false ∧
    (s.cx.kind = .translator → s.cx.meter.meter ≠ s.cx.meter.lim) ∧ State.reset.power = true ∧ State.reset.cx.run = .live ∧
    State.reset.cx.plirenOnly = true ∧ (State.reset.cx.kind = .translator → State.reset.cx.meter.meter ≠ State.reset.cx.meter.lim) := by
  decide

theorem test_witness_TrapAndEretResults : let s := st 9 0 0 0
    s.cx.isCompute = true ∧ s.cx.trap.active = false ∧ Ready s (.trap 1) ∧ Ready s (.brk 7) ∧
    routeOf (s.core s.cx.coreKey).route 0x1A4#9 = .strap ∧ routeOf (s.core s.cx.coreKey).route 0x1C1#9 = .strap :=
  ⟨by decide, by decide, ready_of (by decide), ready_of (by decide), by decide, by decide⟩

theorem test_witness_TrapAndEretResults_eret : let s := st 9 0 0 0
    Fresh s ∧ Ready s .eret ∧ s.cx.isCompute = true ∧ s.cx.trap.tpc.toNat % 4 = 0 ∧ Ready s (.trap 1) ∧ s.cx.trap.active = false ∧
    s.cx.pc.toNat % 4 = 0 ∧ routeOf (s.core s.cx.coreKey).route 0x1A4#9 = .strap ∧ ∃ t, exec (.trap 1) s = .next t ∧ Ready t .eret :=
  ⟨rfl, ready_of (by decide), by decide, by decide, ready_of (by decide), by decide, by decide, by decide,
   got (exec (.trap 1) (st 9 0 0 0)), got_of (by decide), ready_of (by decide)⟩

/-- A context in U with a handler for upcalls, all classes routed to it, and one cause pending. -/
def user : State :=
  ({ stOf 0 { ctx0 with priv := false, trap := { TrapRegs.zero with upvec := 0x3000 },
                        pending := [{ cause := 0x042#9, taddr := 0, tinfo := 0 }] } with cores := [] }.modCore 0 (fun c =>
    { c with route := 0 }))

theorem test_witness_UpcallResults : Ready user (.brk 7) ∧ user.cx.isCompute = true ∧ user.cx.priv = false ∧ user.cx.trap.upvec ≠ 0 ∧
    user.cx.trap.busy = false ∧ routeOf (user.core user.cx.coreKey).route 0x1C1#9 = .upcall ∧
    user.cx.fb.toNat + 62 ≤ user.cx.wlow.toNat + 63 ∧ user.cx.fb.toNat + 62 < 2 ^ 64 ∧ slideLocked user user.cur 31 = false ∧ Fresh user ∧
    (∀ i ∈ [Instr.upframeWrite 1, .putx 1 0x008#12], Ready user i) ∧ (user.rG 1).getLsbD 63 = false ∧
    ∃ t q l, exec (.upframeWrite 1) user = .next t ∧ t.cx.pending = q :: l ∧ routeOf 0 q.cause = .upcall :=
  ⟨ready_of (by decide), by decide, by decide, by decide, by decide, by decide, by decide, by decide, by decide, rfl, ready_all (by decide), by decide,
   got (exec (.upframeWrite 1) user), { cause := 0x042#9, taddr := 0, tinfo := 0 }, [], got_of (by decide), by decide, by decide⟩

theorem test_witness_HostStopsAndPendingCauses : let s := st 9 0 0 0
    let h := s.modCore 0 (fun c => { c with route := 0xAAAAAAAA })
    let a := stOf 0 { ctx0 with trap := { TrapRegs.zero with active := true } }
    s.cx.isCompute = true ∧ Ready h (.trap 1) ∧ h.cx.isCompute = true ∧ routeOf (h.core h.cx.coreKey).route 0x1A4#9 = .host ∧
    Ready a (.trap 1) ∧ a.cx.isCompute = true ∧ routeOf (a.core a.cx.coreKey).route 0x1A4#9 = .strap ∧ a.cx.trap.active = true :=
  ⟨by decide, ready_of (by decide), by decide, by decide, ready_of (by decide), by decide, by decide, by decide⟩

theorem test_witness_HostStopsAndPendingCauses_pending : let p : PCause := { cause := 0x042#9, taddr := 5, tinfo := 6 }
    let s := stOf 0 { ctx0 with pending := [p] }
    let a := stOf 0 { ctx0 with pending := [p], trap := { TrapRegs.zero with active := true } }
    (∀ u ∈ [s, a], u.power = true ∧ (u.ctx 0).isCompute = true ∧ (u.ctx 0).run = .live ∧ (u.ctx 0).pending = p :: [] ∧
      filling u 0 = false ∧ (u.ctx 0).phase = 0 ∧ routeOf (u.core (u.ctx 0).coreKey).route p.cause = .strap) ∧
    (s.ctx 0).trap.active = false ∧ (a.ctx 0).trap.active = true := by
  decide

/-- The control context of core 0 issues, and slot n of the core holds a context. -/
def two (c d : Ctx) (n : Nat) : State := (stOf 0 c).setCtx n d

/-- A helper in a slot of core 0. -/
def helper (n : Nat) (r : Run) : Ctx := { ctx0 with kind := .helper, run := r, slot := n, priv := true, exitValue := 77 }

theorem test_witness_HelperResults_start : let s := st 0x2000 5 0 0
    let f := (List.range 10).foldl (fun t n => t.setCtx (n + 1) (helper (n + 1) .live)) s
    Fresh s ∧ Ready s (.hstart 3 1 2) ∧ (s.rS 1).toNat % 4 = 0 ∧ s.cur = s.cx.coreKey * 16 ∧ freeHelper s s.cx.coreKey = some 0 ∧
    Fresh f ∧ Ready f (.hstart 3 1 2) ∧ (f.rS 1).toNat % 4 = 0 ∧ f.cur = f.cx.coreKey * 16 ∧ freeHelper f f.cx.coreKey = none :=
  ⟨rfl, ready_of (by decide), by decide, by decide, by decide, rfl, ready_of (by decide), by decide, by decide, by decide⟩

theorem test_witness_HelperResults_end : let h := stOf 3 (helper 3 .live)
    let s (r : Run) := two { ctx0 with regs := regsOf [(1, 2), (2, 12)] } (helper 3 r) 3
    Fresh h ∧ Ready h (.hquit 1) ∧ h.cx.loads = 0 ∧ h.cx.stores = 0 ∧ h.cur % 16 ≠ 0 ∧ h.cur / 16 * 16 ≠ h.cur ∧
    (∀ r ∈ [Run.free, .live, .ended], Fresh (s r) ∧ (s r).rS 1 = BitVec.ofNat 64 2 ∧ 2 ≤ 9 ∧
      ((s r).ctx ((s r).cx.coreKey * 16 + 2 + 1)).run = r ∧ (s r).cur = (s r).cx.coreKey * 16 ∧
      Ready (s r) (.hjoin 5 1) ∧ Ready (s r) (.hstat 5 1) ∧ Ready (s r) (.hstat 5 2) ∧ 9 < ((s r).rS 2).toNat) := by
  refine ⟨rfl, ready_of (by decide), by decide, by decide, by decide, by decide, fun r hr => ?_⟩
  simp only [List.mem_cons, List.not_mem_nil, or_false] at hr
  rcases hr with rfl | rfl | rfl <;>
    exact ⟨rfl, by decide, by decide, by decide, by decide, ready_of (by decide), ready_of (by decide), ready_of (by decide), by decide⟩

theorem test_witness_HelperResults_event : let s := two ctx0 (helper 3 .ending) 3
    s.power = true ∧ (s.ctx 3).run = .ending ∧ (s.ctx 3).loads = 0 ∧ (s.ctx 3).stores = 0 ∧ 3 % 16 ≠ 0 ∧ (s.ctx 3).slot = 3 % 16 ∧
    (s.ctx 3).pending = [] := by
  decide

theorem test_witness_QueryPendYieldResults : let s := st 0 24 3 0
    Fresh s ∧ (∀ i ∈ [Instr.query 4 1, .query 4 2, .query 4 3, .pend 4, .yield 4], Ready s i) ∧ s.cx.preq = false :=
  ⟨rfl, ready_all (by decide), by decide⟩

theorem test_witness_AtomicResults : let s := st (um 0x108) 5 6 0
    let t := stOf 0 { ctx0 with regs := regsOf [(1, um 0x108)], loads := 1 }
    let u := stOf 0 { ctx0 with regs := regsOf [(1, um 0x108)], loads := 63 }
    Fresh u ∧ SoundMemory u ∧ NoSuperstep u u.cx.coreKey ∧ (∀ i ∈ [Instr.amo 3 1 2 0 0 0, .cas 3 1 2 1 2], Ready u i) ∧
    AtomicFree u (u.rS 1) 8 ∧ AtomicFree u (u.rS 1) 4 ∧ 63 ≤ u.cx.loads ∧
    Fresh s ∧ SoundMemory s ∧ NoSuperstep s s.cx.coreKey ∧ s.cx.isCompute = true ∧
    (∀ i ∈ [Instr.amo 3 1 2 0 0 0, .amo 3 1 2 1 1 1, .amo 3 1 2 6 0 2, .cas 3 1 2 0 0, .cas 3 1 2 1 7], Ready s i) ∧
    checkVa (s.rS 1) 8 = none ∧ checkVa (s.rS 1) 4 = none ∧ ownUM s s.cx (s.rS 1) = true ∧ AtomicFree s (s.rS 1) 8 ∧
    AtomicFree s (s.rS 1) 4 ∧ s.cx.loads = 0 ∧
    Fresh t ∧ Ready t (.amo 3 1 2 0 0 2) ∧ AtomicFree t (t.rS 1) 8 ∧ t.cx.loads ≠ 0 :=
  ⟨rfl, sound_of (by decide), ⟨by decide, by decide⟩, ready_all (by decide), ⟨clear_of (by decide), by decide, by decide⟩,
   ⟨clear_of (by decide), by decide, by decide⟩, by decide, rfl, sound_of (by decide), ⟨by decide, by decide⟩, by decide,
   ready_all (by decide), by decide, by decide, by decide,
   ⟨clear_of (by decide), by decide, by decide⟩, ⟨clear_of (by decide), by decide, by decide⟩, by decide,
   rfl, ready_of (by decide), ⟨clear_of (by decide), by decide, by decide⟩, by decide⟩

theorem test_witness_AtomicResults_remote : let s := st 0x10000 5 6 (um 0x400108)
    Fresh s ∧ s.cx.isCompute = true ∧ s.cx.loads < 63 ∧
    (∀ i ∈ [Instr.amo 3 1 2 0 0 0, .amo 3 1 2 0 0 1, .cas 3 1 2 1 2, .ldsc 3 1 0, .stsc 1 2 0, .amosc 3 1 2 6 1, .ldsc 3 4 0, .stsc 4 2 0,
      .amosc 3 4 2 6 1], Ready s i) ∧
    checkVa (s.rS 1) 8 = none ∧ checkVa (s.rS 1) 4 = none ∧ ownUM s s.cx (s.rS 1) = false ∧ AtomicFree s (s.rS 1) 8 ∧
    AtomicFree s (s.rS 1) 4 ∧ StoreClear s (s.rS 1) 8 ∧ scTarget s s.cx (s.rS 1) = false :=
  ⟨rfl, by decide, by decide, ready_all (by decide), by decide, by decide, by decide, ⟨clear_of (by decide), by decide, by decide⟩,
   ⟨clear_of (by decide), by decide, by decide⟩, clear_of (by decide), by decide⟩

theorem test_witness_AtomicResults_scratch : let s := st (0xFFFD400000000000 + 0x108) 5 6 0
    (∀ i ∈ [Instr.ldsc 3 1 0, .stsc 1 2 0, .amosc 3 1 2 6 1], Ready s i) ∧ checkVa (s.rS 1) 8 = none ∧ StoreClear s (s.rS 1) 8 ∧
    scTarget s s.cx (s.rS 1) = true :=
  ⟨ready_all (by decide), by decide, clear_of (by decide), by decide⟩

/-! ## Witnesses: requests, drains, barriers, futures -/

/-- An address of the cluster memory of cluster 0. -/
def cm (n : Nat) : Word := BitVec.ofNat 64 (0xFFFD400000000000 + n)

def req0 : Req :=
  { id := 1, kind := .load, op := 1, elem := 0, signed := false, ctx := 0, world := 0, die := 0, cluster := 0, va := cm 0x100,
    size := 8, route := some (0, 0), fwd := [], st := .sent, page := none }

def op0 : Op :=
  { id := 1, ctx := 0, pc := 0x1000, dest := .reg 3, left := 1, refused := 0, firstRef := none, cause := 0x042#9, parkedAt := none,
    parkVa := 0, noticed := false, acq := false, flags := 0 }

def leaf0 : Word := 0x50071

/-- World 0 runs with cluster 0 and one page, and a request is on its way. -/
def flight (r : Req) : State :=
  { stOf 0 { ctx0 with loads := 1, phase := 0 } with
    reqs := [r], ops := [op0], nextId := 5, worlds := [(0, { World.empty with tdisp := .run })],
    wds := [(0, { WorldDie.empty with clusters := 1, stage2 := [(1, leaf0)] })] }

theorem test_witness_AtomicEvents_home : let r : Req := { req0 with kind := .atomic 4 5 6 false }
    let s := flight r
    s.power = true ∧ s.req 1 = some r ∧ r.st = .sent ∧ linkBehind s r = false ∧ atomicBehind s r = false ∧
    fateAt s r = .perform 0x020000000100 ∧ SoundMemory s ∧ NoSuperstep s r.coreKey ∧ twinOn s r.coreKey = none :=
  ⟨by decide, by decide, by decide, by decide, by decide, by decide, sound_of (by decide), super_of (by decide), by decide⟩

theorem test_witness_AtomicEvents_sc : let r : Req := { req0 with kind := .sc true true 6 5 9 }
    let s := { flight r with clk := 31, scWindow := 2 }
    let t := { s with clk := 32 }
    let u := { flight { r with st := .replied 7 0 false } with clk := 37 }
    s.power = true ∧ s.reqs = [r] ∧ r.st = .sent ∧ 9 / 4 = 2 ∧ s.scWindow ≤ 2 ∧ r.fwd = [] ∧ fateAt s r = .perform 0x020000000100 ∧
    SoundMemory s ∧ NoSuperstep s r.coreKey ∧ twinOn s r.coreKey = none ∧ s.clk ≠ 4 * 2 + 24 ∧ t.reqs = [r] ∧
    fateAt t r = .perform 0x020000000100 ∧ t.clk = 4 * 2 + 24 ∧
    u.req 1 = some { r with st := .replied 7 0 false } ∧ u.op r.op = some op0 ∧ op0.dest = .reg 3 ∧ op0.left = 1 ∧
    op0.firstRef = none ∧ u.clk = 9 + 28 ∧ s.clk ≠ 9 + 28 ∧
    (u.ctx op0.ctx).wlow.toNat ≤ 3 ∧ 3 ≤ (u.ctx op0.ctx).wlow.toNat + 63 := by
  intros
  constructorm* _ ∧ _ <;> first | decide | exact sound_of (by decide) | exact super_of (by decide)

theorem test_witness_AtomicEvents_lease : let s := (st 0 0 0 0).modCluster 0 (fun c => { c with leases := [{ line := 9, recalled := true }] })
    s.power = true ∧ ({ line := 9, recalled := true } : Lease) ∈ (s.cluster 0).leases := by
  decide

theorem test_witness_RequestEvents_owner : let s := flight req0
    let b : Req := { req0 with va := cm 0x400100 + 0x10000000000 }
    let w : Req := { req0 with va := 0xFFFC000000010008 }
    (∀ r ∈ [req0, b, w], (flight r).power = true ∧ (flight r).req 1 = some r ∧ r.kind = .load ∧ r.st = .sent ∧ r.fwd = [] ∧
      linkBehind (flight r) r = false ∧ 0 < r.size) ∧
    SoundMemory s ∧ SoundMemory (flight b) ∧ SoundMemory (flight w) ∧ fateAt s req0 = .perform 0x020000000100 ∧
    fateAt (flight b) b = .refuse 0 2 1 ∧ fateAt (flight w) w = .walk 0 ∧ walkedAtDie (flight w) 0 0 < 8 ∧
    walkersUsed (flight w) 0 < 64 :=
  ⟨by decide, sound_of (by decide), sound_of (by decide), sound_of (by decide), by decide, by decide, by decide, by decide, by decide⟩

theorem test_witness_RequestEvents_walk : let a : Req := { req0 with va := 0xFFFC000000020008, st := .walking 3 }
    let w : Req := { req0 with va := 0xFFFC000000010008, st := .walking 3 }
    let p : Req := { w with st := .parked }
    (∀ r ∈ [a, w, p], (flight r).power = true ∧ (flight r).req 1 = some r ∧ r.kind = .load ∧ r.fwd = [] ∧ r.route = some (0, 0) ∧
      inService (flight r) 0 432 = true ∧ 0 < r.size) ∧ SoundMemory (flight a) ∧ SoundMemory (flight w) ∧ SoundMemory (flight p) ∧
    walk (flight a) 0 0 (bits a.va 47 0) = .absent 2 2 (some 0x20008) ∧ parkFull (flight a) 0 0 = false ∧
    (∀ r ∈ [w, p], walk (flight r) 0 0 (bits r.va 47 0) = .ok 0x50008 7 0 0x10008 ∧ permits 7 permR = true ∧
      afterPa (flight r) r 0 0x50008 = .perform 0x50008) ∧ p.page = none :=
  ⟨by decide, sound_of (by decide), sound_of (by decide), sound_of (by decide), by decide, by decide, by decide, by decide⟩

theorem test_witness_RequestEvents_post : let x : PageReq := { id := 0, stage := 2, page := 2, kinds := 1, posted := false, read := false }
    let s := (st 0 0 0 0).modWd 0 0 (fun w => { w with requests := [x] })
    s.power = true ∧ (s.wd 0 0).requests = [x] ∧ x.posted = false := by
  decide

theorem test_witness_RequestEvents_notice : let r : Req := { req0 with st := .parked }
    let o : Op := { op0 with parkedAt := some 10 }
    let s := { flight r with ops := [o], clk := 10 + 8192 }.modCtx 0 (fun c => { c with trap := { c.trap with upvec := 0x3000 } })
    s.power = true ∧ s.req 1 = some r ∧ r.kind = .load ∧ r.st = .parked ∧ s.op r.op = some o ∧ o.noticed = false ∧
    o.parkedAt = some 10 ∧ 10 + (s.ctx o.ctx).pnote.toNat ≤ s.clk ∧ parkedOf s r.op = [r] ∧ (s.ctx o.ctx).trap.upvec ≠ 0 ∧
    (s.ctx o.ctx).run = .live ∧ (s.ctx o.ctx).kind = .control ∧ (s.ctx o.ctx).pending.length < 8 := by
  decide

theorem test_witness_RequestEvents_return : ∀ refused ∈ [false, true], let r : Req := { req0 with st := .replied 7 0 refused }
    let s := flight r
    s.power = true ∧ s.req 1 = some r ∧ r.kind = .load ∧ s.op r.op = some op0 ∧ op0.dest = .reg 3 ∧ op0.left = 1 ∧ op0.firstRef = none ∧
    op0.refused = 0 ∧ (s.ctx op0.ctx).wlow.toNat ≤ 3 ∧ 3 ≤ (s.ctx op0.ctx).wlow.toNat + 63 ∧ (s.ctx op0.ctx).run = .live ∧ (s.ctx op0.ctx).kind = .control ∧ (s.ctx op0.ctx).pending.length < 8 ∧
    op0.cause = 0x042#9 := by
  decide

/-- A journal entry that has left in a drain. -/
def entry0 : JEntry :=
  { id := 3, slot := 0, gran := cm 0x100, mask := BitVec.allOnes 64, data := 7, phase := 0, ctxSlot := 0, pc := 0x1000, instr := 1, elems := [cm 0x100],
    parkedAt := none, noticed := false, st := .inflight, req := some 1 }

def drain0 : Req := { req0 with kind := .drain 3, size := 64, op := 0 }

def journaled (e : JEntry) (r : Req) : State := (flight r).modCore 0 (fun c => { c with journal := [e] })

theorem test_witness_DrainResults_perform : let s := journaled entry0 drain0
    s.power = true ∧ s.entry 0 3 = some entry0 ∧ entry0.req = some 1 ∧ s.req 1 = some drain0 ∧ drain0.kind = .drain 3 ∧
    drain0.coreKey = 0 ∧ drain0.st = .sent ∧ linkBehind s drain0 = false ∧ olderPending s 0 entry0 = false ∧ fateAt s drain0 = .perform 0x020000000100 ∧
    SoundMemory s ∧ NoSuperstep s 0 ∧ twinOn s 0 = none ∧ entry0.mask = BitVec.allOnes 64 := by
  intros
  constructorm* _ ∧ _ <;> first | decide +kernel | exact sound_of (by decide +kernel) | exact super_of (by decide +kernel)

theorem test_witness_DrainResults_merge : let e : JEntry := { entry0 with mask := 0xFF, gran := 0xFFFC000000010000 }
    let r : Req := { drain0 with va := 0xFFFC000000010000 }
    let s := (journaled e r).modDie 0 (fun d => { d with tlb := [{ world := 0, page := 1, size := 0, perm := 7, pa := 0x50000 }] })
    let m : Req := { r with st := .merging }
    let t := { journaled e m with merges := [(0x50000, 1)] }
    s.power = true ∧ s.entry 0 3 = some e ∧ s.req 1 = some r ∧ r.st = .sent ∧ linkBehind s r = false ∧ olderPending s 0 e = false ∧
    fateAt s r = .perform 0x50000 ∧ SoundMemory s ∧ NoSuperstep s 0 ∧ twinOn s 0 = none ∧ e.mask ≠ BitVec.allOnes 64 ∧
    isMerge s r e = true ∧ sealedLoc 0x50000 = true ∧
    t.power = true ∧ t.entry 0 3 = some e ∧ e.req = some 1 ∧ t.req 1 = some m ∧ m.kind = .drain 3 ∧ m.coreKey = 0 ∧
    m.st = .merging ∧ t.merges = [(0x50000, m.id)] ∧ SoundMemory t ∧ NoSuperstep t 0 ∧ twinOn t 0 = none := by
  intros
  constructorm* _ ∧ _ <;> first | decide +kernel | exact sound_of (by decide +kernel) | exact super_of (by decide +kernel)

theorem test_witness_DrainResults_ack : let e : JEntry := { entry0 with st := .performed, req := none }
    let s := (st 0 0 0 0).modCore 0 (fun c => { c with journal := [e] })
    s.power = true ∧ (s.core 0).journal = [e] ∧ e.id = 3 ∧ e.st = .performed ∧ (s.core 0).reports = [] ∧
    (s.ctx (0 * 16)).arrivals = [] := by
  decide +kernel

theorem test_witness_DrainResults_publish : let s := st 0 0 0 0
    let w := stOf 0 { ctx0 with phase := 1, waitEntries := [3] }
    let v := w.modCore 0 (fun c => { c with journal := [entry0] })
    Fresh s ∧ Ready s (.publish 2) ∧ s.cx.phase = 0 ∧ (s.core s.cx.coreKey).journal = [] ∧
    Fresh w ∧ Ready w (.publish 2) ∧ w.cx.phase = 1 ∧ acked w w.cx.coreKey w.cx.waitEntries = true ∧
    Fresh v ∧ Ready v (.publish 2) ∧ v.cx.phase = 1 ∧ acked v v.cx.coreKey v.cx.waitEntries = false :=
  ⟨rfl, ready_of (by decide +kernel), by decide +kernel, by decide +kernel, rfl, ready_of (by decide +kernel), by decide +kernel, by decide +kernel, rfl, ready_of (by decide +kernel),
   by decide +kernel, by decide +kernel⟩

/-- A gang of cores 0 and 1 with a barrier mask of both, core 0 issuing. -/
def gang (c : Ctx) : State :=
  { stOf 0 c with
    slices := [{ id := 1, job := 1, seq := 0, x := 0, y := 0, z := 0, deadline := 0, st := .placed, fresh := false,
                 holds := [], cores := [0, 1], reports := [], budget := 0, since := 0, exhausted := false, stage := 0, nextStage := 0,
                 movedAt := none, aborted := none, runs := [], attempt := 0, usedCores := [], tstart := 0, joined := [], tries := 0,
                 rankBase := 0, kept := [], keptGroups := [] }],
    cores := [(0, { Core.empty with slice := some 1 }), (1, { Core.empty with slice := some 1 })],
    groups := [(groupKey 0 1, { Group.empty with mask := 0x3000000000000 })] }

def arrival0 : Arrival := { scope := 1, group := 1, closed := 0, entries := [], refused := false, signalled := false, released := none }

theorem test_witness_BarrierInstructions_arrive : let s := gang ctx0
    let a := gang { ctx0 with arrivals := [arrival0] }
    Fresh s ∧ (∀ i ∈ [Instr.arrive 5 1 1 0, .arrive 5 1 1 1, .arrive 0 1 2 0, .arrive 5 1 2 0, .wait 5 1 1], Ready s i) ∧
    (maskCores 1 0 (s.group (groupAt 1 0 1)).mask).contains 0 = true ∧ findArrival s.cx 1 1 = none ∧
    ¬ (maskCores 1 0 (s.group (groupAt 1 0 2)).mask).contains 0 = true ∧ (1 : BitVec 4) ≠ 0 ∧
    Ready a (.arrive 5 1 1 0) ∧ (findArrival a.cx 1 1).isSome = true :=
  ⟨rfl, ready_all (by decide), by decide, by decide, by decide, by decide, ready_of (by decide), by decide⟩

theorem test_witness_BarrierInstructions_wait : let x : Arrival := { arrival0 with released := some (4, 20) }
    let a := gang { ctx0 with arrivals := [arrival0] }
    let b := { gang { ctx0 with arrivals := [x] } with clk := 19 }
    let c := { b with clk := 20 }
    Ready a (.wait 5 1 1) ∧ findArrival a.cx 1 1 = some arrival0 ∧ arrival0.released = none ∧
    Ready b (.wait 5 1 1) ∧ findArrival b.cx 1 1 = some x ∧ x.released = some (4, 20) ∧ b.clk < 20 ∧
    Ready c (.wait 5 1 1) ∧ findArrival c.cx 1 1 = some x ∧ 20 ≤ c.clk :=
  ⟨ready_of (by decide), by decide, by decide, ready_of (by decide), by decide, by decide, by decide, ready_of (by decide), by decide,
   by decide⟩

theorem test_witness_BarrierInstructions_mask : let s := gang { ctx0 with regs := regsOf [(1, 0x3000000000000), (2, 0x8000000000000), (3, 16), (4, 3)] }
    let b := s.modGroup (groupKey 0 1) (fun g => { g with state := 1 })
    (∀ i ∈ [Instr.bmask 5 1 1 1, .bmask 5 2 1 1, .bstep 5 3 1 1, .bstep 5 4 1 1, .groupRegisterWrite 1 0x202#12, .groupRegisterWrite 1 0x203#12],
      Ready s i) ∧ maskOk s 1 0 (s.rS 1) = true ∧ maskOk s 1 0 (s.rS 2) = false ∧ (s.group (groupKey 0 1)).idle = true ∧
    Ready b (.bmask 5 1 1 1) ∧ maskOk b 1 0 (b.rS 1) = true ∧ (b.group (groupKey 0 1)).idle = false ∧ 15 < (s.rS 3).toNat ∧
    ¬ (15 < (s.rS 4).toNat ∨ spansNode s 1 0 = false) ∧ Fresh b :=
  ⟨ready_all (by decide), by decide, by decide, by decide, ready_of (by decide), by decide, by decide, by decide, by decide, rfl⟩

theorem test_witness_BarrierEvents : let x := { ctx0 with arrivals := [arrival0] }
    let s := ((gang x).setCtx 16 x).modGroup (groupKey 0 1) (fun g => { g with state := 1, arrived := [1, 0], lastArrive := 3 })
    let a := { s with clk := 4 }
    let b := { ((gang x).setCtx 16 x).modGroup (groupKey 0 1) (fun g =>
      { g with state := 2, drained := [1, 0], arrived := [0, 1], lastSignal := 6 }) with clk := 8 }
    a.power = true ∧ membersHere a 0 1 (membersOf a 0 1) = true ∧ membersHere b 0 1 (membersOf b 0 1) = true ∧
    (a.group (groupKey 0 1)).state = 1 ∧ (∀ c ∈ membersOf a 0 1, c ∈ (a.group (groupKey 0 1)).arrived) ∧
    membersOf a 0 1 = [0, 1] ∧ (a.group (groupKey 0 1)).lastArrive + latA 0 ≤ a.clk ∧
    (b.group (groupKey 0 1)).state = 2 ∧ (∀ c ∈ membersOf b 0 1, c ∈ (b.group (groupKey 0 1)).drained) ∧
    (b.group (groupKey 0 1)).lastSignal + latC 0 ≤ b.clk ∧ (membersOf b 0 1)[0]? = some 0 ∧
    (b.ctx (0 * 16)).arrivals = [arrival0] ∧ arrival0.scope = scopeOfNode 0 ∧ arrival0.group = 1 ∧
    (membersOf b 0 1).any (endsRolled b 0 1) = false := by
  decide

theorem test_witness_BarrierEvents_release : let x : Arrival := { arrival0 with released := some (4, 20) }
    let s := { gang { ctx0 with arrivals := [x], fetched := [0x32501101#32] } with clk := 20, cur := 7 }
    (s.ctx 0).fetched = 0x32501101#32 :: [] ∧ decode 0x32501101#32 0 = .ok (.wait 5 1 1) ∧
    Ready { s with cur := 0 } (.wait 5 1 1) ∧ findArrival (s.ctx 0) 1 1 = some x ∧ x.released = some (4, 20) ∧ 20 ≤ s.clk :=
  ⟨by decide, by decide, ready_of (by decide), by decide, by decide, by decide⟩

/-- World 0 runs with cluster 0, the control context issues with a future cell in s1. -/
def cell (c : Ctx) (m : List Host.Cell) : State :=
  { stOf 0 { c with regs := regsOf [(1, cm 0x100)] } with
    mem := m, worlds := [(0, { World.empty with tdisp := .run })], wds := [(0, { WorldDie.empty with clusters := 1 })] }

theorem test_witness_FutureResults : let s := cell ctx0 []
    let f := cell ctx0 [(0x020000000108, 1)]
    let q : Req := { req0 with kind := .fill 5, elem := 0x1000, st := .replied 0 0 false }
    let r := { s with reqs := [q] }
    let full := s.modCluster 0 (fun c => { c with waiters := (List.range 32).map (fun n => { ctx := 16 * (n + 1), off := 0, due := none }) })
    Fresh s ∧ SoundMemory s ∧ (∀ i ∈ [Instr.ffill 2 1, .fpoll 2 1, .fwait 2 1], Ready s i) ∧ fillOf s s.cur s.cx.pc = none ∧
    futureCause s s.cx (s.rS 1) false = none ∧ futureCause s s.cx (s.rS 1) true = none ∧ sampleCell s (s.rS 1) = some 0x020000000100 ∧
    s.cx.phase = 0 ∧ ¬ (s.readMem (0x020000000100 + 8) 8 ≠ 0) ∧ (s.cluster 0).waiters.length < 32 ∧
    Ready r (.ffill 2 1) ∧ fillOf r r.cur r.cx.pc = some q ∧ q.st = .replied 0 0 false ∧ Fresh r ∧ SoundMemory r ∧
    Ready f (.fpoll 2 1) ∧ Ready f (.fwait 2 1) ∧ sampleCell f (f.rS 1) = some 0x020000000100 ∧ f.readMem (0x020000000100 + 8) 8 ≠ 0 ∧
    Fresh f ∧ SoundMemory f ∧
    Ready full (.fwait 2 1) ∧ (full.cluster 0).waiters.length = 32 ∧ (∀ w ∈ (full.cluster 0).waiters, w.ctx ≠ full.cur) ∧
    sampleCell full (full.rS 1) = some 0x020000000100 ∧ Fresh full ∧ SoundMemory full := by
  intros
  constructorm* _ ∧ _ <;> first | decide | exact rfl | exact sound_of (by decide) | exact ready_all (by decide) | exact ready_of (by decide)

theorem test_witness_FutureResults_events : let r : Req := { req0 with kind := .fill 5 }
    let s := flight r
    let w : Waiter := { ctx := 0, off := 0x100, due := some 3 }
    let u := { cell { ctx0 with phase := 1, waitSubs := cellMark 0x100 } [] with clk := 3 }.modCluster 0 (fun c => { c with waiters := [w] })
    let ws : List Waiter := [{ w with ctx := 16 }, { w with due := none }, { w with off := 0x200, due := none }]
    s.power = true ∧ s.req 1 = some r ∧ r.kind = .fill 5 ∧ r.st = .sent ∧ linkBehind s r = false ∧ fateAt s r = .perform 0x020000000100 ∧ SoundMemory s ∧
    NoSuperstep s r.coreKey ∧ twinOn s r.coreKey = none ∧ clusterOfLoc 0x020000000100 = some 0 ∧
    (∀ m ∈ [[], [(0x020000000108, 1)]], let v := { s.modCluster 0 (fun c => { c with waiters := ws }) with mem := m }
      v.power = true ∧ v.req 1 = some r ∧ linkBehind v r = false ∧ fateAt v r = .perform 0x020000000100 ∧ SoundMemory v ∧
      NoSuperstep v r.coreKey ∧ twinOn v r.coreKey = none ∧ (v.cluster 0).waiters = ws ∧
      v.readMem (0x020000000100 + 8) 8 = m.length) ∧
    u.power = true ∧ (u.cluster 0).waiters = [w] ∧ w.due = some 3 ∧ 3 ≤ u.clk ∧ (u.ctx w.ctx).phase = 1 ∧ (u.ctx w.ctx).waitSubs = cellMark w.off ∧
    (∀ p ∈ [(1 : Nat), 2], Ready (cell { ctx0 with phase := p } []) (.fwait 2 1) ∧ (cell { ctx0 with phase := p } []).cx.phase = p) := by
  refine ⟨by decide, by decide, by decide, by decide, by decide, by decide, sound_of (by decide), super_of (by decide), by decide,
    by decide, fun m hm => ?_, by decide, by decide, by decide, by decide, by decide, by decide, fun p hp => ?_⟩
  · simp only [List.mem_cons, List.not_mem_nil, or_false] at hm
    rcases hm with rfl | rfl <;>
      exact ⟨by decide, by decide, by decide, by decide, sound_of (by decide), super_of (by decide), by decide, by decide, by decide⟩
  simp only [List.mem_cons, List.not_mem_nil, or_false] at hp
  rcases hp with rfl | rfl <;> exact ⟨ready_of (by decide), by decide⟩

/-! ## Witnesses: planes, tensors, engines -/

theorem test_witness_PlaneIntegerResults : Fresh (st 1 2 3 4) ∧ SoundShape (st 1 2 3 4) ∧ NoSuperstep (st 1 2 3 4) 0 ∧
    ∀ i ∈ ([1, 2] : List (BitVec 4)).flatMap (fun t => [Instr.vadd 1 2 3 0 0 t, .vaddImm 1 2 0 0 t 5, .vsub 1 2 3 0 0 t, .vsubImm 1 2 0 0 t 5,
      .vmul 1 2 3 0 0 t, .vmulImm 1 2 0 0 t 5, .vmulh 1 2 3 0 0 t, .vmulhImm 1 2 0 0 t 5, .vmin 1 2 3 0 0 t, .vminImm 1 2 0 0 t 5,
      .vmax 1 2 3 0 0 t, .vmaxImm 1 2 0 0 t 5, .vand 1 2 3 0 t, .vandImm 1 2 0 t 5, .vor 1 2 3 0 t, .vorImm 1 2 0 t 5, .vxor 1 2 3 0 t,
      .vxorImm 1 2 0 t 5, .vshl 1 2 3 0 t, .vshlImm 1 2 0 t 5, .vshr 1 2 3 0 t, .vshrImm 1 2 0 t 5, .vsar 1 2 3 0 t, .vsarImm 1 2 0 t 5,
      .vpopc 1 2 0 t, .vclz 1 2 0 t, .vdiv 1 2 3 0 0 t, .vdivImm 1 2 0 0 t 5]), Ready (st 1 2 3 4) i :=
  ⟨rfl, ⟨by decide, by decide⟩, super_of (by decide), ready_all (by decide +kernel)⟩

theorem test_witness_PlaneElementResults : Fresh (st 1 2 3 4) ∧ SoundShape (st 1 2 3 4) ∧ NoSuperstep (st 1 2 3 4) 0 ∧
    ∀ i ∈ [Instr.vadd 1 2 3 0 1 0, .vsub 1 2 3 0 1 3, .vmul 1 2 3 0 1 4, .vfma 1 2 3 0 1 0, .vmin 1 2 3 0 1 0, .vmax 1 2 3 0 1 3, .vabs 1 2 0 1 0,
      .vneg 1 2 0 1 0, .vabs 1 2 0 0 1, .vneg 1 2 0 0 5, .vdiv 1 2 3 0 1 0, .vsqrt 1 2 0 1 0, .vadd 1 2 3 0 0 6, .vmulh 1 2 3 0 0 5, .vshl 1 2 3 0 5,
      .vpopc 1 2 0 5, .vaddImm 1 2 0 1 0 5, .vsubImm 1 2 0 1 0 5, .vmulImm 1 2 0 1 0 5, .vdivImm 1 2 0 1 0 5, .vminImm 1 2 0 1 0 5,
      .vmaxImm 1 2 0 1 0 5, .vmulhImm 1 2 0 0 5 5, .vcvtTo 1 2 4 0 1 0 0, .vcvtFrom 1 2 3 0 1 0 1], Ready (st 1 2 3 4) i :=
  ⟨rfl, ⟨by decide, by decide⟩, super_of (by decide), ready_all (by decide +kernel)⟩

theorem test_witness_MaskAndShapeResults : Fresh (st 1 2 3 4) ∧ SoundShape (st 1 2 3 4) ∧
    ∀ i ∈ [Instr.vcmp 0 1 2 3 0 2 1, .vcmp 1 0 2 3 0 2 0, .vcmpImm 0 1 2 0 0 5 7, .kand 1 2 3, .kor 0 2 3, .kxor 1 2 3, .knot 1 2, .kedge 1 2,
      .kpop 4 2, .shapeq 4, .shape 4 1 2], Ready (st 1 2 3 4) i :=
  ⟨rfl, ⟨by decide, by decide⟩, ready_all (by decide +kernel)⟩

theorem test_witness_PlaneMovementResults : Fresh (st 1 2 3 4) ∧ SoundShape (st 1 2 3 4) ∧ NoSuperstep (st 1 2 3 4) 0 ∧
    (st 1 2 3 4).cx.ast.extractLsb' 8 7 = 0 ∧
    ∀ i ∈ [Instr.vsel 1 2 3 0 6, .vbcast 1 4 0 3, .vbcastImm 1 0 6 5, .vidx 1 0 2, .vperm 1 2 3 0 1, .vtrans 1 2 0 1, .vred 1 2 0 0 0 1 0,
      .vred 1 2 1 4 0 0 2, .vscan 1 2 0 0 0 1 0, .vscan 1 2 1 5 0 0 1, .vcvtTo 1 2 0 0 1 0 0, .vcvtFrom 1 2 0 0 1 0 0],
      Ready (st 1 2 3 4) i :=
  ⟨rfl, ⟨by decide, by decide⟩, super_of (by decide), by decide, ready_all (by decide +kernel)⟩

/-- Plane 2 holds the offsets 0, 4, 8 and 12 of a two by two shape. -/
def offsets (s : State) : State := s.modCore 0 (fun c => { c with planes := [(4097, 4), (4160, 8), (4161, 12)] })

theorem test_witness_PlaneMemoryResults : let s := offsets (st (um 0x100) 0x10000 (um 0x102) 8)
    let b := stOf 0 { ctx0 with ba := um 0x100 ||| 0x1800000000 }
    Fresh s ∧ SoundShape s ∧ SoundMemory s ∧ NoSuperstep s s.cx.coreKey ∧ Quiet s ∧ s.cx.loads < 63 ∧ s.cur / 16 = s.cx.coreKey ∧
    (∀ i ∈ ([1, 2, 3] : List SReg).flatMap (fun r => [Instr.vld 5 r 4 0 1, .vldi 5 r 2 0 1, .vst 5 r 4 0 1, .vsti 5 r 2 0 1, .vamo 5 r 2 1 0,
      .vrst 5 r 2 1 0]), Ready s i) ∧
    (∀ p ∈ [((1 : SReg), true), (2, false)], ∀ l ∈ [memElems s.cx 0 1 (strideVa s.cx p.1 4), memElems s.cx 0 1 (indexVa s p.1 2)],
      elemCause l = none ∧ (∀ e ∈ l, ownUM s s.cx e.2.2.1 = p.2) ∧ l ≠ [] ∧ (s.core 0).journal.length + l.length ≤ 512) ∧
    (memElems s.cx 0 1 (indexVa s 1 2)).map (fun e => ownKey s s.cx e.2.2.1) = [0x030000000100, 0x030000000104, 0x030000000108, 0x03000000010C] ∧
    (∀ l ∈ [memElems s.cx 0 1 (strideVa s.cx 3 4), memElems s.cx 0 1 (indexVa s 3 2)], elemCause l = some (0x021, um 0x102)) ∧
    Fresh b ∧ (∀ i ∈ [Instr.vldb 5 4 0 1, .vstb 5 4 0 1], Ready b i) ∧ bitCause b b.cx (b.cx.rows * b.cx.cols * 5) false = none ∧
    bitCause b b.cx (b.cx.rows * b.cx.cols * 5) true = none ∧ ownUM b b.cx (baVa b.cx.ba) = true ∧ Quiet b :=
  ⟨rfl, ⟨by decide, by decide⟩, sound_of (by decide), super_of (by decide), ⟨by decide, by decide, by decide, by decide⟩, by decide, by decide,
   ready_all (by decide +kernel), by decide +kernel, by decide +kernel, by decide +kernel, rfl, ready_all (by decide +kernel), by decide +kernel,
   by decide +kernel, by decide +kernel, ⟨by decide, by decide, by decide, by decide⟩⟩

/-- A tensor in the cluster memory: format, rows, columns, base in bits, pitch in bits. -/
def tensor (f r c base pitch : Nat) : Tid :=
  { defined := true, w0 := BitVec.ofNat 64 (f + 64 + r * 2 ^ 16 + c * 2 ^ 32), w1 := BitVec.ofNat 64 base, w2 := BitVec.ofNat 64 pitch, w3 := 0,
    status := 0 }

/-- Tensors 1 and 2 of 2 × 2 in F32, 3 of 2 × 1, 5 of 2 × 1 in I32, 6 a far one like 1. -/
def tensors (s : State) : State := s.modCluster 0 (fun c =>
  { c with tids := [(1, tensor 1 2 2 0 64), (2, tensor 1 2 2 0x800 64), (3, tensor 1 2 1 0x1000 32), (5, tensor 32 2 1 0x1800 32),
      (6, { tensor 1 2 2 0x10000 64 with w0 := 0x200020081 })] })

theorem test_witness_TensorTableResults_queue : let s := st 0x8000000500000000 0x7 0 0
    let e := s.modCluster 0 (fun c => { c with tqEn := true })
    Fresh s ∧ Ready s (.putx 1 regTQCTL) ∧ Ready s (.putx 2 regRDOOR) ∧ Fresh e ∧ Ready e (.putx 1 regTQCTL) ∧
    (e.cluster e.cx.clusterKey).tqEn = true ∧ (s.cluster s.cx.clusterKey).tqEn = false :=
  ⟨rfl, ready_of (by decide), ready_of (by decide), rfl, ready_of (by decide), by decide, by decide⟩

/-- Unit memory with eight bytes of a word at an offset. -/
def umWord (s : State) (n v : Nat) : State := s.writeMem (0x030000000000 + n) 8 v

/-- Word n of the descriptor at offset 0x100. -/
def word (s : State) (n : Nat) : Word := BitVec.ofNat 64 (s.readMem (ownKey s s.cx (um 0x100) + 8 * n) 8)

theorem test_witness_TensorTableResults : let s (v : Word) := umWord (umWord (tensors (st v (um 0x100) 0 0)) 0x100 0x200020041) 0x110 64
    let l : List Instr := [.tdefDefine 4 1 2, .tdefStatus 4 1 2, .tdefClearStatus 4 1 2, .tdefUndefine 4 1 2]
    (∀ v ∈ [(0x407 : Word), 7, 1, 0x101, 0x201, 0x301], Fresh (s v) ∧ SoundMemory (s v) ∧ ∀ i ∈ l, Ready (s v) i) ∧
    checkVa (um 0x100) 32 = none ∧ ownUM (s 7) (s 7).cx (um 0x100) = true ∧ tidInUse (s 7) 0 7 = false ∧
    descReason (⟨true, word (s 7) 0, word (s 7) 1, word (s 7) 2, word (s 7) 3, 0⟩ : Tid) = none ∧
    (let e := st 7 (um 0x100) 0x20000 0
     Ready e (.tdefDefine 4 1 2) ∧ Fresh e ∧ SoundMemory e ∧ descReason (⟨true, 0, 0, 0, 0, 0⟩ : Tid) = some 4 ∧
     Ready e (.tdefDefine 4 1 3) ∧ checkVa (e.rS 3) 32 = none ∧ ownUM e e.cx (e.rS 3) = false) := by
  refine ⟨fun v hv => ?_, by decide +kernel, by decide +kernel, by decide +kernel, by decide +kernel,
    ready_of (by decide), rfl, sound_of (by decide), by decide +kernel, ready_of (by decide), by decide, by decide⟩
  simp only [List.mem_cons, List.not_mem_nil, or_false] at hv
  rcases hv with rfl | rfl | rfl | rfl | rfl | rfl <;>
    exact ⟨by rfl, sound_of (by decide +kernel), ready_all (by decide +kernel)⟩

theorem test_witness_TensorTableResults_types : let s (v : Word) := umWord (umWord (st v (um 0x100) 0 0) 0x108 0x100) 0x110 1
    (∀ v ∈ [(0x100 : Word), 0x40, 3, 0xC3], Fresh (s v) ∧ SoundMemory (s v) ∧ ∀ i ∈ [Instr.ttypeDefine 4 1 2, .ttypeUndefine 4 1 2], Ready (s v) i) ∧
    (s 3).cx.clusterKey = 0 ∧ ((s 3).cluster 0).tasks.any (fun r => r.ty = 3) = false ∧
    typeReason (⟨true, word (s 3) 0, word (s 3) 1, word (s 3) 2, word (s 3) 3⟩ : TaskType) = none := by
  refine ⟨fun v hv => ?_, by decide +kernel, by decide +kernel, by decide +kernel⟩
  simp only [List.mem_cons, List.not_mem_nil, or_false] at hv
  rcases hv with rfl | rfl | rfl | rfl <;> exact ⟨by rfl, sound_of (by decide +kernel), ready_all (by decide +kernel)⟩

/-- Command words: the matrix, element, reduction, conversion, copy and gather commands over the tensors. -/
def commands : List (Instr × Nat × Nat × Word × Word) :=
  [(.tmul 4 1 2, 1, 0, 0x010102, 0x1000000000000), (.tew 4 1 2, 2, 0, 0x010102, 0), (.tred 4 1 2, 2, 1, 0x0103, 0), (.tcvt 4 1 2, 2, 2, 0x0102, 0),
   (.tmove 4 1 2, 3, 0, 0x0102, 0), (.tgather 4 1 2, 4, 0, 0x4005000102, 0)]

theorem test_witness_TensorCommandResults : ∀ x ∈ commands, let s := tensors (st x.2.2.2.1 x.2.2.2.2 0 0)
    Fresh s ∧ Ready s x.1 ∧ s.cx.phase = 0 ∧ s.cx.demandAge = none ∧ s.cx.waitSubs = [] ∧ s.cx.forcing = [] ∧
    (s.core s.cx.coreKey).journal = [] ∧
    cmdReason s (cmdOf s x.2.1 x.2.2.1 (s.rS 1) (s.rS 2)) false = none ∧
    ((cmdOf s x.2.1 x.2.2.1 (s.rS 1) (s.rS 2)).dst s).level ≠ 2 ∧ s.cx.tiles < 63 ∧ (s.core 0).siding = [] := by
  intro x hx
  simp only [commands, List.mem_cons, List.not_mem_nil, or_false] at hx
  rcases hx with rfl | rfl | rfl | rfl | rfl | rfl <;>
    exact ⟨rfl, ready_of (by decide +kernel), by decide +kernel, by decide +kernel, by decide +kernel, by decide +kernel, by decide +kernel,
      by decide +kernel, by decide +kernel, by decide +kernel, by decide +kernel⟩

def node0 : Node :=
  { slot := 0, word := 0, cls := 2, func := 2, a := 0x0102, b := 0, ctxSlot := 0, pc := 0x1000, age := 1, nsub := 1, done := 0, out := 0,
    gone := 0, faulted := false, holds := [] }

theorem test_witness_TensorCommandResults_more : let far := tensors (st 0x0106 0 0 0)
    let bad := tensors (st 0x0107 0 1 0x40)
    let full := (tensors (stOf 0 { ctx0 with tiles := 63, regs := regsOf [(1, 0x0102)] }))
    let n := (tensors (st 1 0 0x100 0)).modCore 0 (fun c => { c with siding := [node0] })
    let good := tensors (st 0x02 0 0 0)
    Fresh far ∧ Ready far (.tmove 4 1 2) ∧ far.cx.phase = 0 ∧ far.cx.demandAge = none ∧ far.cx.waitSubs = [] ∧ far.cx.forcing = [] ∧ (far.core 0).journal = [] ∧
    cmdReason far (cmdOf far 3 0 (far.rS 1) (far.rS 2)) false = none ∧ ((cmdOf far 3 0 (far.rS 1) (far.rS 2)).dst far).level = 2 ∧
    (far.core 0).siding = [] ∧ far.cx.copies < 63 ∧ (far.cluster 0).poolWait = [] ∧
    (cmdOf far 3 0 (far.rS 1) (far.rS 2)).nsub ≤ poolRoom far.clk (far.cluster 0) ∧
    Ready bad (.tcvt 4 1 2) ∧ cmdReason bad (cmdOf bad 2 2 (bad.rS 1) (bad.rS 2)) false = some 3 ∧
    Ready full (.tcvt 4 1 2) ∧ cmdReason full (cmdOf full 2 2 (full.rS 1) (full.rS 2)) false = none ∧ 63 ≤ full.cx.tiles ∧
    Ready good (.force 4 1 2) ∧ (good.core 0).siding = [] ∧ good.cx.waitSubs = [] ∧ good.cx.demandAge = none ∧
    forceReason (cmdOf good 0 2 (good.rS 1) (good.rS 2)) ((cmdOf good 0 2 (good.rS 1) (good.rS 2)).dst good) = none ∧
    Ready bad (.force 4 3 4) ∧ forceReason (cmdOf bad 0 2 (bad.rS 4) (bad.rS 2)) ((cmdOf bad 0 2 (bad.rS 4) (bad.rS 2)).dst bad) = some 3 ∧
    (let r := good.modCore 0 (fun c => { c with siding := [node0], nextAge := 2 })
     Ready r (.force 4 1 2) ∧ r.cx.demandAge = none ∧ r.cx.waitSubs = [] ∧ Fresh r ∧
     forceReason (cmdOf r 0 2 (r.rS 1) (r.rS 2)) ((cmdOf r 0 2 (r.rS 1) (r.rS 2)).dst r) = none ∧ (r.cluster 0).poolWait = [] ∧
     (r.core 0).siding = [node0] ∧ node0.age < (r.core 0).nextAge ∧ node0.holds = [] ∧ (nodeCmd 0 node0).idx = false ∧
     node0.subs.filter (fun q => !node0.done.getLsbD q && !node0.gone.getLsbD q && footsMeet (outFoot r (nodeCmd 0 node0) q)
       ((List.range (cmdOf r 0 2 (r.rS 1) (r.rS 2)).nsub).flatMap (outFoot r (cmdOf r 0 2 (r.rS 1) (r.rS 2))))) = [0]) ∧
    (let w := stOf 0 { good.cx with demandAge := some 2, waitSubs := [(1, 0)] }
     Fresh w ∧ Ready w (.force 4 1 2) ∧ w.cx.demandAge ≠ none ∧ (w.core 0).siding = [] ∧
     ∀ p ∈ w.cx.waitSubs, queuedSub w 0 p.1 p.2 = false) ∧
    Ready n (.tdrop 4 1) ∧ (n.core 0).siding = [node0] ∧ node0.done = 0 ∧ node0.out = 0 ∧ node0.gone = 0 ∧ 1 ≤ node0.nsub ∧ node0.nsub ≤ 64 ∧
    node0.slot < 64 ∧ Ready n (.sidq 4 3) ∧ n.rS 3 = 0x100 ∧ node0.orphan = false := by
  intros
  constructorm* _ ∧ _ <;> first | decide +kernel | exact rfl | exact ready_of (by decide +kernel)

/-- Task type 0 is a conversion, and the queue is enabled. -/
def queued (s : State) (tail : BitVec 16) : State := (tensors s).modCluster 0 (fun c =>
  { c with tqEn := true, tqLog := 4, tqTail := tail, types := [(0, { defined := true, w0 := 0x0102, w1 := 0x102, w2 := 1, w3 := 0 })] })

theorem test_witness_TensorCommandResults_tenq : let s := queued (st 0 0 0 0) 0
    let b := queued (st 0x1000000000000 0 0 0) 0
    Fresh s ∧ Ready s (.tenq 4 1) ∧ SoundMemory s ∧ NoSuperstep s 0 ∧ s.cx.phase = 0 ∧ s.cx.demandAge = none ∧ s.cx.waitSubs = [] ∧
    s.cx.forcing = [] ∧ (s.core 0).journal = [] ∧ (s.cluster 0).tqEn = true ∧ (typeAt s 0 ((s.rS 1).extractLsb' 48 6).toNat).defined = true ∧
    (s.rS 1).extractLsb' 54 10 = 0 ∧ ((s.cluster 0).tqTail - (s.cluster 0).tqHead).toNat < 2 ^ (s.cluster 0).tqLog ∧ s.cx.tiles < 63 ∧
    Ready b (.tenq 4 1) ∧ (typeAt b 0 ((b.rS 1).extractLsb' 48 6).toNat).defined = false ∧ SoundMemory b ∧ NoSuperstep b 0 := by
  intros
  constructorm* _ ∧ _ <;> first | decide | exact rfl | exact ready_of (by decide) | exact sound_of (by decide) | exact super_of (by decide)

def pool0 : PoolEntry :=
  { seq := 7, cls := 2, func := 2, a := 0x0102, b := 0, sub := 0, src := .node 0 1, scratch := 0, core := 0, ctxSlot := 0, demand := none,
    inF := [], outF := [], engine := some 0, sent := false, holds := [], faulted := none }

def pooled (e : PoolEntry) : State :=
  ((tensors (st 0 0 0 0)).modCluster 0 (fun c => { c with pool := [e] })).modCore 0 (fun c => { c with siding := [{ node0 with out := 1 }] })

theorem test_witness_EngineEvents : let w := (st 0 0 0 0).modCluster 0 (fun c => { c with poolWait := [pool0] })
    let f := pooled { pool0 with engine := none }
    let o : SubOut := subCompute f (entryCmd 0 pool0) 0
    let g := pooled { pool0 with engine := none, sent := false }
    let s := pooled { pool0 with out := some o }
    let y : CopyCmd := { id := 4, core := 0, ctxSlot := 0, pc := 0x1000, a := 0x0106, left := 1, faults := 0, firstInfo := 0 }
    let e : PoolEntry := { pool0 with cls := 3, func := 0, src := .copy 4, engine := some 2, sent := true }
    let c := (pooled e).modCluster 0 (fun c => { c with copies := [y] })
    let r : Req := { req0 with kind := .engRead 0 7, st := .replied 0x42 0 true }
    let d : PoolEntry := { pool0 with demand := some (0, 2) }
    let l := { pooled d with reqs := [r] }
    w.power = true ∧ (w.cluster 0).poolWait = pool0 :: [] ∧ (w.cluster 0).pool.length < 128 ∧
    (f.cluster 0).pool = [{ pool0 with engine := none }] ∧ f.throttled = false ∧ inService f 0 240 = true ∧ SoundMemory g ∧ (g.cluster 0).pool = [{ pool0 with engine := none }] ∧
    (s.cluster 0).pool = [{ pool0 with out := some o }] ∧ pool0.faulted = none ∧ pool0.engine ≠ none ∧ pool0.cls ≠ 3 ∧ pool0.src = .node 0 1 ∧ pool0.sub = 0 ∧ pool0.core = 0 ∧
    (s.core 0).siding = [{ node0 with out := 1 }] ∧ node0.age = 1 ∧ node0.nsub = 1 ∧ s.reqs = [] ∧ SoundMemory s ∧ NoSuperstep s 0 ∧
    (c.cluster 0).pool = [e] ∧ e.sent = true ∧ e.cls = 3 ∧ e.faulted = none ∧ (c.cluster 0).copies = [y] ∧ y.left = 1 ∧ y.faults = 0 ∧ y.orphan = false ∧ c.reqs = [] ∧
    (l.cluster 0).pool = [d] ∧ d.engine ≠ none ∧ (l.core 0).siding = [{ node0 with out := 1 }] ∧ l.reqs = [r] ∧ 0x42 < 512 ∧ 0x42 ≠ 0x161 ∧
    (l.ctx 0).run = .live ∧ (l.ctx 0).kind = .control ∧ (l.ctx 0).demandAge = none ∧ (l.ctx 0).lates = [] ∧ (l.ctx 0).clusterKey = 0 ∧
    (l.cluster 0).poolWait = [] ∧ (l.ctx 0).pending.length < 8 := by
  intros
  constructorm* _ ∧ _ <;> first | decide | exact sound_of (by decide) | exact super_of (by decide)

theorem test_witness_EngineEvents_tasks : let s := queued (st 0 0 0 0) 1
    let u := s.modCluster 0 (fun c => { c with types := [] })
    (∀ t ∈ [s, u], t.power = true ∧ (t.cluster 0).tqHead ≠ (t.cluster 0).tqTail ∧ (t.cluster 0).tqHolds = [] ∧ (t.cluster 0).poolWait = [] ∧
      (∀ i ∈ List.range 4, (t.core i).saveDue = false) ∧ inService t 0 384 = true ∧ (t.ctx 0).run = .live ∧ (t.ctx 0).kind = .control ∧
      (t.ctx 0).pending.length < 8) ∧
    BitVec.ofNat 64 (s.readMem (taskLoc s 0 0) 8) = 0 ∧ (typeAt s 0 0).defined = true ∧ freeLive s 0 0 = some 0 ∧
    cmdReason s (recordCmd s 0 0 0) true = none ∧ (s.cluster 0).pool.length + (recordCmd s 0 0 0).nsub ≤ 128 ∧
    (typeAt u 0 0).defined = false ∧ (u.cluster 0).tqLeft = [] := by
  decide +kernel

/-! ## Witnesses: what operations and engines compute -/

theorem test_witness_IntegerElementArithmetic :
    (∀ p ∈ [(32, 1#4, true), (32, 2#4, false), (16, 5#4, true)], p ∈ [(32, 1#4, true), (32, 2#4, false), (16, 5#4, true)]) ∧
    reading 13 0x01FFFFFF = .poison ∧ reading 13 0xFF = .poison ∧ reading 13 0 ≠ .poison ∧ m8Bits 5 = 0x050505 % 2 ^ 25 ∧
    m8Bits (-1) = (254 + 256 * 255 + 65536 * 256) % 2 ^ 25 := by
  decide +kernel

theorem test_witness_FloatElementArithmetic :
    (∀ p ∈ [((0 : BitVec 4), 1), (3, 3), (4, 4)], p ∈ [(0#4, 1), (3#4, 3), (4#4, 4)] ∧ (codeFloat p.2).isSome = true) ∧
    codeFloat 1 = some { ebits := 8, fbits := 23 } ∧ 0xFFC00000 < 2 ^ (1 + 8 + 23) ∧
    (∃ v, reading 1 0xBF800000 = .num true v) ∧ reading 1 0x7F800000 = .inf false ∧ reading 1 0xFF800000 = .inf true ∧
    reading 1 0x7FC00000 = .nan :=
  ⟨by decide, rfl, by decide, ⟨_, rfl⟩, rfl, rfl, rfl⟩

theorem test_witness_ConversionResults : 13 ∈ formatCodes ∧ 18 ∈ formatCodes ∧ 19 ∈ formatCodes ∧ 4 ∈ formatCodes ∧ 32 ∈ formatCodes ∧
    33 ∈ formatCodes ∧ reading 18 2 = .poison ∧ reading 3 0x7C00 = .inf false ∧ reading 4 0x7FC0 = .nan ∧ reading 8 0x80 = whole (-128) :=
  ⟨by decide, by decide, by decide, by decide, by decide, by decide, rfl, rfl, rfl, rfl⟩

/-- Beside the tensors above, 7 to 9 of 2 × 2 in M8: 7 holds poison first. -/
def residues : State :=
  let s := tensors (st 0 0 0 0)
  { s.modCluster 0 (fun c => { c with tids := c.tids ++ [(7, tensor 13 2 2 0x2000 64), (8, tensor 13 2 2 0x2800 64), (9, tensor 13 2 2 0x3000 64)] }) with
    mem := [(0x020000000400, 0xFF), (0x020000000401, 0xFF), (0x020000000402, 0xFF), (0x020000000403, 0x01)] }

def command (cls func : Nat) (a b : Word) : Cmd := cmdOf residues cls func a b

theorem test_witness_TileElementResults : let s := residues
    let fmts (c : Cmd) : List Nat := [(c.dst s).fmt, (c.sa s).fmt, (c.sb s).fmt, (c.sx s).fmt]
    let row : List (Nat × Nat) := [(0, 0), (0, 1)]
    (command 2 0 0x010102 0).cls = 2 ∧ fmts (command 2 0 0x010102 0) = [1, 1, 1, 0] ∧ (command 2 0 0x010102 0).op < 8 ∧
    ((command 2 0 0x010102 0).sa s).level < 2 ∧ ((command 2 0 0x010102 0).sa s).fmt ≠ 13 ∧
    fmts (command 2 0 0x080809 0) = [13, 13, 13, 0] ∧ fmts (command 2 0 0x080702 0) = [1, 13, 13, 0] ∧ (command 2 0 0x080702 0).op < 3 ∧
    fmts (command 2 1 0x0103 0) = [1, 1, 0, 0] ∧ (command 2 1 0x0103 0).op % 2 = 0 ∧ (command 2 1 0x40000000103 0).op % 2 = 1 ∧ row ≠ [] ∧
    (command 2 1 0x0103 0).op < 6 ∧ fmts (command 2 1 0x0709 0) = [13, 13, 0, 0] ∧ fmts (command 2 2 0x0102 0) = [1, 1, 0, 0] ∧
    (command 3 0 0x0102 0).cls = 3 ∧ (command 4 0 0x4005000102 0).cls = 4 ∧ ((command 4 0 0x4005000102 0).sx s).fmt = 32 ∧
    engineReading s (command 2 0 0x080709 0) ((command 2 0 0x080709 0).sa s) 0 0 = .poison ∧
    engineReading s (command 2 0 0x080709 0) ((command 2 0 0x080709 0).sb s) 0 0 ≠ .poison := by
  decide +kernel

theorem test_witness_MatrixElementResults : let s := residues
    let fmts (c : Cmd) : List Nat := [(c.dst s).fmt, (c.sa s).fmt, (c.sb s).fmt]
    let f := command 1 0 0x010102 0x1000000000000
    let p := command 1 0 0x080709 0x1000000000000
    let n := command 1 0 0x080809 0x1000000000000
    (∀ c ∈ [f, p, n], c.cls = 1 ∧ (c.sa s).scaled = false ∧ (c.sb s).scaled = false ∧ c.idx = false ∧ c.acc = false ∧
      (c.dst s).fmt ∈ [0, 1, 2, 3, 4, 13, 32] ∧ (c.sa s).fmt < 20 ∧ (c.sb s).fmt < 20) ∧
    fmts f = [1, 1, 1] ∧ fmts p = [13, 13, 13] ∧ fmts n = [13, 13, 13] ∧
    64 * p.k0 ≤ 0 ∧ 0 < min (64 * (p.k0 + p.kn)) (p.sa s).cols ∧ scaleAt s p (p.sa s) 0 0 ≠ none ∧
    reading 13 (elemAt s p (p.sa s) 0 0) = .poison ∧
    (∀ k ∈ [0, 1], reading 13 (elemAt s n (n.sa s) 0 k) ≠ .poison ∧ reading 13 (elemAt s n (n.sb s) k 0) ≠ .poison) := by
  decide +kernel

/-! ## Witnesses: messages, views -/

/-- World 0 has a rank table of ten entries, of which the NI holds entry 5. -/
def ranked (s : State) (e : Word32) : State :=
  (s.modWd 0 0 (fun w => { w with rtlen := 10, clusters := 1, rtbase := 0xFFFD800000000000, dmRanges := [(0, 0x100)] })).modDie 0 (fun d => { d with rankCache := [(5, some e)] })

def msg0 : Msg :=
  { id := 1, world := 0, die := 0, core := 0, who := { slice := 1, member := 0, slot := 0 }, pc := 0x1000, sender := 3, rank := 5,
    data := [1, 2, 3, 4, 5, 6, 7, 8], entry := 0x40000000, st := .queued, retryAt := 0 }

def recv0 : RecvMsg := { slot := 0, sender := 3, len := 8, data := [1, 2, 3, 4, 5, 6, 7, 8], time := 9 }

theorem test_witness_MessageInstructions_send : let s (e : Word32) := ranked (st 5 (um 0x100) 0x100000000 0x10000) e
    let full := { s 0x40000000 with msgs := List.replicate 16 msg0 }
    let p := ranked (stOf 0 { ctx0 with phase := 1, waitSubs := [(0, 8), (1, 9)], regs := regsOf [(1, 5), (2, um 0x100)] }) 0x40000000
    rankWaits (s 0) 0 0 5 permR = none ∧ rankWaits (s 0x40000000) 0 0 5 permR = none ∧
    Ready p (.send 6 1 2 0) ∧ Fresh p ∧ p.cx.phase = 1 ∧
    entryState (rankEntry p 0 0 5).1 = 1 ∧ (sendQueue p 0).length < 16 ∧ full.cx.phase = 0 ∧
    (∀ e ∈ [(0 : Word32), 0x40000000, 0x80000000], (s e).cx.phase = 0 ∧ Fresh (s e) ∧ Ready (s e) (.send 6 1 2 0) ∧ Ready (s e) (.send 6 3 2 0) ∧
      Ready (s e) (.send 6 1 4 0)) ∧
    checkVa (um 0x100) 8 = none ∧ ownUM (s 0) (s 0).cx (um 0x100) = true ∧ ownUM (s 0) (s 0).cx (um 0x100 + 7) = true ∧
    checkVa 0x10000 8 = none ∧ ownUM (s 0) (s 0).cx 0x10000 = false ∧
    entryState (rankEntry (s 0) 0 0 5).1 = 0 ∧ entryState (rankEntry (s 0x40000000) 0 0 5).1 = 1 ∧ entryState (rankEntry (s 0x80000000) 0 0 5).1 = 2 ∧
    (sendQueue (s 0x40000000) 0).length < 16 ∧ (holdQueue (s 0x40000000) 0).length < 256 ∧ twinOn (s 0x40000000) 0 = none ∧
    Ready full (.send 6 1 2 0) ∧ 16 ≤ (sendQueue full 0).length ∧ entryState (rankEntry full 0 0 5).1 ≠ 0 := by
  refine ⟨by decide +kernel, by decide +kernel, ready_of (by decide +kernel), rfl, by decide +kernel, by decide +kernel, by decide +kernel, by decide +kernel,
    fun e he => ?_, ?_⟩
  rotate_left
  · constructorm* _ ∧ _ <;> first | decide +kernel | exact ready_of (by decide +kernel)
  simp only [List.mem_cons, List.not_mem_nil, or_false] at he
  rcases he with rfl | rfl | rfl <;> exact ⟨rfl, rfl, ready_of (by decide), ready_of (by decide), ready_of (by decide)⟩

theorem test_witness_MessageInstructions_recv : let s := st (um 0x100) 0 7 0
    let m := s.modCore 0 (fun c => { c with recvQ := [recv0] })
    Fresh m ∧ Ready m (.recv 6 1 2) ∧ checkVa (m.rS 1) 64 = none ∧ ownUM m m.cx (m.rS 1) = true ∧ SoundMemory m ∧ NoSuperstep m 0 ∧
    (m.core m.cx.coreKey).recvQ.find? (fun x => x.slot = m.cx.slot) = some recv0 ∧ (m.core 0).ringEnd = 0 ∧
    Ready s (.recv 6 1 2) ∧ Ready s (.recv 6 1 3) ∧ (s.core s.cx.coreKey).recvQ.find? (fun x => x.slot = s.cx.slot) = none ∧ s.rS 2 = 0 ∧
    s.rS 3 ≠ 0 ∧ s.cx.phase = 0 ∧ SoundMemory s ∧ NoSuperstep s 0 :=
  ⟨rfl, ready_of (by decide), by decide, by decide, sound_of (by decide), super_of (by decide), by decide, by decide, ready_of (by decide),
   ready_of (by decide), by decide, by decide, by decide, by decide, sound_of (by decide), super_of (by decide)⟩

theorem test_witness_MessageInstructions_ranks : let s := ranked (st 5 0x40000000 0x80000000 0xC0000000) 0x80000000
    let o := ranked (st 5 0x40000000 0x80000000 0xC0000000) 0x40000000
    let w := { s with msgs := [msg0] }
    let p (e : Word32) := { ranked (stOf 0 { ctx0 with phase := 1, waitSubs := [(5, 0), ((0x80000000 : Word32).toNat, e.toNat)] }) 0x80000000
      with msgs := [msg0] }
    rankWaits s 0 0 5 permR = none ∧ rankWaits s 0 0 5 permW = none ∧ rankWaits o 0 0 5 permR = none ∧ rankWaits o 0 0 5 permW = none ∧
    rankWaits w 0 0 5 permR = none ∧ rankWaits w 0 0 5 permW = none ∧ s.cx.phase = 0 ∧ w.cx.phase = 0 ∧ Fresh w ∧
    Ready (p 0x80000000) (.rankset 6 1 3) ∧ Ready (p 0x40000000) (.rankset 6 1 3) ∧ (p 0).cx.phase = 1 ∧
    outstanding (p 0) 0 0 5 ≠ [] ∧ entryState (0x80000000 : Word32) = 2 ∧ entryState (0x40000000 : Word32) ≠ 2 ∧
    Fresh s ∧ Ready s (.rankset 6 1 2) ∧ Ready s (.rankset 6 1 3) ∧ Ready s (.rankset 6 1 4) ∧ rankValueBad (s.rS 2) false = false ∧
    rankValueBad (s.rS 3) false = false ∧ rankValueBad (s.rS 4) false = true ∧ (s.rS 1).toNat < (s.wd 0 0).rtlen.toNat ∧
    entryState ((s.rS 2).extractLsb' 0 32) ≠ 2 ∧ entryState ((s.rS 3).extractLsb' 0 32) = 2 ∧ outstanding s 0 0 5 = [] ∧
    Ready w (.rankset 6 1 3) ∧ outstanding w 0 0 5 ≠ [] ∧
    Ready s (.rankmv 6 1 2) ∧ rankValueBad (s.rS 2) true = false ∧ entryState (rankEntry s 0 0 5).1 = 2 ∧ Ready o (.rankmv 6 1 2) ∧
    entryState (rankEntry o 0 0 5).1 ≠ 2 ∧ Ready s (.putx 1 regRTBASE) ∧ Ready s (.putx 1 regRTLEN) ∧
    entryCtxHere ((gang ctx0)) 0 0 0x40000000 = some 0 := by
  intros
  constructorm* _ ∧ _ <;> first | decide | exact rfl | exact ready_of (by decide)

theorem test_witness_MessageEvents : let s := { gang { ctx0 with rank := some 5 } with msgs := [msg0] }
    let f := s.modCore 0 (fun c => { c with recvQ := List.replicate 32 recv0 })
    let d : Msg := { msg0 with st := .declined, retryAt := 64 }
    let r : Msg := { msg0 with st := .refused }
    (∀ t ∈ [s, f], t.power = true ∧ t.msgs = [msg0] ∧ msg0.st = .queued ∧ t.pkg = 0 ∧ entryRoute t 0 msg0.entry = some (0, 0) ∧
      inService t 0 437 = true ∧ d2dUp t 0 0 = true ∧ placedCtx t 0 0 = true ∧ (t.ctx 0).rank = some msg0.rank ∧ (t.core 0).ringEnd = 0) ∧
    coreKeyOf 0 (entryCluster msg0.entry) (entryCore msg0.entry) * 16 + entrySlot msg0.entry = 0 ∧ (s.core 0).recvQ.length < 32 ∧
    32 ≤ (f.core 0).recvQ.length ∧ d.st = .declined ∧ d.retryAt ≤ { s with msgs := [d], clk := 64 }.clk ∧
    ({ msg0 with st := .accepted } : Msg).st = .accepted ∧ r.st = .refused ∧ spotOf { s with msgs := [r] } r.who = .placed 0 ∧
    (s.ctx 0).run = .live ∧ (s.ctx 0).kind = .control ∧ (s.ctx 0).pending.length < 8 := by
  decide

theorem test_witness_MessageEvents_others : let s := { stOf 0 { ctx0 with phase := 1, fetched := [0x36742401#32], limitAt := some 30 } with clk := 30 }
    let h := { (st 0 0 0 0).modWorld 0 (fun w => { w with keys := [(1, some [])] }) with views := [(0, { View.empty with state := 0 })] }
    s.power = true ∧ (s.ctx 0).run = .live ∧ (s.ctx 0).phase = 1 ∧ (s.ctx 0).fetched = 0x36742401#32 :: [] ∧
    decode 0x36742401#32 0 = .ok (.recv 7 8 9) ∧ (s.ctx 0).limitAt = some 30 ∧ 30 ≤ s.clk ∧ (s.ctx 0).lates = [] ∧
    messageFor s (s.ctx 0) = none ∧ h.power = true ∧ (Tbl.get none (h.world 0).keys 1).isSome = true ∧
    (h.view (viewKey 0 0 0)).state ≠ 3 ∧ (linkOf h 0 7).isUp = true ∧ (linkOf (modLink h 0 7 (fun l => { l with up := 0x1F })) 0 7).isUp = false ∧
    h.slewAt = none := by
  decide

def lpb0 : Lpb :=
  { dimx := 1, dimy := 1, dimz := 1, order := 0, swz := 0, gcores := 1, gclust := 1, gdies := 1, prio := 0, gpkgs := 1, bstep := 0, twin := false,
    entry := 0x4000, arg := 9, deadline := 0, dstep := 0, budget := 100, pdead := 0, image := 0, savebase := 0, snap := 0, tstart := 0,
    joinwin := 1, stagep := 0 }

def job0 : Job :=
  { id := 1, world := 0, die := 0, tag := 7, lpb := lpb0, arrival := 0, next := 1, total := 1, left := 1, notDone := 0, statuses := [], stages := [],
    checks := 0, snap := none, codeVa := 0 }

def slice0 : Slice :=
  { id := 1, job := 1, seq := 0, x := 0, y := 0, z := 0, deadline := 0, st := .placed, fresh := false, holds := [], cores := [0], reports := [],
    budget := 100, since := 0, exhausted := false, stage := 0, nextStage := 0, movedAt := none, aborted := none, runs := [], attempt := 0,
    usedCores := [], tstart := 0, joined := [], tries := 0, rankBase := 0, kept := [], keptGroups := [] }

/-- Slice 1 of job 1 on core 0, whose control context issues. -/
def placed (c : Ctx) (x : Slice) (j : Job) : State :=
  { stOf 0 c with
    jobs := [j], slices := [x], cores := [(0, { Core.empty with slice := some 1 })] }

/-- A collective barrier descriptor (KIND 4) of view 0, and handle 0 that runs it. -/
def desc0 : List Word := [4, 0, 0, 0, 0, 0, 0, 0]
def handle0 : Handle := { view := 0, tag := 7, seq := 0, status := 5, flags := 0, desc := desc0 }
def coll0 : Coll := { n := 0, who := { slice := 1, member := 0, slot := 0 }, handle := 0, tag := 7, desc := desc0, parts := [] }

/-- A view of the members given, of tag 7. -/
def view0 (members : List Nat) : View := { View.empty with tag := 7, state := 0, members := members, key := 1 }

def viewed (v : View) (c : Ctx) : State := { placed c slice0 job0 with views := [(0, v)] }

/-- Key slot 1 of world 0 is loaded. -/
def keyed (s : State) : State := s.modWorld 0 (fun w => { w with keys := [(1, some [])] })

theorem test_witness_ViewInstructions_coll : let s := umWord (viewed (view0 [0, 9]) { ctx0 with regs := regsOf [(1, um 0x100)] }) 0x100 4
    let b := umWord (viewed (view0 [0, 9]) { ctx0 with regs := regsOf [(1, um 0x100)] }) 0x100 5
    let n := umWord (stOf 0 { ctx0 with regs := regsOf [(1, um 0x100)] }) 0x100 4
    let w (t : State) : List Word := (List.range 8).map (fun j => BitVec.ofNat 64 (t.readMem (ownKey t t.cx (um 0x100) + 8 * j) 8))
    Fresh s ∧ Ready s (.coll 2 1) ∧ s.cx.phase = 0 ∧ checkVa (s.rS 1) 64 = none ∧ ownUM s s.cx (s.rS 1) = true ∧
    descByte s 0 (w s) (some 2) = none ∧ (s.view 0).state = 0 ∧ (s.view 0).colls.length < 8 ∧ freeHandle s.cx = some 0 ∧
    (s.core 0).journal = [] ∧ twinOn s 0 = none ∧ Ready b (.coll 2 1) ∧ descByte b 0 (w b) (some 2) = some 0 ∧
    Ready n (.coll 2 1) ∧ descByte n 0 (w n) none = none ∧ (n.view 0).state = 3 := by
  intros
  constructorm* _ ∧ _ <;> first | decide +kernel | exact by rfl | exact ready_of (by decide +kernel)

theorem test_witness_ViewInstructions_others : let s := viewed (view0 [0, 9]) { ctx0 with regs := regsOf [(2, 16), (3, 4), (4, 8), (5, 12)] }
    let h (n : Nat) := viewed (view0 [0, 9]) { ctx0 with handles := [(0, some { handle0 with status := n })] }
    let j := viewed { view0 [0, 9] with state := 2, proposed := some (8, [0, 9]) } ctx0
    Fresh s ∧ (∀ i ∈ [Instr.cwait 6 2, .cwait 6 1, .view 6 1, .view 6 2, .view 6 3, .view 6 4, .view 6 5, .vack 6 1, .vack 6 2], Ready s i) ∧
    7 < (s.rS 2).toNat ∧ Tbl.get none s.cx.handles (s.rS 1).toNat = none ∧
    Ready (h 5) (.cwait 6 1) ∧ Tbl.get none (h 5).cx.handles 0 = some handle0 ∧ handle0.status = 5 ∧
    Ready (h 0) (.cwait 6 1) ∧ Tbl.get none (h 0).cx.handles 0 = some { handle0 with status := 0 } ∧
    Ready j (.vack 6 1) ∧ (j.view 0).state = 2 ∧ (j.view 0).colls = [] ∧ (j.view 0).proposed = some (8, [0, 9]) ∧
    (s.view 0).state ≠ 2 ∧ Fresh j ∧ Fresh (h 5) ∧ Fresh (h 0) := by
  intros
  constructorm* _ ∧ _ <;> first | decide +kernel | exact rfl | exact ready_all (by decide +kernel) | exact ready_of (by decide +kernel)

theorem test_witness_ViewInstructions_vcfg : let s := viewed (view0 [0, 9]) { ctx0 with regs := regsOf [(1, 1), (2, 0xFFFD800000000000)] }
    let r := (s.writeMem (dmKey 0 0) 8 0x1000100000007).modWd 0 0 (fun w => { w with dmRanges := [(0, 0x100)] })
    let b := viewed { view0 [0, 9] with colls := [coll0] } ctx0
    Fresh s ∧ Ready s (.putx 1 (regVCFG 0)) ∧ (s.view (viewKey 0 0 0)).colls = [] ∧ (s.rG 1).getLsbD 0 = true ∧
    Ready r (.putx 2 (regVCFG 0)) ∧ (r.rG 2).getLsbD 0 = false ∧ viewRecord r 0 0 (r.rG 2 &&& ~~~63#64) = some (7, 1, false, [0]) ∧
    viewRecord s 0 0 (s.rG 2 &&& ~~~63#64) = none ∧ Ready b (.putx 1 (regVCFG 0)) ∧ (b.view (viewKey 0 0 0)).colls ≠ [] :=
  ⟨rfl, ready_of (by decide +kernel), by decide, by decide, ready_of (by decide +kernel), by decide +kernel, by decide +kernel, by decide +kernel,
   ready_of (by decide +kernel), by decide⟩

theorem test_witness_ViewEvents_accord : let s := { viewed (view0 [0, 1]) ctx0 with views := [(0, view0 [0, 1]), (4, view0 [0, 1])], clk := 6000 }
    let t := { keyed (viewed (view0 [9, 0]) ctx0) with clk := 6000 }
    let p := { viewed { view0 [0, 8, 9] with state := 1, proposed := some (8, [0, 8, 9]), asked := [8, 9] } ctx0 with clk := 6000 }
    let c := keyed (viewed { view0 [0, 9] with colls := [coll0] } { ctx0 with handles := [(0, handle0)] })
    s.power = true ∧ ownLogical s 0 = 0 ∧ (s.view 0).state ≠ 3 ∧ memberIndex s 0 (s.view 0) < (s.view 0).members.length ∧
    (s.view 0).sent + 1500 ≤ s.clk ∧ (s.view 0).members[(memberIndex s 0 (s.view 0) + 1) % (s.view 0).members.length]? = some 1 ∧
    localDie s 1 = some 1 ∧ d2dUp s 0 1 = true ∧ (s.view (viewKey 0 1 0)).state ≠ 3 ∧
    (∀ z ∈ [t, c], (Tbl.get none (z.world 0).keys (z.view 0).key).isSome = true) ∧
    (t.view 0).state ≠ 3 ∧ (t.view 0).members = [9, 0] ∧ 9 ≠ ownLogical t 0 ∧ (t.view 0).failed = [] ∧ (t.view 0).joining = none ∧
    localDie t 0 = some 0 ∧ (t.view 0).heard + 6000 ≤ t.clk ∧
    0 ∈ [9, 0] ∧ (t.view 0).tag.toNat < 8 ∧ proposalMade t 0 0 8 [9, 0] = true ∧ (t.view 0).state ≠ 1 ∧
    (p.view 0).state = 1 ∧ (p.view 0).proposed = some (8, [0, 8, 9]) ∧ 9 ∈ (p.view 0).asked ∧ 9 ∉ (p.view 0).acks ∧
    (p.view 0).askedAt + 6000 ≤ p.clk ∧
    commitDue t 0 0 8 [9, 0] = true ∧ (t.view 0).colls = [] ∧ commitDue t 0 0 8 [9] = true ∧ 0 ∉ [9] ∧
    commitDue c 0 0 8 [9, 0] = true ∧ (c.view 0).colls = [coll0] ∧ spotOf c coll0.who = .placed 0 ∧ handle0.isOf coll0 = true ∧
    (c.ctx 0).run = .live ∧
    (c.ctx 0).kind = .control ∧ (c.ctx 0).phase = 0 ∧ (c.ctx 0).pending.length < 8 ∧ Tbl.get none (c.ctx 0).handles coll0.handle = some handle0 := by
  decide

theorem test_witness_ViewEvents_joins : let s := keyed { viewed (view0 [0]) ctx0 with views := [(0, { view0 [0] with switches := [700] })] }
    let j := keyed (viewed { view0 [0] with state := 2, proposed := some (8, [0, 9]), joining := some 9, acks := [0] } ctx0)
    let c := viewed { view0 [0] with colls := [coll0] } { ctx0 with handles := [(0, handle0)] }
    let q : Coll := { coll0 with parts := [(0, desc0, [])] }
    let e := viewed { view0 [0] with colls := [q] } { ctx0 with handles := [(0, handle0)] }
    let v : View := { view0 [0, 1] with colls := [{ q with parts := [(0, desc0, []), (1, desc0, [])] }] }
    let two := { viewed v ctx0 with views := [(0, v), (4, view0 [0, 1])] }
    (∀ z ∈ [s, j], (Tbl.get none (z.world 0).keys (z.view 0).key).isSome = true) ∧ (c.view 0).early = [] ∧
    (s.view 0).state = 0 ∧ (s.view 0).members.head? = some (ownLogical s 0) ∧ 9 ∉ (s.view 0).members ∧ (s.view 0).members.length < 24576 ∧
    localView s 0 0 9 = none ∧ 700 ∈ (s.view 0).switches ∧ 700 ∉ (s.view 0).outside ∧
    (j.view 0).state = 2 ∧ (j.view 0).proposed = some (8, [0, 9]) ∧ localView j 0 0 9 = none ∧ (j.view 0).colls = [] ∧
    (∀ x ∈ [0, 9], x = 9 ∨ x ∈ (j.view 0).acks) ∧
    (c.view 0).state = 0 ∧ (c.view 0).colls = [coll0] ∧ descKind coll0.desc = 4 ∧ coll0.parts = [] ∧
    memberIndex c 0 (c.view 0) < (c.view 0).members.length ∧ (e.view 0).colls = [q] ∧ q.desc ≠ [] ∧ (∀ p ∈ q.parts, p.2.1 = q.desc) ∧
    (∀ m ∈ List.range (e.view 0).members.length, ∃ p ∈ q.parts, p.1 = m) ∧ gangJoined e q.who = true ∧ inService e 0 436 = true ∧
    spotOf e q.who = .placed 0 ∧ handle0.isOf q = true ∧ memberDies e (e.view 0) = [0] ∧
    1 ∈ memberDies two (two.view 0) ∧ readyColl two 0 0 0 7 1 = none ∧ Tbl.get none (e.ctx 0).handles q.handle = some handle0 := by
  decide

theorem test_witness_ViewEvents_gangs : let j : Job := { job0 with lpb := { lpb0 with gpkgs := 2 } }
    let s := { placed ctx0 slice0 j with cycle := 150000 }
    let x : Slice := { slice0 with tries := 2 }
    let t := { placed ctx0 x j with cycle := 150000 }
    s.power = true ∧ s.slice slice0.id = some slice0 ∧ 1 < gpkgsOf s slice0 ∧ slice0.joined.length < gpkgsOf s slice0 ∧ 5 ∉ slice0.joined ∧
    5 ≠ s.pkg ∧ slice0.tstart.toNat + windowClk s slice0 ≤ s.cycle.toNat ∧ slice0.tries < 2 ∧
    t.slice x.id = some x ∧ x.tstart.toNat + windowClk t x ≤ t.cycle.toNat ∧ x.tries = 2 ∧ x.cores = [0] ∧ x.kept = [] ∧ (t.ctx (0 * 16)).run = .live ∧
    (t.ctx (0 * 16)).kind = .control ∧ (t.ctx (0 * 16)).pending.length < 8 := by
  decide

theorem idle_of {s : State} {k : Nat} (h : (∀ n, n < 11 → (s.ctx (k * 16 + n)).loads = 0 ∧ filling s (k * 16 + n) = false) ∧
    ringHolds s k = false ∧
    (∀ n, 1 ≤ n → n < 11 → (s.ctx (k * 16 + n)).run = .free) ∧ (s.core k).journal = [] ∧ (s.core k).siding = [] ∧
    (s.cluster (k / 4)).copies = [] ∧ (s.cluster (k / 4)).tasks = []) : IdleCore s k := h

/-! ## Witnesses: slices, caches, translation registers, the host, rings, the timetable -/

theorem test_witness_SliceEndResults : let s := placed ctx0 slice0 job0
    let y : Slice := { slice0 with cores := [0, 1] }
    let g := placed ctx0 y job0
    let h := stOf 3 (helper 3 .live)
    let p : Ctx := { Ctx.empty with kind := .controller, run := .live, core := 1, pc := 0x100 }
    let c := stOf 65537 p
    let t := sctl []
    (∀ u ∈ [s, g], u.power = true ∧ u.cx.kind = .control ∧ u.cur = u.cx.coreKey * 16) ∧ Fresh s ∧ Fresh g ∧ IdleCore s 0 ∧ IdleCore g 0 ∧
    s.cx.pending = [] ∧ g.cx.pending = [] ∧
    (∀ i ∈ [Instr.sdone 1, .halt], Ready s i ∧ Ready g i) ∧ sliceOn s 0 = some slice0 ∧ sliceOn g 0 = some y ∧ slice0.runs = [] ∧
    s.job slice0.job = some job0 ∧ g.job y.job = some job0 ∧ job0.stages = [] ∧ (∃ k ∈ y.cores, k ≠ 0 ∧ ∀ r ∈ y.reports, r.1 ≠ k) ∧
    slice0.cores = [0] ∧ slice0.reports = [] ∧ job0.left = 1 ∧
    Ready h .halt ∧ h.cx.kind = .helper ∧ h.cx.loads = 0 ∧ h.cx.stores = 0 ∧ h.cur / 16 * 16 ≠ h.cur ∧ Fresh h ∧
    Ready c .halt ∧ c.cx.kind = .controller ∧ c.cx.core ≠ 0 ∧ Fresh c ∧ Ready t .halt ∧ t.cx.kind = .controller ∧ t.cx.core = 0 ∧
    cipendOf t t.cx &&& t.cx.cien = 0 ∧ Fresh t :=
  ⟨by decide, rfl, rfl, idle_of (by decide), idle_of (by decide), rfl, rfl, fun i hi => ⟨ready_all (by decide : [Instr.sdone 1, .halt].all (readyB (placed ctx0 slice0 job0)) = true) i hi,
     ready_all (by decide : [Instr.sdone 1, .halt].all (readyB (placed ctx0 { slice0 with cores := [0, 1] } job0)) = true) i hi⟩, by decide, by decide, by decide,
   by decide, by decide, by decide, by decide, by decide, by decide, by decide, ready_of (by decide), by decide, by decide, by decide, by decide, rfl,
   ready_of (by decide), by decide, by decide, rfl, ready_of (by decide), by decide, by decide, by decide, rfl⟩

theorem test_witness_SliceEndResults_aborted : let x : Slice := { slice0 with tries := 3 }
    let s := placed ctx0 x job0
    Fresh s ∧ Ready s (.sdone 1) ∧ s.cx.kind = .control ∧ s.cur = s.cx.coreKey * 16 ∧ IdleCore s 0 ∧ s.cx.pending = [] ∧
    sliceOn s 0 = some x ∧ x.runs = [] ∧ s.job x.job = some job0 ∧ s.cx.priv = true ∧ 3 ≤ x.tries :=
  ⟨rfl, ready_of (by decide), by decide, by decide, idle_of (by decide), rfl, by decide, by decide, by decide, by decide, by decide⟩

theorem test_witness_CacheInstructionResults : let s := st 0xFFFC000000004000 0x1000 0 0
    Fresh s ∧ Ready s (.iprf 1 2) ∧ Ready s (.iinv 1 2) ∧ (s.rS 1).extractLsb' 48 16 = 0xFFFC#16 ∧ Ready s (.xlat 5 1) ∧ s.cx.isCompute = true ∧
    s.cx.loads < 63 :=
  ⟨rfl, ready_of (by decide), ready_of (by decide), by decide, ready_of (by decide), by decide, by decide⟩

/-- A page request of stage 1. -/
def page0 : PageReq := { id := 3, stage := 1, page := 7, kinds := 1, posted := true, read := false }

theorem test_witness_TranslationRegisterResults : let s (v : Word) := st v 0 0 0
    (∀ v ∈ [(0x1 : Word), 0xFFFC000000000001, 0xFFFC000000050000, 0xFFFC000000050004, 0xFFFC000000050008, 0x1000000000000, 0x2],
      Fresh (s v) ∧ Ready (s v) (.s1rootWrite 1) ∧ Ready (s v) (.tinvWrite 1) ∧ (s v).cx.phase = 0 ∧ translatingAtDie (s v) 0 0 = []) ∧
    (let u := s 0xFFFC000000000001
     (u.rG 1).getLsbD 48 = false ∧ (u.rG 1).extractLsb' 0 16 = 1#16) ∧
    (let u := s 0xFFFC000000050008
     (u.rG 1).extractLsb' 48 16 = 0xFFFC#16 ∧ (u.rG 1).extractLsb' 0 16 = BitVec.ofNat 16 (4 * 2)) ∧
    ((s 0x1000000000000).rG 1).getLsbD 48 = true ∧ ((s 2).rG 1).getLsbD 1 = true := by
  refine ⟨fun v hv => ?_, by decide, by decide, by decide, by decide⟩
  simp only [List.mem_cons, List.not_mem_nil, or_false] at hv
  rcases hv with rfl | rfl | rfl | rfl | rfl | rfl | rfl <;> exact ⟨rfl, ready_of (by decide), ready_of (by decide), by decide, by decide⟩

theorem test_witness_TranslationRegisterResults_requests : let s := (st 3 0x10003 0 0).modWd 0 0 (fun w => { w with requests := [page0] })
    let h := s.modWd 0 0 (fun w => { w with halfRead := some 3, halfCtx := [0] })
    let r : Req := { req0 with st := .parked, page := some (1, 7), va := 0xFFFC000000070008 }
    let p := { s with reqs := [r] }
    let n := st 3 0x10003 0 0
    Fresh s ∧ Ready s (.prq1Read 5) ∧ s.cur ∉ (s.wd 0 0).halfCtx ∧
    (s.wd 0 0).requests.find? (fun q => q.posted && !q.read && q.stage = 1) = some page0 ∧
    Ready h (.prq1Read 5) ∧ h.cur ∈ (h.wd 0 0).halfCtx ∧ (h.wd 0 0).halfRead = some (BitVec.ofNat 64 page0.id) ∧ page0.id < 65536 ∧ (h.wd 0 0).requests = [page0] ∧
    page0.posted = true ∧ page0.stage = 1 ∧ (∀ r ∈ h.reqs, r.st ≠ .parked) ∧
    Ready n (.prq1Read 5) ∧ (n.wd 0 0).requests.find? (fun q => q.posted && !q.read && q.stage = 1) = none ∧ n.cur ∉ (n.wd 0 0).halfCtx ∧
    Ready n (.prqreplyWrite 1) ∧ (n.wd 0 0).requests.find? (fun q => q.posted && q.stage = 1 && q.id = 3) = none ∧
    Ready p (.prqreplyWrite 1) ∧ Ready p (.prqreplyWrite 2) ∧ (p.wd 0 0).requests.find? (fun q => q.posted && q.stage = 1 && q.id = 3) = some page0 ∧
    parkedAtDie p 0 0 = [r] ∧ r.page = some (1, page0.page) ∧ p.reqs = [r] ∧ (p.rG 1).getLsbD 16 = false ∧ (p.rG 2).getLsbD 16 = true ∧
    r.kind = .load ∧ p.op r.op = none := by
  intros
  constructorm* _ ∧ _ <;> first | decide | exact rfl | exact ready_of (by decide)

theorem test_witness_HostAndHypervisorEvents_host : let s := placed { ctx0 with run := .stopped } slice0 job0
    let l := placed ctx0 slice0 job0
    let g := (st 0 0 0 0).writeMem (ctlSpace 0 0x100000) 8 (2 ^ 63 + 1)
    mailGo g = true ∧ mailGo s = false ∧
    s.power = true ∧ (s.ctx (coreKeyOf 0 0 0 * 16 + 0)).run = .stopped ∧ (s.ctx 0).world = 0 ∧ (s.core (0 / 16)).saveDue = false ∧
    sliceOn s (0 / 16) = some slice0 ∧ slice0.tries < 3 ∧ s.job slice0.job = some job0 ∧ job0.left = 1 ∧ (l.ctx 0).run ≠ .stopped := by
  decide

theorem test_witness_HostAndHypervisorEvents_pages : let q : PageReq := { page0 with stage := 2 }
    let s := (st 0 0 0 0).modWd 0 0 (fun w => { w with requests := [q] })
    let o := { s with owner := [(5, 3)] }
    let m (e : Word) := { st 0 0 0 0 with owner := [(5, 1)] }.modWd 0 0 (fun w => { w with stage2 := [(7, e)] })
    s.power = true ∧ (s.wd 0 0).pfHalf = none ∧ (s.wd 0 0).requests = [q] ∧ q.posted = true ∧ q.read = false ∧ q.stage = 2 ∧ s.reqs = [] ∧
    ownHbm 0 5 = true ∧ Tbl.get 0 s.owner 5 = 0 ∧ (o.wd 0 0).requests = [q] ∧ Tbl.get 0 o.owner 5 ≠ 0 ∧ Tbl.get 0 o.owner 5 ≠ 0 + 1 ∧
    (pteV 0x90071 = true ∧ pteSize 0x90071 = 0 ∧ Tbl.get 0 ((m 0x90071).wd 0 0).stage2 7 = 0x90071 ∧ Tbl.get 0 (m 0x90071).owner 5 = 0 + 1) ∧
    (pteV 0x900F1 = true ∧ pteSize 0x900F1 = 0 ∧ Tbl.get 0 ((m 0x900F1).wd 0 0).stage2 7 = 0x900F1 ∧ Tbl.get 0 (m 0x900F1).owner 5 = 0 + 1) ∧
    pteMig 0x90071 = false ∧ pteMig 0x900F1 = true ∧ Memory.wf (m 0x900F1).mem = true ∧
    pteV (Tbl.get 0 ((m 0x90071).wd 0 0).stage2g (7 / 16384)) = false ∧ pteV (Tbl.get 0 ((m 0x900F1).wd 0 0).stage2g (7 / 16384)) = false ∧
    (m 0x900F1).merges = [] ∧ (m 0x900F1).reqs = [] ∧
    (∀ n ∈ List.range 48, ((m 0x900F1).cluster (0 * 48 + n)).leases = []) := by
  decide +kernel

/-- World 0 has the first 4 KiB of its die's memory, cluster 0, and both rings there: a packet ring of 16 entries at 0 and a completion
ring at 0x800. -/
def rings (head tail : BitVec 16) : State := ((st 0 0 0 0).setCtx (ctlKey 14) { controllerReset 14 with run := .live }).modWd 0 0 (fun w =>
  { w with dmRanges := [(0, 0x1000)], clusters := 1, rbase := 0xFFFD800000000000, ren := true, rlog := 4, rhead := head, rtail := tail,
           cbase := 0xFFFD800000000800, cen := true, clog := 4 })

/-- Words at offsets of the die memory of die 0. -/
def dmWords (s : State) (l : List (Nat × Nat)) : State := l.foldl (fun t p => t.writeMem (dmKey 0 p.1) 8 p.2) s

theorem test_witness_RingEvents_rings : let s := (rings 0 0).modWd 0 0 (fun w => { w with heldDone := [[1, 2, 3, 4]] })
    let f := s.modWd 0 0 (fun w => { w with ctail := 16 })
    let m := dmWords (rings 0 1) [(0, 9)]
    s.power = true ∧ (s.wd 0 0).heldDone = [1, 2, 3, 4] :: [] ∧ complRoom (s.wd 0 0) = true ∧ unitWaits s 0 0 permW 0xFFFD800000000800 32 = none ∧
    (vaWrite s 0 0 0xFFFD800000000800 (wordsBytes [1, 2, 3, 4])).isSome = true ∧ complRoom (f.wd 0 0) = false ∧
    peekPacket m 0 0 = .malformed 0xFFFD800000000000 0 ∧ ringsTurn m 0 0 = true := by
  decide +kernel

/-- A launch packet whose block at 0x400 is one core's worth of work with the budget given. -/
def launches (budget : Nat) : State := dmWords (rings 0 1) [(0, 0x500000001), (8, 0xFFFD800000000400), (0x408, 0x100010101),
  (0x410, 0xFFFC000000004000), (0x430, budget)]

/-- The block of a launch as the front end reads it. -/
def blockOf (s : State) : List Byte := (vaRead s 0 0 0xFFFD800000000400 128).getD []

theorem test_witness_RingEvents_launch :
    (∀ n ∈ [0, 100], peekPacket (launches n) 0 0 = .launch 5 0xFFFD800000000400 ∧ ringsTurn (launches n) 0 0 = true ∧
      launchWaits (launches n) 0 0 0xFFFD800000000400 = none ∧ (vaRead (launches n) 0 0 0xFFFD800000000400 128).isSome = true) ∧
    lpbError (launches 0) 0 0 (blockOf (launches 0)) = some 48 ∧ lpbError (launches 100) 0 0 (blockOf (launches 100)) = none ∧
    (lpbOf (blockOf (launches 100))).stagep = 0 ∧ (lpbOf (blockOf (launches 100))).gpkgs = 1 := by
  decide +kernel

/-- An ADMIT packet whose flacon at 0x400 has 512 bytes and three sections; `magic` is its first word. -/
def admits (magic : Nat) : State := dmWords (rings 0 2) [(0, 0x500000002), (8, 0xFFFD800000000400), (16, 512), (0x400, magic), (0x408, 1),
  (0x410, 0x10000000003), (0x418, 10), (0x420, 0x1000), (0x500, 1), (0x508, 384), (0x510, 4), (0x520, 2), (0x528, 448), (0x530, 4), (0x540, 3),
  (0x548, 0), (0x550, 0)]

theorem test_witness_RingEvents_admit :
    peekPacket (admits 7) 0 0 = .admission 5 0xFFFD800000000400 512 0 0 ∧ ringsTurn (admits 7) 0 0 = true ∧
    (∀ n ∈ [7, 0x01004E4F43414C46], flaconWaits (admits n) 0 0 0xFFFD800000000400
      (flaconBytes (admits n) 0 0 0xFFFD800000000400 512) 512 = none) ∧
    step1Fail (admits 7) 0 0 0xFFFD800000000400 (flaconBytes (admits 7) 0 0 0xFFFD800000000400 512) 512 = some (0x190, 0) ∧
    step1Fail (admits 0x01004E4F43414C46) 0 0 0xFFFD800000000400 (flaconBytes (admits 0x01004E4F43414C46) 0 0 0xFFFD800000000400 512) 512 = none := by
  decide +kernel

def image0 (key : List Byte) : CachedImage :=
  { world := 0, die := 0, handle := 1, key := key, codeVa := 0xFFFC000000100000, window := 0xFFFC000000100000, size := 4096, launched := 0 }

theorem flaconBytes_images (s : State) (l : List CachedImage) (w d : Nat) (va : Word) (n : Nat) :
    flaconBytes { s with images := l } w d va n = flaconBytes s w d va n := rfl

theorem findImage_self (s : State) (key : List Byte) : findImage { s with images := [image0 key] } 0 0 key = some (image0 key) := by
  simp [findImage, image0]

theorem test_witness_RingEvents_cached : let s := admits 0x01004E4F43414C46
    let key := imageKey (flaconBytes s 0 0 0xFFFD800000000400 512)
    let t := { s with images := [image0 key] }
    findImage t 0 0 (imageKey (flaconBytes t 0 0 0xFFFD800000000400 512)) = some (image0 key) := by
  intro s key t
  rw [flaconBytes_images]
  exact findImage_self s key

def admit0 : Admit :=
  { id := 2, ctx := some 14, world := 0, die := 0, tag := 9, flacon := 0, size := 512, key := [], ow := 0, owSize := 0, owSet := true, filled := true, privOff := 0, privSize := 0,
    xwOff := 0, xwSize := 0, lim := 10, options := 0, entry := [], deadline := 0, waits := none, arrived := 0, ended := none, holds := [] }

theorem test_witness_RingEvents_ends : let r : Admit := { admit0 with id := 1, ended := some { cause := 0x185, offset := 0, meter := 3, halted := false } }
    let a : Admit := { admit0 with waits := some 1, ctx := none }
    let s := { st 0 0 0 0 with admits := [r, a] }
    let t := { stOf 14 { tra.cx with meter := { tra.cx.meter with meter := 10 } } with admits := [admit0] }
    let u := { t with ops := [{ op0 with ctx := 14 }] }
    (∀ o ∈ t.ops, o.ctx ≠ t.cur) ∧ u.cx.kind = .translator ∧ u.cx.run = .live ∧ u.cx.meter.meter = u.cx.meter.lim ∧
    (∃ o ∈ u.ops, o.ctx = u.cur) ∧
    s.power = true ∧ s.admits = [r, a] ∧ a.waits = some r.id ∧ a.die = 0 ∧ a.id ≠ r.id ∧ r.waits = none ∧
    r.ended = some { cause := 0x185, offset := 0, meter := 3, halted := false } ∧ 3 < a.lim.toNat ∧
    t.power = true ∧ t.cx.kind = .translator ∧ t.cx.run = .live ∧ t.cx.meter.meter = t.cx.meter.lim ∧ t.admits = [admit0] ∧ admit0.ctx = some t.cur := by
  decide

theorem test_witness_TimetableEvents_saves : let p := { st 0 0 0 0 with clk := 20 }.modCtx 0 (fun c => { c with pdeadAt := some 20 })
    let c := placed { ctx0 with run := .held } slice0 job0
    let s := (c.modCore 0 (fun x => { x with saveDue := true, savep := 0xFFFD80000000 })).modWd 0 0 (fun w => { w with dmRanges := [(0, 0x100000)] })
    let w := { placed ctx0 slice0 job0 with clk := 50 }.modCore 0 (fun x => { x with wdwin := 50 })
    let e := p.modCtx 0 (fun c => { c with phase := 10, limitAt := some 20 })
    (e.ctx 0).phase = 10 ∧ (e.ctx 0).limitAt = some 20 ∧ (e.ctx 0).pdeadAt = some 20 ∧ (e.core 0).saveDue = false ∧ (e.ctx 0).run = .live ∧
    sliceOn e 0 = none ∧ (p.ctx 0).phase ≠ committed ∧
    p.power = true ∧ (p.ctx 0).pdeadAt = some 20 ∧ (p.core 0).saveDue = false ∧ (p.ctx 0).phase ≠ 10 ∧ (p.ctx 0).run = .live ∧
    sliceOn p 0 = none ∧ 20 ≤ p.clk ∧ filling p 0 = false ∧
    (s.core 0).saveDue = true ∧ (s.core 0).saved = false ∧ coreQuiet s 0 = true ∧ sliceOn s 0 = some slice0 ∧
    (∀ n ∈ List.range 11, (s.ctx (0 * 16 + n)).run ≠ .live ∧ (s.ctx (0 * 16 + n)).run ≠ .ending ∧
      (s.ctx (0 * 16 + n)).lates = []) ∧
    unitWaits s (s.core 0).world (0 / 192) permW (savepVa (s.core 0)) 0x50000 = none ∧
    (w.core 0).wdwin = 50 ∧ (w.core 0).slice.isSome = true ∧ (w.ctx 0).run = .live ∧ (w.ctx 0).kind = .control ∧ (w.ctx 0).pending.length < 8 ∧
    lastPulse w 0 + (50 : BitVec 32).toNat ≤ w.clk := by
  decide +kernel

theorem test_witness_TimetableEvents_slices : let x : Slice := { slice0 with st := .saving }
    let inMem (s : State) : State := s.modWd 0 0 (fun w => { w with dmRanges := [(0, 0x100000)] })
    let s := inMem ((placed { ctx0 with run := .free } x job0).modCore 0 (fun c => { c with saved := true, savep := 0xFFFD80000000 }))
    let b := { placed ctx0 slice0 job0 with clk := 100 }
    let y : Slice := { slice0 with st := .waiting, fresh := true, cores := [] }
    let w := { (st 0 0 0 0).setCtx 0 Ctx.empty with slices := [y], jobs := [job0] }.modWd 0 0 (fun w => { w with clusters := 1 })
    let z : Slice := { x with reports := [(0, 0, false)] }
    let r := inMem ((placed { ctx0 with run := .done } z job0).modCore 0 (fun c => { c with savep := 0xFFFD80000000 }))
    tablesWait s x = none ∧ tablesWait r z = none ∧ r.slices = [z] ∧ z.st = .saving ∧ (∀ k ∈ z.cores, ∃ q ∈ z.reports, q.1 = k) ∧
    s.power = true ∧ s.slices = [x] ∧ x.st = .saving ∧ (∀ k ∈ x.cores, (s.core k).saved = true) ∧
    b.slices = [slice0] ∧ slice0.st = .placed ∧ slice0.exhausted = false ∧ slice0.cores = [0] ∧ (b.ctx (0 * 16)).run = .live ∧
    (b.ctx (0 * 16)).kind = .control ∧ (b.ctx (0 * 16)).pending.length < 8 ∧ (b.ctx (0 * 16)).phase ≠ 10 ∧ budgetLeft b slice0 = 0 ∧
    budgetLeft (placed ctx0 slice0 job0) slice0 ≠ 0 ∧
    w.jobs = [job0] ∧ w.slices = [y] ∧ y.job = job0.id ∧ w.admits = [] ∧ job0.lpb.gpkgs = 1 ∧ job0.lpb.twin = false ∧ y.st = .waiting ∧ y.fresh = true ∧
    y.runs = [] ∧ (w.world job0.world).running = true ∧ inService w job0.die 433 = true ∧ fitSlice w y job0 [] = some [[0]] ∧ w.job y.job = some job0 ∧ y.tstart.toNat ≤ w.cycle.toNat := by
  decide +kernel

theorem test_witness_TimetableEvents_others : let j : Job := { job0 with stages := [{ entry := 0, ring := 0xFFFD800000000000, hi := 4, lo := 1, min := 1, hot := false }] }
    let s := { st 0 0 0 0 with jobs := [j] }
    let r : Req := { req0 with kind := .fetch, op := 0, size := 64, va := 0xFFFC000000001000, st := .replied 5 0 false }
    let f := { stOf 0 { ctx0 with fetching := some 1 } with reqs := [r] }
    s.power = true ∧ s.jobs = [j] ∧ s.slices = [] ∧ j.stages ≠ [] ∧ inService s j.die 434 = true ∧ s.cycle.toNat % 4096 = 0 ∧ (s.dieAt 0).checkedAt ≠ some s.cycle ∧
    { s with cycle := 1 }.cycle.toNat % 4096 ≠ 0 ∧
    f.reqs = [r] ∧ r.kind = .fetch ∧ r.st = .replied 5 0 false ∧ r.elem = 0 ∧ (f.ctx r.ctx).fetching = some r.id ∧ (f.ctx r.ctx).run = .live ∧
    r.va.extractLsb' 0 6 = 0 := by
  decide +kernel

/-! ## Witnesses: the platform, integrity, trust, encodings, steps -/

/-- Controller n issues; s1 holds a word. -/
def ctl (n : Nat) (v : Word) : State :=
  stOf (65536 + n) { Ctx.empty with kind := .controller, run := .live, core := n, pc := 0x100, regs := regsOf [(1, v)] }

/-- The same MCTL with scheduler 3 of its stack in a state. -/
def schedAt (x : BitVec 3) (v : Word) : State := { ctl 2 v with scheds := [(3, { Sched.empty with state := x })] }

def readySchctl (s : State) : Bool := readyB s (.putx 1 (regSCHCTL 3))

theorem test_witness_ControllerRegisterWrites :
    (readySchctl (schedAt 0 0) ∧ (schedAt 0 0).rG 1 = 0 ∧ ((schedAt 0 0).sched (ownSched (schedAt 0 0) 3)).state = 0) ∧
    (readySchctl (schedAt 3 0) ∧ ((schedAt 3 0).sched (ownSched (schedAt 3 0) 3)).state = 3) ∧
    (readySchctl (schedAt 0 1) ∧ (schedAt 0 1).rG 1 = 1) ∧
    (readySchctl (schedAt 0 2) ∧ (schedAt 0 2).rG 1 = 2) ∧
    (readySchctl (schedAt 2 2) ∧ ((schedAt 2 2).sched (ownSched (schedAt 2 2) 3)).state = 2) ∧
    (readySchctl (schedAt 4 3) ∧ (schedAt 4 3).rG 1 = 3 ∧ ((schedAt 4 3).sched (ownSched (schedAt 4 3) 3)).held = []) ∧
    (schedAt 4 3).cx.kind = .controller ∧ readyB (schedAt 4 0x31) (.putx 1 (regTRNCTL 3)) ∧ readyB (ctl 10 0xA) (.putx 1 (regLNCTL 10)) ∧
    (linkOf (ctl 10 0xA) ((ctl 10 0xA).cx.core - 10) 10).training = none ∧ readyB (ctl 1 0x800000000001) (.putx 1 (regCGATE 3)) ∧
    readyB (ctl 5 0) (.putx 1 regCALIVE) := by
  decide

theorem test_witness_ControllerRegisterWrites_fresh : Fresh (schedAt 0 0) ∧ Fresh (ctl 10 0xA) ∧ Fresh (ctl 1 1) ∧ Fresh (ctl 5 0) :=
  ⟨rfl, rfl, rfl, rfl⟩

theorem test_witness_PlatformEvents_controllers : let k := ctlKey 2
    let s := (ctl 2 0).modCtx k (fun c => { c with cipend := 2, cien := 2, civec := 0x200 })
    let h := (ctl 2 0).modCtx k (fun c => { c with run := .halted })
    let a := { ctl 2 0 with ctlImages := [(2, { CtlImage.empty with aliveBy := some 7 })] }
    s.power = true ∧ interruptDue s (s.ctx k) = true ∧ interruptDue (ctl 2 0) ((ctl 2 0).ctx k) = false ∧
    (h.ctx k).run = .halted ∧ (ctlImage h 2).pending = none ∧ (ctlImage h 2).double = false ∧
    (∀ l ∈ [[], [1, 2, 3]], let d := { h with ctlImages := [(2, { CtlImage.empty with double := true, faults := l })] }
      (d.ctx k).run = .halted ∧ (ctlImage d 2).double = true ∧ (ctlImage d 2).faults = l) ∧
    (ctlImage a 2).aliveBy = some 7 ∧ a.clk < 7 ∧ 7 ≤ { a with clk := 7 }.clk := by
  decide

theorem test_witness_PlatformEvents_rails : let s := ctl 1 0
    let u := { s with rails := [(0, .up), (1, .rising)] }
    let v := { s with rails := [(0, .up), (1, .up), (2, .up), (3, .up), (4, .up)] }
    let f := { v with rails := [(0, .up), (1, .up), (2, .up), (3, .up), (4, .falling)] }
    railsMove s = true ∧ railsMove (ctl 2 0) = false ∧
    s.power = true ∧ (linkOf s 0 (d2dLink 0 1)).training = none ∧ railAt u 1 = .rising ∧ railAt u 2 = .down ∧ railAt v 4 = .up ∧
    railAt v 0 = .up ∧ railAt f 4 = .falling ∧ railAt v 3 = .up := by
  decide

theorem test_witness_PlatformEvents_others : let s := (ctl 1 0).modCluster 5 (fun c => { c with gated := 2, ungateAt := some 9 })
    let l := modLink (ctl 1 0) 0 3 (trainLane 6)
    s.power = true ∧ (s.cluster (0 * 48 + 5)).gated = 2 ∧ (s.cluster (0 * 48 + 5)).ungateAt = some 9 ∧ s.clk < 9 ∧ 9 ≤ { s with clk := 9 }.clk ∧
    MemoryInv s ∧ s.merges = [] ∧ (s.sched 0).state ≠ 1 ∧
    ({ s with scheds := [(0, { Sched.empty with state := 1 })] }.sched (0 * 192 + 0)).state = 1 ∧ (linkOf l 0 3).training = some 6 ∧ State.reset.resetDue = false ∧ State.reset.bootStep = 1 ∧
    { State.reset with bootStep := 2 }.bootStep = 2 ∧ { State.reset with bootStep := 8 }.bootStep = 8 := by
  refine ⟨by decide, by decide, by decide, by decide, by decide, ?_, by decide, by decide, by decide, by decide, by decide, by decide, by decide, by decide⟩
  unfold MemoryInv
  decide +kernel

/-- World 0 of core 0's die with an error record in the log of class 4, index 0, which is selected; the position of ELREAD. -/
def logged (w2 : Word) (n : Nat) : State :=
  { st 0x1000 0 0 0 with
    logs := [(logKey 0 4 0, [[7, 8, w2, 9], [1, 2, w2, 3]])], elsel := [(0, 0x1000)], elpos := [(0, n)] }

theorem test_witness_IntegrityRegisterResults_log : let s := logged 0x8000000000000000 3
    let n := logged 0x8000000008000000 0
    Fresh s ∧ Fresh n ∧ (readyB s (.putx 1 regELSEL) && readyB s (.getx 5 regELREAD) && readyB n (.getx 5 regELREAD) && readyB s (.putx 1 regXCTL)) = true ∧
    Tbl.get [] s.logs (selectedLog s s.cx) = [7, 8, 0x8000000000000000, 9] :: [[1, 2, 0x8000000000000000, 3]] ∧
    recordOfWorld s.cx.world [7, 8, 0x8000000000000000, 9] = true ∧ Tbl.get 0 s.elpos (s.cx.world * 4 + s.cx.die) < 4 ∧
    (Tbl.get [] n.logs (selectedLog n n.cx)).all (fun r => !recordOfWorld n.cx.world r) = true :=
  ⟨rfl, rfl, by decide, by decide, by decide, by decide, by decide⟩

/-- The MAP fields of a value. -/
def maps (v : Word) : List (BitVec 3) := [v.extractLsb' 0 3, v.extractLsb' 3 3, v.extractLsb' 6 3, v.extractLsb' 9 3]

theorem test_witness_IntegrityRegisterResults_spare : let s (v : Word) := (st v 0 0 0).setCtx 14 Ctx.empty
    (readyB (s 0x68D) (.putx 1 regSPARE) && readyB (s 0x1F000688) (.putx 1 regSPARE) && readyB (s 0x68C) (.putx 1 regSPARE)) = true ∧
    (s 0).cx.world = 0 ∧ 4 < ((maps 0x68D)[0]!).toNat ∧ ¬ (maps 0).Nodup ∧
    maps 0x1F000688 = [0, 1, 2, 3] ∧ (maps 0x1F000688).Nodup ∧ maps 0x68C = [4, 1, 2, 3] ∧ (maps 0x68C).Nodup ∧
    [((s 0).cluster 0).map0, ((s 0).cluster 0).map1, ((s 0).cluster 0).map2, ((s 0).cluster 0).map3] = [0, 1, 2, 3] ∧
    clusterBusy (s 0x68C) (s 0x68C).cx.clusterKey = false ∧ Fresh (s 0x68C) ∧ (stOf 0 { ctx0 with world := 3 }).cx.world ≠ 0 ∧
    readyB (stOf 0 { ctx0 with world := 3 }) (.putx 1 regSPARE) = true := by
  intros
  constructorm* _ ∧ _ <;> first | decide | exact rfl

theorem test_witness_IntegrityRegisterResults_inject : let s (v : Word) := (st v 0 0 0).modWd 0 0 (fun w => { w with einja := um 0x140, clusters := 1 })
    (readyB (s 0) (.putx 1 regEINJC) && readyB (s 0x8000000000000600) (.putx 1 regEINJC) && readyB (s 0x8000000000000005) (.putx 1 regEINJC) &&
      readyB (s 0x8000000000000200) (.putx 1 regEINJC)) = true ∧
    injectTarget (s 0x8000000000000200) (s 0x8000000000000200).cx ((s 0x8000000000000200).wd 0 0).einja = some 0x030000000140 ∧
    (let u := { s 0x8000000000000005 with flips := [(0x030000000140, 77)] }
     (∃ x ∈ u.flips, x.1 = 0x030000000140 / 64 * 64 ∧ x.2 / 8 ≠ 5 / 8) ∧ (0x030000000140 / 64 * 64, 5) ∉ u.flips ∧ u.ues = []) ∧
    Fresh (s 0x8000000000000200) :=
  ⟨by decide, by decide, by decide, rfl⟩

theorem test_witness_IntegrityEvents_strikes : let s := st 0 0 0 0
    let t := { s with strikes := [(5, List.replicate 16 0)] }
    s.power = true ∧ ((Tbl.get [] s.strikes 5).filter (fun t => s.clk < t + 1048576)).length < 16 ∧ 5 / 1024 < 4 ∧
    16 ≤ ((Tbl.get [] t.strikes 5).filter (fun x => t.clk < x + 1048576)).length ∧ 5 ∉ t.outOfService := by
  decide

theorem test_witness_IntegrityEvents_effects : let e : Effect := { key := 3, answer := false, src := 5, dst := 6, sent := 100, got := some 120 }
    let s := { st 0 0 0 0 with clk := 200, cycle := 200, effects := [e] }
    let r := { st 0 0 0 0 with clk := 200, cycle := 200, revoked := [e] }
    let n := { r with revoked := [{ e with got := none }] }
    s.power = true ∧ 48 ≤ s.clk ∧ s.clk ≤ s.cycle.toNat ∧ s.effects = [e] ∧ (∀ x ∈ r.revoked, x.dst ≠ 5) ∧ r.revoked = e :: [] ∧ e.dst = 6 ∧ e.got = some 120 ∧ 120 ≤ r.clk ∧ r.clk ≤ r.cycle.toNat ∧
    n.revoked = { e with got := none } :: [] := by
  decide

def map0 : SnapMap := { logBase := 0xFFFD800000000000, logSize := 0x4000, regions := [] }

/-- Core 0 is a gang of its own with a snapshot map; its log areas exist where `there`. -/
def snapped (there : Bool) (c : Ctx) (j : Job) : State :=
  { placed c slice0 j with
    groups := [(groupKey 0 0, { Group.empty with mask := 0x1000000000000 })],
    wds := [(0, { WorldDie.empty with clusters := 1, dmRanges := if there then [(0, 0x100000)] else [] })] }

theorem test_witness_BarrierInstructions_superstep : let j : Job := { job0 with snap := some map0 }
    let s := snapped true ctx0 j
    let u := snapped false ctx0 j
    let n := snapped true ctx0 job0
    let o := s.modCore 0 (fun c => { c with snap := { Snap.empty with isOpen := true, number := 2 } })
    (∀ z ∈ [s, u, n, o], (maskCores 1 0 (z.group (groupAt 1 0 0)).mask).contains 0 = true ∧ findArrival z.cx 1 0 = none) ∧
    Fresh s ∧ Ready s (.arrive 5 1 0 1) ∧ Ready u (.arrive 5 1 0 1) ∧ Ready n (.arrive 5 1 0 1) ∧ Ready o (.arrive 5 1 0 1) ∧
    snapReason n 0 1 = some 1 ∧ snapReason s 0 1 = none ∧ snapWaits s 0 = none ∧ (jobOn s 0).bind (·.snap) = some map0 ∧
    snapReason u 0 1 = none ∧ snapWaits u 0 = none ∧ (jobOn u 0).bind (·.snap) = some map0 ∧
    snapReason o 0 1 = none ∧ snapWaits o 0 = none ∧ (o.core 0).snap.isOpen = true ∧
    vaLoc u 0 0 permW (logArea map0 0 1) = none ∧ (vaLoc s 0 0 permW (logArea map0 0 1)).isSome = true :=
  ⟨by decide, rfl, ready_of (by decide), ready_of (by decide), ready_of (by decide), ready_of (by decide), by decide, by decide, by decide,
   by decide, by decide, by decide, by decide, by decide, by decide, by decide, by decide, by decide⟩

theorem test_witness_IntegrityEvents_rollback : let j : Job := { job0 with snap := some map0 }
    let x : Slice := { slice0 with st := .rolling }
    let s := (placed { ctx0 with run := .held } x j).modCore 0 (fun c => { c with snap := { Snap.empty with isOpen := true, number := 2, waited := some 4 } })
    s.power = true ∧ s.slices = [x] ∧ s.jobs = [j] ∧ x.job = j.id ∧ j.snap = some map0 ∧ x.cores = [0] ∧ x.st = .rolling ∧ x.runs = [] ∧
    (s.core 0).snap.isOpen = true ∧ (s.core 0).older = none ∧
    (s.core 0).snap.unrec = false ∧ j.left = 1 ∧ ((s.modCore 0 (fun c => { c with snap := { c.snap with unrec := true } })).core 0).snap.unrec = true ∧
    (s.core 0).snap.waited.isSome = true ∧ IdleCore s 0 ∧ (∀ n, n < 11 → (s.ctx (0 * 16 + n)).stores = 0) ∧ s.reqs = [] := by
  intros
  constructorm* _ ∧ _ <;> first | decide | exact idle_of (by decide)

theorem test_witness_IntegrityEvents_twins : let j : Job := { job0 with snap := some map0 }
    let a : TwinRun := { g := 0, cores := [0], overflow := false, counts := [], sum := 0, status := 0, finished := true, again := false }
    let b : TwinRun := { a with g := 1, cores := [4] }
    let c : TwinRun := { b with sum := 5 }
    let x : Slice := { slice0 with runs := [a, b] }
    let y : Slice := { slice0 with runs := [a, c] }
    let q : Slice := { slice0 with runs := [{ a with again := true }, { b with again := true }] }
    let s := placed ctx0 x j
    let t := placed ctx0 y j
    runsAgree { a with again := true } { b with again := true } = true ∧ a.status = 0 ∧ (placed ctx0 q j).slices = [q] ∧ a.again = false ∧
    s.power = true ∧ s.slices = [x] ∧ s.jobs = [j] ∧ x.job = j.id ∧ j.snap = some map0 ∧ x.st = .placed ∧ x.runs = [a, b] ∧ a.finished = true ∧
    b.finished = true ∧ runsAgree a b = true ∧ a.counts = [] ∧ j.left = 1 ∧ t.slices = [y] ∧ y.runs = [a, c] ∧ c.finished = true ∧
    runsAgree a c = false := by
  decide

theorem test_witness_IntegrityEvents_others : let s := (((st 0 0 0 0).modCluster 0 (fun c => { c with copying := [(4096, [(4, 0)])] })).modWd 0 0
      (fun w => { w with xen := true, xrate := 9 })).modWorld 0 (fun w => { w with test := true })
    s.power = true ∧ (s.cluster (0 * 48 + 0)).copying = (4096, [(4, 0)]) :: [] ∧ 4 ≠ 0 ∧ MemoryInv s ∧ s.clk < 4096 ∧
    4096 ≤ { s with clk := 5000 }.clk ∧ (s.wd 0 0).xen = true ∧ (s.world 0).test = true ∧ { s with clk := 1 }.clk = (s.wd 0 0).xat + 1 ∧
    (s.wd 0 1).xen = false :=
  ⟨by decide, by decide, by decide, (by decide : Memory.wf [] = true), by decide⟩

/-- The SCTL at a store of s1 to the register at s2. -/
def device (x va : Word) : State := sctl [(1, x), (2, va)]

theorem test_witness_DeviceRegisterWrites : let s := device
    ((readyB (s 0 0x10000040) (.st64 1 2 0) && readyB (s 0x8000000000000002 0x10000040) (.st64 1 2 0) && readyB (s 0x100 0x10010018) (.st64 1 2 0) &&
      readyB (s 5 0x10030000) (.st64 1 2 0) && readyB (s 0x8000000000000005 0x10030000) (.st64 1 2 0) &&
      readyB (s 0x8000000000000000 0x10030010) (.st64 1 2 0) && readyB (s 3 0x10040000) (.st64 1 2 0) &&
      readyB (s 0x8000000000000040 0x10030000) (.st64 1 2 0) && readyB (s 0 0x10050000) (.st64 1 2 0)) = true) ∧
    (s 0 0x10000040).cx.kind = .controller ∧ (s 0 0x10000040).cx.core = 0 ∧ (s 0 0x10000040).rG 2 = 0x10000040 ∧
    (let u := s 0x8000000000000002 0x10000040
     (u.rG 1).getLsbD 63 = true ∧ u.dev.fbusy = none ∧ (u.rG 1).extractLsb' 0 4 = BitVec.ofNat 4 2 ∧ thermometer u (64 * 2) 64 < 64) ∧
    ((s 0 0x10000040).rG 1).getLsbD 63 = false ∧
    (let u := s 0x8000000000000008 0x10000040
     readyB u (.st64 1 2 0) = true ∧ (u.rG 1).getLsbD 63 = true ∧ (u.rG 1).extractLsb' 0 4 = 8#4 ∧ u.dev.fbusy = none ∧ thermometer u 512 3 < 3) ∧
    (let u := { s 0x8000000000000002 0x10000040 with dev := { Devices.zero with fbusy := some 7 } }
     readyB u (.st64 1 2 0) = true ∧ u.dev.fbusy ≠ none) ∧
    (let u := s 0x8000000000000005 0x10030000
     (u.rG 1).getLsbD 63 = true ∧ (u.rG 1).getLsbD 6 = false ∧ u.dev.tearing = []) ∧
    (let u := s 0x8000000000000040 0x10030000
     (u.rG 1).getLsbD 63 = true ∧ (u.rG 1).getLsbD 6 = true ∧ boundWorlds u = [] ∧ u.dev.tearing = []) ∧
    ((s 3 0x10040000).rG 1).extractLsb' 0 8 = BitVec.ofNat 8 3 ∧ ((s 0 0x10050000).rG 1).getLsbD 0 = false ∧ Fresh (s 3 0x10040000) := by
  intros
  constructorm* _ ∧ _ <;> first | decide | exact rfl

theorem test_witness_DeviceRegisterWrites_port : let s : State := { device 1 0x10050000 with
      fuses := [(512, 3)], dev := { Devices.zero with zclean := true, extended9 := true } }
    readyB s (.st64 1 2 0) = true ∧ (s.rG 1).getLsbD 0 = true ∧ boundWord s = 0 ∧ s.dev.tearing = [] ∧ s.dev.zbusy = false ∧ s.dev.zclean = true ∧
    s.dev.extended9 = true ∧ lcsOf s = 1 := by
  decide

/-- A part in SECURE whose mailbox asks for a command with words 2 to 6. -/
def mail (cmd : Nat) (ws : List Nat) : State :=
  (ws.zip (List.range ws.length)).foldl (fun t p => t.writeMem (ctlSpace 0 (0x100010 + 8 * p.2)) 8 p.1)
    ({ State.reset with fuses := [(512, 3), (513, 3)] }.writeMem (ctlSpace 0 0x100000) 8 (2 ^ 63 + cmd))

/-- R327 step 1: a byte that the host has put into the mailbox goes to the last place of the inactive slot. -/
theorem test_image_part : let s := got (exec .image ((mail 7 [1, 4, 262655, 1]).setByte (ctlSpace 0 0x101000) 0x5A))
    flashAt s 4 1 262655 = 0x5A ∧ mailWord s 1 = 0 ∧ s.dev.served = true ∧ s.ctlImages = State.reset.ctlImages := by decide +kernel

theorem test_witness_MailboxCommands_partition : let s (l : List Nat) := mail 1 l
    let p := { s [2, 1, 6, 0, 0] with
      jobs := [{ job0 with world := 2 }], slices := [{ slice0 with cores := [200] }] }
    let m := { s [2, 1, 6, 0, 0] with fuses := [] }
    let z := { s [2, 1, 6, 0, 0] with dev := { Devices.zero with tearing := [(2, 2)] } }
    mailWaits z 1 = true ∧ commandAllowed z 1 2 = true ∧ partitionBad z 2 1 6 (mailRanges z) = false ∧ z.dev.tearing.any (fun q => q.1 = 2) = true ∧
    (s [2, 1, 6, 0, 0]).dev.tearing = [] ∧ p.dev.tearing = [] ∧
    m.power = true ∧ mailWaits m 1 = true ∧ commandAllowed m 1 2 = false ∧
    mailWaits (s [2, 4, 6, 0, 0]) 1 = true ∧ commandAllowed (s [2, 4, 6, 0, 0]) 1 2 = true ∧
    partitionBad (s [2, 4, 6, 0, 0]) 2 4 6 (mailRanges (s [2, 4, 6, 0, 0])) = true ∧
    mailWord (s [2, 1, 6, 0, 0]) 2 = 2 ∧ mailWord (s [2, 1, 6, 0, 0]) 3 = 1 ∧ mailWord (s [2, 1, 6, 0, 0]) 4 = 6 ∧
    partitionBad (s [2, 1, 6, 0, 0]) 2 1 6 (mailRanges (s [2, 1, 6, 0, 0])) = false ∧ placedOnDie (s [2, 1, 6, 0, 0]) 2 1 = false ∧
    mailWaits p 1 = true ∧ commandAllowed p 1 2 = true ∧ partitionBad p 2 1 6 (mailRanges p) = false ∧ placedOnDie p 2 1 = true := by
  decide +kernel

theorem test_witness_MailboxCommands_others : let g := mail 3 [0x7F0000, 0, 0, 0, 0]
    let b := mail 3 [0x8000000000, 0, 0, 0, 0]
    let t := mail 4 [63, 0, 0, 0, 0]
    let e := { mail 2 [1, 2, 3, 4, 5] with dev := { Devices.zero with served := true } }
    let u := mail 9 []
    mailWaits (mail 2 [64, 0, 0, 0, 0]) 2 = true ∧ commandAllowed (mail 2 [64, 0, 0, 0, 0]) 2 64 = true ∧
    mailWaits (mail 2 [63, 2, 3, 4, 5]) 2 = true ∧ (mailWord (mail 2 [63, 2, 3, 4, 5]) 2).toNat < 64 ∧
    mailWaits g 3 = true ∧ commandAllowed g 3 64 = true ∧ ((mailWord g 2).extractLsb' 16 32).toNat < 0x800000 ∧ pageNamed g 0x7F = false ∧
    mailWaits b 3 = true ∧ 0x800000 ≤ ((mailWord b 2).extractLsb' 16 32).toNat ∧
    mailWaits t 4 = true ∧ commandAllowed t 4 63 = true ∧ t.dev.tearing = [] ∧ mailWaits (mail 5 []) 5 = true ∧
    mailWaits (mail 6 []) 6 = true ∧ (mail 6 []).dev.debugOpen = false ∧ mailWaits (mail 7 [1, 4]) 7 = true ∧
    mailWord (mail 7 [1, 4]) 5 = 0 ∧ mailWaits (mail 7 [1, 4, 262655, 1]) 7 = true ∧ mailWord (mail 7 [1, 4, 262655, 1]) 5 = 1 ∧
    (let n := { e with dev := { e.dev with mailNext := some (2 ^ 63 + 5) } }
     mailGo n = true ∧ n.dev.served = true ∧ n.dev.mailNext = some (2 ^ 63 + 5)) ∧ e.dev.mailNext = none ∧ u.dev.mailNext = none ∧
    u.dev.taken = false ∧ (let k := { u with dev := { u.dev with taken := true } }
     k.power = true ∧ k.dev.taken = true ∧ k.dev.served = false) ∧
    mailGo e = true ∧ e.dev.served = true ∧ mailGo u = true ∧ u.dev.served = false ∧ 7 < ((mailWord u 0).extractLsb' 0 8).toNat := by
  decide +kernel

/-- A part in SECURE, PROVISIONED or DECOMMISSIONED by the number of programmed lifecycle pairs. -/
def part (n : Nat) : State := { State.reset with fuses := (List.range n).map (fun i => (512 + i, 3)) }

theorem test_witness_TrustEvents_messages : let s := part 2
    let d := { s with dev := { Devices.zero with debugOpen := true } }
    let l := s.modWorld 63 (fun x => { x with tdisp := .locked })
    (∀ n ∈ [0, 1, 2], let z := s.modWorld 63 (fun x => { x with session := n })
      mailGo z = false ∧ lcsOf z = 2 ∧ (z.world 63).session = n) ∧
    (∀ z ∈ [s, d, l, part 3, part 1], mailGo z = false) ∧ mailGo (mail 5 []) = true ∧
    s.power = true ∧ portOpen d = true ∧ lcsOf d = 3 ∧ portOpen s = false ∧ (l.world 63).tdisp = .locked ∧ portOpen l = false ∧
    (s.world 63).tdisp = .unlocked ∧ s.dev.tearing = [] ∧ lcsOf s ≠ 3 ∧ lcsOf s ≠ 4 ∧ mayRequest 63 0x42 = false ∧ measBlock s 0x41 ≠ none ∧
    mayRequest 63 0x7F = true ∧ lcsOf (part 3) = 4 ∧ lcsOf (part 1) ≠ 2 := by
  decide +kernel

theorem test_witness_TrustEvents_block : let s := part 2
    measBlock s 0x7F = some (digestBytes (configDigest s 63)) ∧ measBlock s 0x30 = none := ⟨rfl, rfl⟩

/-- A key-registration record: op 1, exponent 65537, a modulus of 4096 bits. -/
def record0 : List Byte := leBytes 0x4745524B 4 ++ [1, 0, 0, 0] ++ leBytes 65537 4 ++ [0, 0, 0, 0] ++ 0x80#8 :: List.replicate 511 (0 : Byte)

theorem test_witness_TrustEvents_records : registerStatus (part 2) 63 record0 = 0 ∧ registerStatus (part 2) 63 [] ≠ 0 := by
  decide +kernel

theorem test_witness_TrustEvents_ends : let s := (ctl 1 0).modWd 63 3 (fun w => { w with clusters := 5 })
    let f := { s with dev := { Devices.zero with fbusy := some 512, rsaRun := some 1, tearing := [(63, 2)], zbusy := true } }
    let d := stOf 0 ctx0
    let o := { d with fuses := [(512, 3)], dev := { Devices.zero with debugOpen := true } }
    (let m := { mail 4 [63] with dev := f.dev }
     m.owner = [] ∧ (∀ n ∈ List.range 4, (m.wd 63 n).dmRanges = []) ∧ mailWaits m 4 = true ∧ mailWord m 2 = BitVec.ofNat 64 63) ∧
    f.power = true ∧ f.dev.fbusy = some 512 ∧ f.dev.rsaRun = some 1 ∧ f.dev.tearing = [(63, 2)] ∧ f.dev.zbusy = true ∧
    (f.wd 63 3).clusters.getLsbD 2 = true ∧ lcsOf o = 3 ∧ (o.ctx 0).world = 0 ∧ (o.ctx 0).run = .live ∧ (o.ctx 0).kind = .control := by
  decide

theorem test_witness_EncodeDecodeRoundTrip : Canonical (.ldk 5 0x12345678) = true ∧ WellFormed (.ldk 5 0x12345678) = true ∧
    encodeFirst (.ldk 5 0x12345678) = some 0xA8500000#32 := by
  decide

/-- A state whose clk goes on by one, with words ahead at the control context of core 0. -/
def ahead (l : List Word32) : State := stOf 0 { ctx0 with fetched := l }

/-- The words that the context issues whose turn is next, or the event whose turn it is. -/
def turnOf (s : State) : Option (Word32 × Word32) ⊕ Instr :=
  match nextTurn s with
  | (.ctx k, s0) => .inl (
    match arbitrate s0 k with
    | some s1 =>
      if s0.power && !s0.resetDue && decide (s1.cx.run = .live) && decide (boundaryOf s1 s1.cur = .issue) then
        match supply s1 with
        | .words _ w m => some (w, m)
        | .wait _ => none
      else none
    | none => none)
  | (.event i, _) => .inr i

theorem test_witness_StepRunsDecodedInstruction : let s := ahead [0x02624000#32, 0xA8500000#32]
    let t : State := { s with cur := 5, turns := [{ dt := 3, agent := .ctx 0 }] }
    let e : State := { s with turns := [{ dt := 0, agent := .event .powerFailure }] }
    let n := noteIssue s 0 false 0
    turnOf s = .inl (some (0x02624000#32, 0)) ∧ turnOf t = .inl (some (0x02624000#32, 0)) ∧ turnOf e = .inr .powerFailure ∧
    s.turns = [] ∧ s.cx.isCompute = true ∧ s.cx.fetching = none ∧ s.cx.fetched = 0x02624000#32 :: 0xA8500000#32 :: [] ∧
    decode 0x02624000#32 0 = .ok (.add 3 1 2) ∧ e.resetDue = false ∧ readyPipe n 0 = some false ∧ pipeUsed n 0 false = true ∧
    arbitrate n 0 = none ∧ (ctl 1 0).cx.kind = .controller ∧ (ctl 1 0).cx.pc.toNat + 4 ≤ 0x40000 := by
  decide +kernel

theorem test_witness_MemoryCanonicalKept : let s := ahead [0x02624000#32, 0xA8500000#32]
    MemoryInv s ∧ goes (step s) = true := ⟨(by decide : Memory.wf [] = true), by decide⟩

theorem test_witness_CanonicalMemoriesAreEqual : MemoryInv State.reset ∧ MemoryInv (st 0 0 0 0) ∧
    ∀ a, State.reset.byte a = (st 0 0 0 0).byte a :=
  ⟨(by decide : Memory.wf [] = true), (by decide : Memory.wf [] = true), fun _ => rfl⟩

/-! ## Ill-formed terms: each form check refuses one, and takes its well-formed neighbour (R35 to R39, R44) -/

theorem test_illformed_amo_operator : WellFormed (.amo 4 5 6 7 0 4) = false ∧ formCause (.amo 4 5 6 7 0 4) = some 0x003#9 ∧
    WellFormed (.amo 4 5 6 6 0 4) = true := by decide
theorem test_illformed_vred_operator : WellFormed (.vred 4 5 0 6 0 0 0) = false ∧ formCause (.vscan 4 5 0 7 0 0 0) = some 0x003#9 ∧
    WellFormed (.vred 4 5 0 2 0 0 0) = true := by decide
theorem test_illformed_vred_type : formCause (.vred 4 5 0 3 0 0 0) = some 0x00A#9 ∧ WellFormed (.vred 4 5 0 3 0 0 1) = true := by decide
theorem test_illformed_vred_rounding : formCause (.vred 4 5 0 1 0 1 0) = some 0x004#9 ∧ WellFormed (.vred 4 5 0 0 0 1 0) = true := by decide
theorem test_illformed_group : formCause (.arrive 3 1 4 0) = some 0x00B#9 ∧ formCause (.wait 3 0 0) = some 0x00B#9 ∧
    formCause (.bmask 3 4 4 0) = some 0x00B#9 ∧ WellFormed (.arrive 3 1 3 0) = true ∧ WellFormed (.arrive 3 2 15 0) = true := by decide
theorem test_illformed_publish : formCause (.publish 0) = some 0x00B#9 ∧ formCause (.publish 6) = some 0x00B#9 ∧ WellFormed (.publish 5) = true := by decide
theorem test_illformed_rounding : formCause (.vadd 1 2 3 0 1 1) = some 0x004#9 ∧ WellFormed (.vadd 1 2 3 0 1 0) = true := by decide
theorem test_illformed_type_reserved : formCause (.vadd 1 2 3 0 0 7) = some 0x009#9 ∧ WellFormed (.vadd 1 2 3 0 0 6) = true := by decide
theorem test_illformed_type_unaccepted : formCause (.vmulh 1 2 3 0 0 0) = some 0x00A#9 ∧ WellFormed (.vmulh 1 2 3 0 0 1) = true := by decide
theorem test_illformed_immediate : formCause (.vaddImm 1 2 0 0 6 0x02000000) = some 0x004#9 ∧
    WellFormed (.vaddImm 1 2 0 0 6 0x01FFFFFF) = true := by decide
theorem test_illformed_vcmp : formCause (.vcmp 1 1 2 3 0 3 0) = some 0x003#9 ∧ formCause (.vcmp 1 1 2 3 0 2 1) = some 0x003#9 ∧
    WellFormed (.vcmp 1 1 2 3 0 2 0) = true := by decide
theorem test_illformed_vcvt : formCause (.vcvtTo 1 2 0 0 0 3 0) = some 0x00A#9 ∧ formCause (.vcvtTo 1 2 4 0 0 0 1) = some 0x009#9 ∧
    WellFormed (.vcvtTo 1 2 2 0 0 0 0) = true := by decide

/-! ## Results of one step, worked out from the spec by hand -/

/-- What register s5 holds after an instruction. -/
def s5 (i : Instr) (a b : Word) : Word := (got (exec i (st a b 0 0))).rS 5

theorem test_add_wraps : s5 (.add 5 1 2) 0xFFFFFFFFFFFFFFFF 2 = 1 := by decide
theorem test_sub_wraps : s5 (.sub 5 1 2) 0 1 = 0xFFFFFFFFFFFFFFFF := by decide
theorem test_shl_by_64 : s5 (.shl 5 1 2) 3 65 = 6 := by decide
theorem test_sar_sign : s5 (.sar 5 1 2) 0x8000000000000000 63 = 0xFFFFFFFFFFFFFFFF := by decide
theorem test_mulh_signs : s5 (.mulh 5 1 2) 0xFFFFFFFFFFFFFFFF 2 = 0xFFFFFFFFFFFFFFFF ∧ s5 (.mulhz 5 1 2) 0xFFFFFFFFFFFFFFFF 2 = 1 := by decide
theorem test_div_corners : s5 (.div 5 1 2) 7 0 = 0xFFFFFFFFFFFFFFFF ∧ s5 (.div 5 1 2) 0x8000000000000000 0xFFFFFFFFFFFFFFFF = 0x8000000000000000 := by
  decide
theorem test_rem_signs : s5 (.rem 5 1 2) 0xFFFFFFFFFFFFFFF9 2 = 0xFFFFFFFFFFFFFFFF ∧ s5 (.remz 5 1 2) 7 0 = 7 := by decide
theorem test_div_truncates : s5 (.div 5 1 2) 0xFFFFFFFFFFFFFFF9 2 = 0xFFFFFFFFFFFFFFFD := by decide
theorem test_slt_signs : s5 (.slt 5 1 2) 0xFFFFFFFFFFFFFFFF 0 = 1 ∧ s5 (.sltz 5 1 2) 0xFFFFFFFFFFFFFFFF 0 = 0 := by decide
theorem test_addi_negative : s5 (.addi 5 1 0x1FFFF) 0 0 = 0xFFFFFFFFFFFFFFFF := by decide
theorem test_sltzi_extends : s5 (.sltzi 5 1 0x1FFFF) 0x20000 0 = 1 := by decide
theorem test_liu_negative : s5 (.liu 5 0x100000) 0 0 = 0xFFFFFFE000000000 := by decide
theorem test_clz_of_zero : s5 (.clz 5 1) 0 0 = 64 ∧ s5 (.ctz 5 1) 0x10 0 = 4 := by decide
theorem test_bswap : s5 (.bswap 5 1) 0x0102030405060708 0 = 0x0807060504030201 := by decide
theorem test_bfx_top : s5 (.bfx 5 1 60 7) 0xA000000000000000 0 = 0xA := by decide
theorem test_ldk_extends : s5 (.ldk 5 0x80000000) 0 0 = 0xFFFFFFFF80000000 ∧ s5 (.ldkZ 5 0x80000000) 0 0 = 0x80000000 := by decide
theorem test_s0_discards : (got (exec (.addi 0 1 1) (st 6 0 0 0))).rS 0 = 0 := by decide
theorem test_beq_target : (got (exec (.beq 1 2 (-4)) (st 7 7 0 0))).cx.pc = 0xFF0 ∧ (got (exec (.beq 1 2 (-4)) (st 7 8 0 0))).cx.pc = 0x1004 := by decide

/-- A byte 0x80 in the unit memory of core 0 at 0x100. -/
def byte0 : State := { st (um 0x100) 0 0 0 with mem := [(0x030000000100, 0x80)] }

theorem test_ld8_extends : (got (exec (.ld8s 5 1 0) byte0)).rS 5 = 0xFFFFFFFFFFFFFF80 ∧ (got (exec (.ld8z 5 1 0) byte0)).rS 5 = 0x80 := by decide
theorem test_st16_little_endian : (got (exec (.st16 2 1 2) (st (um 0x100) 0xABCD 0 0))).mem = [(0x030000000102, 0xCD), (0x030000000103, 0xAB)] := by
  decide
theorem test_trap_entry : let t := got (exec (.trap 1) (st 9 0 0 0))
    t.cx.trap.cause = 0x1A4#9 ∧ t.cx.trap.active = true ∧ t.cx.priv = true ∧ t.cx.trap.ppriv = true := by decide
theorem test_call_slides : let t := got (exec (.call 8 2) (st 1 2 3 4))
    t.cx.fb = 8 ∧ t.cx.pc = 0x1008 := by decide

/-- A `ret` by 6 with the granule of positions 0 to 7 in its slots, position 7 holding 0x55. -/
def spilled : State := { stOf 0 { ctx0 with fb := 12, wlow := 8, regs := regsOf [(43, (6#64 <<< 59) ||| 0x2000)], bsp := um 0x1000, bsl := 0x800 } with
  mem := [(0x030000001038, 0x55)] }

theorem test_ret_fills : let t := got (exec .ret spilled)
    t.cx.fb = 6 ∧ t.cx.wlow = 0 ∧ t.cx.pc = 0x2000 ∧ t.rS 1 = 0x55 := by decide +kernel

/-- Core 0 is about to issue a `vadd` and core 1 an `add`, both in this clk. -/
def pair0 : State :=
  let c : Ctx := { ctx0 with fetched := [0x40246800#32] }
  { (stOf 0 c).setCtx 16 { ctx0 with core := 1, fetched := [0x02624000#32] } with turns := [{ dt := 0, agent := .ctx 0 }, { dt := 0, agent := .ctx 16 }] }

theorem test_order_in_one_clk : (nextTurn pair0).1 = .ctx 16 ∧ (nextTurn pair0).2.turns = [{ dt := 0, agent := .ctx 0 }] := by decide +kernel

/-- The published digest of the three bytes "abc" (FIPS 180-4). -/
theorem test_sha512 : sha512 [0x61, 0x62, 0x63] =
    0x9fa44ca54fc99a2a0ee83c6423444d45bdebfea3233cba36a8c14f272a9992219ad3554be6ee9e0aa27ea9894efae612314120ae497341ccba7a6193a135afdd#512 := by
  decide +kernel

theorem test_bstep_reads_after_write : let s := (gang { ctx0 with regs := regsOf [(4, 3)] }).modGroup (groupKey 0 1) (fun g => { g with step := 2 })
    ((got (exec (.bstep 4 4 1 1) s)).group (groupKey 0 1)).step = 2 ∧ (got (exec (.bstep 4 4 1 1) s)).rS 4 = 2 ∧
    ((got (exec (.bstep 5 4 1 1) s)).group (groupKey 0 1)).step = 3 := by decide

end Sys2Proof.Tests
end

/-!
Proofs of the scalar results (O1, O2). Every form is one register result, so an instruction's frame is proved once
(`writes_of_setS`); the rest are facts about the values that the model computes.
-/
namespace Sys2Proof.Machine

/-! ## The shape of every scalar result -/

/-- An instruction whose meaning is a register result writes that value, however the value is put. -/
theorem writes_of_setS {s : State} {i : Instr} {d : SReg} {v w : Word} {n : Nat} (hs : Fresh s)
    (hexec : exec i s = setS s i d v n) (hvalue : v = w) (hi : Ready s i) : Writes s i d w n := by
  subst hvalue
  rw [Writes, hexec]
  exact setS_writes hi hs d v n

/-! ## Values of R85 to R88 -/

theorem amount_eq_mod (b : Word) : amount b = b.toNat % 64 := by simp [amount, bits]

theorem boolWord_decide (p : Prop) [Decidable p] : boolWord (decide p) = if p then 1 else 0 := by simp [boolWord]

/-- Sign extension keeps the integer. -/
theorem signExtend_eq_ofInt {w : Nat} (v : Nat) (a : BitVec w) : a.signExtend v = BitVec.ofInt v a.toInt := rfl

theorem mul_eq_ofNat (a b : Word) : a * b = BitVec.ofNat 64 (a.toNat * b.toNat) := by
  rw [BitVec.ofNat_mul, BitVec.ofNat_toNat, BitVec.ofNat_toNat, BitVec.setWidth_eq, BitVec.setWidth_eq]

/-- The upper half of the signed product: the 128 bits hold it modulo 2^128, and 2^64 divides that modulus. -/
theorem mulhValue_eq_extract (a b : Word) :
    mulhValue a b = BitVec.extractLsb' 64 64 (a.signExtend 128 * b.signExtend 128) := by
  rw [signExtend_eq_ofInt, signExtend_eq_ofInt, ← BitVec.ofInt_mul, mulhValue]
  generalize a.toInt * b.toInt = p
  apply BitVec.eq_of_toNat_eq
  rw [BitVec.extractLsb'_toNat, BitVec.toNat_ofInt, BitVec.toNat_ofInt, Nat.shiftRight_eq_div_pow]
  omega

/-- The upper half of the unsigned product, likewise. -/
theorem mulhzValue_eq_extract (a b : Word) :
    mulhzValue a b = BitVec.extractLsb' 64 64 (a.zeroExtend 128 * b.zeroExtend 128) := by
  apply BitVec.eq_of_toNat_eq
  simp only [mulhzValue, BitVec.toNat_ofNat, BitVec.extractLsb'_toNat, BitVec.toNat_mul, BitVec.truncate_eq_setWidth,
    BitVec.toNat_setWidth, Nat.shiftRight_eq_div_pow, ← Nat.mul_mod]
  generalize a.toNat * b.toNat = p
  omega

theorem sdiv_eq_ofInt (a b : Word) : a.sdiv b = BitVec.ofInt 64 (a.toInt.tdiv b.toInt) := by
  apply BitVec.eq_of_toInt_eq
  rw [BitVec.toInt_sdiv, BitVec.toInt_ofInt]

theorem srem_eq_ofInt (a b : Word) : a.srem b = BitVec.ofInt 64 (a.toInt.tmod b.toInt) := by
  rw [← BitVec.toInt_srem, BitVec.ofInt_toInt]

theorem umod_eq_ofNat (a b : Word) : a % b = BitVec.ofNat 64 (a.toNat % b.toNat) := by
  rw [← BitVec.toNat_umod, BitVec.ofNat_toNat, BitVec.setWidth_eq]

theorem divValue_eq (a b : Word) :
    divValue a b = if b = 0 then BitVec.allOnes 64 else BitVec.ofInt 64 (a.toInt.tdiv b.toInt) := by
  rw [divValue, sdiv_eq_ofInt]

theorem divzValue_eq (a b : Word) :
    divzValue a b = if b = 0 then BitVec.allOnes 64 else BitVec.ofNat 64 (a.toNat / b.toNat) := by
  rw [divzValue, BitVec.udiv_def]

theorem remValue_eq (a b : Word) : remValue a b = if b = 0 then a else BitVec.ofInt 64 (a.toInt.tmod b.toInt) := by
  rw [remValue, srem_eq_ofInt]

theorem remzValue_eq (a b : Word) : remzValue a b = if b = 0 then a else BitVec.ofNat 64 (a.toNat % b.toNat) := by
  rw [remzValue, umod_eq_ofNat]

theorem slt_imm_eq (a : Word) (imm : BitVec 17) : a.slt (imm.signExtend 64) = decide (a.toInt < imm.toInt) := by
  rw [BitVec.slt, BitVec.toInt_signExtend_of_le (by decide)]

theorem liu_eq_ofInt (j : BitVec 21) : (j.signExtend 64 <<< 17 : Word) = BitVec.ofInt 64 (j.toInt * 2 ^ 17) := by
  rw [BitVec.ofInt_mul, BitVec.shiftLeft_eq_mul_twoPow, signExtend_eq_ofInt]
  rfl

/-! ## R85 to R88: the instructions -/

/-- Settles O1: every form is a register result (`writes_of_setS`), and the lemmas above put its value as the spec does. -/
theorem scalarResults : Obligations.ScalarResults := by
  refine ⟨fun s d a b hs => ?registers, fun s d a b hs => ?divisions, fun s d a imm n j hs => ?immediates⟩
  case registers =>
    exact ⟨writes_of_setS hs rfl rfl, writes_of_setS hs rfl rfl, writes_of_setS hs rfl rfl, writes_of_setS hs rfl rfl,
      writes_of_setS hs rfl rfl,
      writes_of_setS hs rfl (by rw [amount_eq_mod]),
      writes_of_setS hs rfl (by rw [amount_eq_mod]),
      writes_of_setS hs rfl (by rw [amount_eq_mod]),
      writes_of_setS hs rfl (mul_eq_ofNat _ _),
      writes_of_setS hs rfl (mulhValue_eq_extract _ _),
      writes_of_setS hs rfl (mulhzValue_eq_extract _ _),
      writes_of_setS hs rfl (boolWord_decide _),
      writes_of_setS hs rfl (boolWord_decide _)⟩
  case divisions =>
    exact ⟨writes_of_setS hs rfl (divValue_eq _ _), writes_of_setS hs rfl (divzValue_eq _ _),
      writes_of_setS hs rfl (remValue_eq _ _), writes_of_setS hs rfl (remzValue_eq _ _)⟩
  case immediates =>
    exact ⟨writes_of_setS hs rfl rfl, writes_of_setS hs rfl rfl, writes_of_setS hs rfl rfl, writes_of_setS hs rfl rfl,
      writes_of_setS hs rfl rfl, writes_of_setS hs rfl rfl, writes_of_setS hs rfl rfl,
      writes_of_setS hs rfl (by rw [slt_imm_eq, boolWord_decide]),
      writes_of_setS hs rfl (boolWord_decide _),
      writes_of_setS hs rfl (liu_eq_ofInt j)⟩

/-! ## Counts and reversals (R103) -/

/-- The leading zeros stand above bit 63 − n, which is set unless the word is zero. -/
theorem clz64_spec (a : Word) : clz64 a ≤ 64 ∧ (∀ k, 64 - clz64 a ≤ k → k < 64 → a.getLsbD k = false) ∧
    (clz64 a < 64 → a.getLsbD (63 - clz64 a) = true) := by
  by_cases h0 : a = 0
  · simp [clz64, h0]
  · have hn : a.toNat ≠ 0 := fun h => h0 (BitVec.eq_of_toNat_eq h)
    have htop : Nat.log2 a.toNat < 64 := (Nat.log2_lt hn).2 a.isLt
    rw [clz64, if_neg h0]
    refine ⟨by omega, fun k hk _ => ?_, fun _ => ?_⟩
    · exact Nat.testBit_lt_two_pow (Nat.lt_of_lt_of_le Nat.lt_log2_self (Nat.pow_le_pow_right (by decide) (by omega)))
    · rw [show 63 - (63 - Nat.log2 a.toNat) = Nat.log2 a.toNat by omega]
      exact Nat.testBit_log2 hn

/-- The trailing zeros stand below bit n, which is set unless the word is zero. -/
theorem ctz64_spec (a : Word) : ctz64 a ≤ 64 ∧ (∀ k, k < ctz64 a → a.getLsbD k = false) ∧
    (ctz64 a < 64 → a.getLsbD (ctz64 a) = true) := by
  unfold ctz64
  cases hfind : (List.range 64).find? (fun i => bit a i) with
  | none =>
    refine ⟨Nat.le_refl 64, fun k hk => ?_, fun h => absurd h (Nat.lt_irrefl 64)⟩
    simpa [bit] using List.find?_eq_none.1 hfind k (List.mem_range.2 hk)
  | some n =>
    obtain ⟨hset, hmem, hbelow⟩ := List.find?_range_eq_some.1 hfind
    exact ⟨Nat.le_of_lt (List.mem_range.1 hmem), fun k hk => by simpa [bit] using hbelow k hk, fun _ => hset⟩

theorem popcount_eq_countP (a : Word) : popcount a = (List.range 64).countP (fun k => a.getLsbD k) :=
  List.countP_eq_length_filter.symm

theorem getLsbD_reverseBits (a : Word) {k : Nat} (hk : k < 64) : (reverseBits a).getLsbD (63 - k) = a.getLsbD k := by
  rw [reverseBits, BitVec.getLsbD_reverse, BitVec.getMsbD, decide_eq_true (by omega : 63 - k < 64), Bool.true_and]
  congr 1
  omega

/-- Byte k of a number. -/
theorem leBytes_getD (v n k : Nat) (hk : k < n) : (leBytes v n).getD k 0 = BitVec.ofNat 8 (v / 256 ^ k) := by
  induction n generalizing v k with
  | zero => omega
  | succ n ih =>
    cases k with
    | zero => simp [leBytes]
    | succ k =>
      rw [leBytes, List.getD_cons_succ, ih _ _ (by omega), Nat.div_div_eq_div_mul, Nat.pow_succ, Nat.mul_comm]

/-- Byte k of the value of bytes: the k-th of them. -/
theorem leValue_byte (l : List Byte) (k : Nat) : BitVec.ofNat 8 (leValue l / 256 ^ k) = l.getD k 0 := by
  induction l generalizing k with
  | nil => simp [leValue]
  | cons b t ih =>
    have hb : b.toNat < 256 := b.isLt
    cases k with
    | zero => apply BitVec.eq_of_toNat_eq; simp [leValue]; omega
    | succ k =>
      rw [List.getD_cons_succ, ← ih k, Nat.pow_succ', ← Nat.div_div_eq_div_mul]
      congr 2
      rw [leValue]; omega

theorem extractLsb'_byte (a : Word) (k : Nat) : a.extractLsb' (8 * k) 8 = BitVec.ofNat 8 (a.toNat / 256 ^ k) := by
  apply BitVec.eq_of_toNat_eq
  rw [BitVec.extractLsb'_toNat, Nat.shiftRight_eq_div_pow, BitVec.toNat_ofNat, Nat.pow_mul]

theorem leValue_lt (l : List Byte) : leValue l < 256 ^ l.length := by
  induction l with
  | nil => simp [leValue]
  | cons b t ih =>
    have hb : b.toNat < 256 := b.isLt
    rw [leValue, List.length_cons, Nat.pow_succ]
    omega

theorem extractLsb'_swapBytes (a : Word) {k : Nat} (hk : k < 8) :
    (swapBytes a).extractLsb' (8 * (7 - k)) 8 = a.extractLsb' (8 * k) 8 := by
  have hlt : leValue (leBytes a.toNat 8).reverse < 2 ^ 64 := by
    simpa using leValue_lt (leBytes a.toNat 8).reverse
  have hrev := congrFun (List.getD_reverse (l := leBytes a.toNat 8) (7 - k) (by rw [leBytes_length]; omega)) 0
  rw [leBytes_length, show 8 - 1 - (7 - k) = k by omega] at hrev
  rw [extractLsb'_byte, extractLsb'_byte, swapBytes, BitVec.toNat_ofNat, Nat.mod_eq_of_lt hlt, leValue_byte, hrev,
    leBytes_getD _ _ _ hk]

/-! ## Fields (R103, R104, R105) -/

theorem bits_eq_extract (a : Word) (hi lo : Nat) : bits a hi lo = (a.extractLsb' lo (hi + 1 - lo)).toNat := by
  rw [bits, BitVec.extractLsb'_toNat, Nat.shiftRight_eq_div_pow]

/-- A mask of n bits from bit lo. -/
theorem getLsbD_fieldMask (n lo k : Nat) :
    (BitVec.ofNat 64 ((2 ^ n - 1) * 2 ^ lo)).getLsbD k = decide (k < 64 ∧ lo ≤ k ∧ k < lo + n) := by
  rw [BitVec.getLsbD_ofNat, Nat.testBit_mul_two_pow, Nat.testBit_two_pow_sub_one]
  simp only [← Bool.decide_and]
  exact decide_eq_decide.2 (by omega)

theorem getLsbD_lowMask (n k : Nat) : (BitVec.ofNat 64 (2 ^ n - 1)).getLsbD k = decide (k < 64 ∧ k < n) := by
  simpa using getLsbD_fieldMask n 0 k

theorem getLsbD_setBits (old new : Word) (hi lo : Nat) {k : Nat} (hk : k < 64) :
    (setBits old new hi lo).getLsbD k = if lo ≤ k ∧ k ≤ hi then new.getLsbD k else old.getLsbD k := by
  rw [setBits]
  simp only [BitVec.getLsbD_or, BitVec.getLsbD_and, BitVec.getLsbD_not, getLsbD_fieldMask]
  have hmask : decide (k < 64 ∧ lo ≤ k ∧ k < lo + (hi + 1 - lo)) = decide (lo ≤ k ∧ k ≤ hi) :=
    decide_eq_decide.2 (by omega)
  rw [hmask]
  by_cases hin : lo ≤ k ∧ k ≤ hi
  · rw [decide_eq_true hin, if_pos hin]
    simp
  · rw [decide_eq_false hin, if_neg hin]
    simp [hk]

/-- The low w bits replaced: they are the new word's, and the bits above them the old one's. -/
theorem toNat_setBits_low (old new : Word) {w : Nat} (hw : 0 < w) :
    (setBits old new (w - 1) 0).toNat % 2 ^ w = new.toNat % 2 ^ w ∧
      (setBits old new (w - 1) 0).toNat / 2 ^ w = old.toNat / 2 ^ w := by
  constructor <;> apply Nat.eq_of_testBit_eq <;> intro k
  · rw [Nat.testBit_mod_two_pow, Nat.testBit_mod_two_pow, BitVec.testBit_toNat, BitVec.testBit_toNat]
    by_cases hk : k < w ∧ k < 64
    · rw [getLsbD_setBits _ _ _ _ hk.2, if_pos (by omega)]
    · rcases Nat.lt_or_ge k w with h | h
      · rw [BitVec.getLsbD_of_ge _ _ (by omega), BitVec.getLsbD_of_ge _ _ (by omega)]
      · rw [decide_eq_false (by omega), Bool.false_and, Bool.false_and]
  · rw [Nat.testBit_div_two_pow, Nat.testBit_div_two_pow, BitVec.testBit_toNat, BitVec.testBit_toNat]
    rcases Nat.lt_or_ge (k + w) 64 with h | h
    · rw [getLsbD_setBits _ _ _ _ h, if_neg (by omega)]
    · rw [BitVec.getLsbD_of_ge _ _ h, BitVec.getLsbD_of_ge _ _ h]

/-- One word above the low n bits of another. -/
theorem getLsbD_above_low (hi lo : Word) (n : Nat) {k : Nat} (hk : k < 64) :
    ((hi <<< n) ||| (lo &&& BitVec.ofNat 64 (2 ^ n - 1))).getLsbD k =
      if k < n then lo.getLsbD k else hi.getLsbD (k - n) := by
  rw [BitVec.getLsbD_or, BitVec.getLsbD_and, getLsbD_lowMask, BitVec.getLsbD_shiftLeft]
  by_cases h : k < n <;> simp [h, hk]

theorem mkva_eq_append (a b : Word) :
    ((b <<< 49) ||| (a &&& 0x0001FFFFFFFFFFFF#64) : Word) = b.extractLsb' 0 15 ++ a.extractLsb' 0 49 := by
  apply BitVec.eq_of_getLsbD_eq
  intro k hk
  rw [BitVec.getLsbD_append, BitVec.getLsbD_extractLsb', BitVec.getLsbD_extractLsb']
  refine (getLsbD_above_low b a 49 hk).trans ?_
  split
  next h => simp [h]
  next h => rw [decide_eq_true (by omega), Bool.true_and, Nat.zero_add]

theorem ldkHi_eq_append (m : BitVec 32) (old : Word) :
    ((m.zeroExtend 64 <<< 32) ||| (old &&& 0xFFFFFFFF#64) : Word) = m ++ old.extractLsb' 0 32 := by
  apply BitVec.eq_of_getLsbD_eq
  intro k hk
  rw [BitVec.getLsbD_append, BitVec.getLsbD_extractLsb']
  refine (getLsbD_above_low (m.zeroExtend 64) old 32 hk).trans ?_
  split
  next h => simp [h]
  next h => rw [BitVec.zeroExtend, BitVec.getLsbD_setWidth, decide_eq_true (by omega), Bool.true_and]

theorem zeroExtend_eq_ofNat (m : BitVec 32) : (m.zeroExtend 64 : Word) = BitVec.ofNat 64 m.toNat :=
  (BitVec.ofNat_toNat 64 m).symm

theorem dieof_eq_extract (a : Word) : a >>> 49 = (a.extractLsb' 49 15).zeroExtend 64 := by
  apply BitVec.eq_of_toNat_eq
  simp only [BitVec.toNat_ushiftRight, BitVec.truncate_eq_setWidth, BitVec.toNat_setWidth, BitVec.extractLsb'_toNat,
    Nat.shiftRight_eq_div_pow]
  omega

/-- The size of the offset field of an address (R103). -/
def offsetWidth (a : Word) : Nat :=
  if a.getLsbD 48 = false ∨ a.extractLsb' 49 15 = 0x7FFF#15 then 48
  else if a.extractLsb' 46 2 = 0#2 then 20 else if a.extractLsb' 46 2 = 1#2 then 22 else 26

theorem offsetWidth_bounds (a : Word) : 0 < offsetWidth a ∧ offsetWidth a ≤ 64 := by
  unfold offsetWidth
  split_ifs <;> decide

theorem addvaValue_eq_setBits (a b : Word) : addvaValue a b = setBits a (a + b) (offsetWidth a - 1) 0 := by
  have hpaged : ((!bit a 48 || decide (bits a 63 49 = 0x7FFF)) = true) ↔
      (a.getLsbD 48 = false ∨ a.extractLsb' 49 15 = 0x7FFF#15) := by
    rw [bits_eq_extract, Bool.or_eq_true, Bool.not_eq_true', decide_eq_true_eq, BitVec.toNat_eq]
    exact Iff.rfl
  have hspace : bits a 47 46 = (a.extractLsb' 46 2).toNat := bits_eq_extract a 47 46
  unfold addvaValue offsetWidth
  refine congrArg (fun w => setBits a (a + b) (w - 1) 0) (if_congr hpaged rfl ?_)
  rw [hspace]
  generalize a.extractLsb' 46 2 = space
  revert space
  decide

/-- The offset field advances within itself; the rest of the address stays (R103). -/
theorem addvaValue_spec (a b : Word) :
    (addvaValue a b).toNat % 2 ^ offsetWidth a = (a.toNat + b.toNat) % 2 ^ offsetWidth a ∧
      (addvaValue a b).toNat / 2 ^ offsetWidth a = a.toNat / 2 ^ offsetWidth a := by
  obtain ⟨hfield, hrest⟩ := toNat_setBits_low a (a + b) (offsetWidth_bounds a).1
  have hwidth : 2 ^ offsetWidth a ∣ 2 ^ 64 := Nat.pow_dvd_pow 2 (offsetWidth_bounds a).2
  rw [addvaValue_eq_setBits, hfield, BitVec.toNat_add, Nat.mod_mod_of_dvd _ hwidth]
  exact ⟨rfl, hrest⟩

/-- Bits p to p + l; a bit above 63 reads as 0 (R104). -/
theorem getLsbD_bfxValue (a : Word) (p l k : Nat) :
    (bfxValue a p (l + 1)).getLsbD k = (decide (k ≤ l) && a.getLsbD (p + k)) := by
  rw [bfxValue, BitVec.getLsbD_and, BitVec.getLsbD_ushiftRight, getLsbD_lowMask, Bool.and_comm]
  rcases Nat.lt_or_ge k 64 with hk | hk
  · rw [decide_eq_decide.2 (by omega : k < 64 ∧ k < l + 1 ↔ k ≤ l)]
  · rw [BitVec.getLsbD_of_ge a _ (by omega), Bool.and_false, Bool.and_false]

/-- Bits p to p + l are the low bits of the source, the others the old ones (R104). -/
theorem getLsbD_bfiValue (old a : Word) (p l : Nat) {k : Nat} (hk : k < 64) :
    (bfiValue old a p (l + 1)).getLsbD k = if p ≤ k ∧ k ≤ p + l then a.getLsbD (k - p) else old.getLsbD k := by
  have hmask : (BitVec.ofNat 64 (2 ^ (l + 1) - 1) <<< p).getLsbD k = decide (p ≤ k ∧ k ≤ p + l) := by
    rw [BitVec.getLsbD_shiftLeft, getLsbD_lowMask, ← decide_not, ← Bool.decide_and, ← Bool.decide_and]
    exact decide_eq_decide.2 (by omega)
  rw [bfiValue, BitVec.getLsbD_or, BitVec.getLsbD_and, BitVec.getLsbD_and, BitVec.getLsbD_not, hmask,
    BitVec.getLsbD_shiftLeft]
  by_cases h : p ≤ k ∧ k ≤ p + l
  · rw [decide_eq_true h, if_pos h, decide_eq_false (by omega : ¬ k < p)]
    simp [hk]
  · rw [decide_eq_false h, if_neg h]
    simp [hk]

/-! ## R103 to R105: the instructions -/

/-- Settles O2: every form is a register result (`writes_of_setS`), and the lemmas above say what its value is bit by bit. -/
theorem bitAndFieldResults : Obligations.BitAndFieldResults := by
  refine ⟨fun s d a b hs => ⟨fun hi => ?clz, fun hi => ?ctz, writes_of_setS hs rfl (by rw [popcount_eq_countP]),
      fun hi => ?bitrev, fun hi => ?bswap, writes_of_setS hs rfl rfl, writes_of_setS hs rfl (mkva_eq_append _ _),
      writes_of_setS hs rfl (dieof_eq_extract _), fun hi => ?addva⟩,
    fun s d a p l m hs => ⟨fun hi => ?bfx, fun hi => ?bfi, writes_of_setS hs rfl (signExtend_eq_ofInt 64 m),
      writes_of_setS hs rfl (zeroExtend_eq_ofNat m), writes_of_setS hs rfl (ldkHi_eq_append _ _)⟩⟩
  case clz =>
    obtain ⟨hle, hzeros, htop⟩ := clz64_spec (s.rS a)
    exact ⟨_, hle, hzeros, htop, writes_of_setS hs rfl rfl hi⟩
  case ctz =>
    obtain ⟨hle, hzeros, hnext⟩ := ctz64_spec (s.rS a)
    exact ⟨_, hle, hzeros, hnext, writes_of_setS hs rfl rfl hi⟩
  case bitrev => exact ⟨_, fun _ hk => getLsbD_reverseBits (s.rS a) hk, writes_of_setS hs rfl rfl hi⟩
  case bswap => exact ⟨_, fun _ hk => extractLsb'_swapBytes (s.rS a) hk, writes_of_setS hs rfl rfl hi⟩
  case addva => exact ⟨_, writes_of_setS hs rfl rfl hi, addvaValue_spec (s.rS a) (s.rS b)⟩
  case bfx => exact ⟨_, writes_of_setS hs rfl rfl hi, getLsbD_bfxValue (s.rS a) p.toNat l.toNat⟩
  case bfi => exact ⟨_, writes_of_setS hs rfl rfl hi, fun _ hk => getLsbD_bfiValue (s.rS d) (s.rS a) p.toNat l.toNat hk⟩

end Sys2Proof.Machine

/-!
Proof of `query`, `pend` and `yield` without a request (O16). A `query` is one register result. A `pend` and a `yield` also change
a queue or a flag of their context, so what a retirement keeps of the issuing context is stated first, field by field.
-/
namespace Sys2Proof.Machine

/-! ## Updates of the issuing context, and their retirement -/

theorem OnlyContext.trans {s t u : State} (hst : OnlyContext s t) (htu : OnlyContext t u) : OnlyContext s u := by
  have hcur : t.cur = s.cur := by rw [hst.rest]
  refine ⟨?_, fun k hk => (htu.others k (hcur ▸ hk)).trans (hst.others k hk)⟩
  rw [htu.rest, hst.rest]

theorem fresh_modCx {s : State} {f : Ctx → Ctx} (hs : Fresh s) (hf : (f s.cx).lates = s.cx.lates) : Fresh (s.modCx f) := by
  rw [Fresh, State.cx_modCx, hf]
  exact hs

theorem State.rS_modCx (s : State) (f : Ctx → Ctx) (r : SReg) : (s.modCx f).rS r = (f s.cx).readS r := by
  rw [State.rS, State.cx_modCx]

@[simp] theorem State.cx_wS (s : State) (d : SReg) (v : Word) : (s.wS d v).cx = s.cx.writeS d v := State.cx_modCx s _

theorem State.rS_wS (s : State) (d r : SReg) (v : Word) : (s.wS d v).rS r = if r = d then written d v else s.rS r := by
  rw [State.rS, State.cx_wS, Ctx.readS_writeS, State.rS]

theorem rS_retire {s : State} (hs : Fresh s) (n : Nat) (r : SReg) : (retire s n).rS r = s.rS r := by
  rw [State.rS, cx_retire s n hs]
  rfl

theorem pc_retire {s : State} (hs : Fresh s) (n : Nat) : (retire s n).cx.pc = s.cx.pc + BitVec.ofNat 48 n := by
  rw [cx_retire s n hs]

theorem notices_retire {s : State} (hs : Fresh s) (n : Nat) : (retire s n).cx.notices = s.cx.notices := by
  rw [cx_retire s n hs, Ctx.clearWait_notices]

theorem restored_retire {s : State} (hs : Fresh s) (n : Nat) : (retire s n).cx.restored = s.cx.restored := by
  rw [cx_retire s n hs, Ctx.clearWait_restored]

/-! ## `query` (R178) -/

theorem queryValue_eq (masked : BitVec 32) (l : Nat) :
    queryValue masked l = if l = 0 then 1 else if 23 < l then 0 else if masked.getLsbD l = true then 2 else 1 := by
  simp [queryValue, leafAssigned]

/-! ## `pend` (R179) -/

/-- The oldest notice has left the queue for register d, and `pend` has not retired yet. -/
def noticeTaken (s : State) (d : SReg) : State :=
  (s.modCx (fun c => { c with notices := s.cx.notices.drop 1 })).wS d (s.cx.notices.headD 0)

theorem exec_pend (s : State) (d : SReg) : exec (.pend d) s = execPend d s := rfl

theorem exec_pend_ready {s : State} {d : SReg} (hi : Ready s (.pend d)) :
    exec (.pend d) s = .next (retire (noticeTaken s d) 4) := by
  rw [exec_pend, execPend, noticeTaken]
  exact issue_ready hi _

theorem noticeTaken_only (s : State) (d : SReg) : OnlyContext s (noticeTaken s d) := by
  rw [noticeTaken, State.wS]
  exact (OnlyContext.modCx s _).trans (OnlyContext.modCx _ _)

theorem fresh_noticeTaken {s : State} (hs : Fresh s) (d : SReg) : Fresh (noticeTaken s d) :=
  fresh_wS _ d _ (fresh_modCx hs rfl)

theorem rS_noticeTaken (s : State) (d r : SReg) :
    (noticeTaken s d).rS r = if r = d then written d (s.cx.notices.headD 0) else s.rS r := by
  rw [noticeTaken, State.rS_wS, State.rS_modCx]
  rfl

theorem notices_noticeTaken (s : State) (d : SReg) : (noticeTaken s d).cx.notices = s.cx.notices.tail := by
  simp [noticeTaken]

theorem pc_noticeTaken (s : State) (d : SReg) : (noticeTaken s d).cx.pc = s.cx.pc := by
  simp [noticeTaken]

/-! ## `yield` without a request (R181) -/

/-- Register d tells whether the context has been restored, the flag is clear, and `yield` has not retired yet. -/
def restoredTaken (s : State) (d : SReg) : State :=
  (s.wS d (if s.cx.restored then 1 else 0)).modCx (fun c => { c with restored := false })

theorem exec_yield (s : State) (d : SReg) : exec (.yield d) s = execYield d s := rfl

theorem exec_yield_unrequested {s : State} {d : SReg} (hi : Ready s (.yield d)) (hreq : s.cx.preq = false) :
    exec (.yield d) s = .next (retire (restoredTaken s d) 4) := by
  rw [exec_yield, execYield, issue_ready hi, restoredTaken]
  simp only [hreq, Bool.false_eq_true, if_false]

theorem restoredTaken_only (s : State) (d : SReg) : OnlyContext s (restoredTaken s d) := by
  rw [restoredTaken, State.wS]
  exact (OnlyContext.modCx s _).trans (OnlyContext.modCx _ _)

theorem fresh_restoredTaken {s : State} (hs : Fresh s) (d : SReg) : Fresh (restoredTaken s d) :=
  fresh_modCx (fresh_wS s d _ hs) rfl

theorem rS_restoredTaken (s : State) (d : SReg) : (restoredTaken s d).rS d = written d (if s.cx.restored then 1 else 0) := by
  calc (restoredTaken s d).rS d
      = (s.wS d (if s.cx.restored then 1 else 0)).rS d := State.rS_modCx _ _ d
    _ = written d (if s.cx.restored then 1 else 0) := by rw [State.rS_wS, if_pos rfl]

theorem restored_restoredTaken (s : State) (d : SReg) : (restoredTaken s d).cx.restored = false := by
  simp [restoredTaken]

theorem pc_restoredTaken (s : State) (d : SReg) : (restoredTaken s d).cx.pc = s.cx.pc := by
  simp [restoredTaken]

/-! ## R178, R179, R181: the instructions -/

/-- Settles O16: `query` is a register result (`writes_of_setS`); `pend` and `yield` retire from `noticeTaken` and
`restoredTaken`, and a retirement keeps their registers, the queue and the flag. -/
theorem queryPendYieldResults : Obligations.QueryPendYieldResults := by
  intro s d a hs
  refine ⟨writes_of_setS hs rfl (queryValue_eq _ _), fun hi => ?pend, fun hi hreq => ?yield⟩
  case pend =>
    have ht := fresh_noticeTaken hs d
    refine ⟨_, exec_pend_ready hi, ?value, ?queue, ?pc, (noticeTaken_only s d).trans (retire_only _ 4 ht), fun r hr => ?others⟩
    case value => rw [rS_retire ht, rS_noticeTaken, if_pos rfl]
    case queue => rw [notices_retire ht, notices_noticeTaken]
    case pc => exact (pc_retire ht 4).trans (congrArg (· + 4) (pc_noticeTaken s d))
    case others => rw [rS_retire ht, rS_noticeTaken, if_neg hr]
  case yield =>
    have ht := fresh_restoredTaken hs d
    refine ⟨_, exec_yield_unrequested hi hreq, ?value, ?flag, ?pc, (restoredTaken_only s d).trans (retire_only _ 4 ht)⟩
    case value => rw [rS_retire ht, rS_restoredTaken]
    case flag => rw [restored_retire ht, restored_restoredTaken]
    case pc => exact (pc_retire ht 4).trans (congrArg (· + 4) (pc_restoredTaken s d))

end Sys2Proof.Machine
